-- ==== Sys2Proof/Word.lean ====
section
/-! DEFINITION. The word types of the package: bytes and FP32 patterns are bit vectors, and every other quantity of
the manual (an address, a count, an index, a fabric time) is a natural number. -/

namespace Sys2Proof

/-- One byte of device memory, of host memory or of a message. -/
abbrev Byte := BitVec 8

/-- A 32-bit pattern: an FP32 value (R42) or the word of a BAR0 register. -/
abbrev W32 := BitVec 32

end Sys2Proof
end

