-- ==== Sys2Proof/Syntax.lean ====
section
/-! DEFINITION. The commands of the block: one constructor of `Instr` for each of the 185 rows of
spec/opcode_table.json, with the operands the spec gives it. A command packet names the queue at whose front its
packet stands (R478), or carries an MCTP request (R576); a message carries its fields; a physical event carries what
was measured or delivered. -/

namespace Sys2Proof

/-- The three carriers of MCTP (R575). -/
inductive Transport where
  | pcie | i3c | smbus
  deriving DecidableEq, Repr

/-- Where a request comes from (R483, R576): a packet at the front of a submission queue, or an MCTP request with the
bytes that follow its CODE. -/
inductive Route where
  | queue (q : Nat)
  | mctp (via : Transport) (body : List Byte)
  deriving DecidableEq, Repr

/-- A fault of the hardware that a tile meets (R138, R145): the value a cell really left in C's FP32 sum at row `i`,
column `j` of the tile, or a ledger value really formed for a row (`byRow`) or column. -/
inductive TileFault where
  | cell (i j : Nat) (v : W32)
  | ledger (byRow : Bool) (k : Nat) (v : W32)
  deriving DecidableEq, Repr

/-- An error that the code over a memory reports in an access (R377): the kind and the unit of PKG_MEM_UE_HI (R385: 0 a
stack, 1 the base-die SRAM of a die, 2 the local store of a core), the offset in it, and whether it is uncorrectable. -/
structure MemErr where
  kind : Nat
  unit : Nat
  loc : Nat
  fatal : Bool
  deriving DecidableEq, Repr

/-- The header of a stage-link message (R277). -/
structure StageHdr where
  kind : Nat
  depth : Nat
  dstStage : Nat
  srcStage : Nat
  gen : Nat
  step : Nat
  mb : Nat
  epoch : Nat
  length : Nat
  deriving DecidableEq, Repr

/-- The header of a collective message (R325); `flags` holds bits SUM_FAULT to NOSTEP. -/
structure CollHdr where
  kind : Nat
  type : Nat
  group : Nat
  flags : Nat
  rid : Nat
  step : Nat
  gen : Nat
  epoch : Nat
  version : Nat
  srcPos : Nat
  chunk : Nat
  enc : Nat
  piece : Nat
  length : Nat
  cs : W32
  cl : W32
  gsq : W32
  count : Nat
  deriving DecidableEq, Repr

/-- The header of a reshard piece or its acknowledgement (R352). -/
structure ReshardHdr where
  kind : Nat
  array : Nat
  newEpoch : Nat
  dstLayer : Nat
  offset : Nat
  length : Nat
  srcPkg : Nat
  format : Nat
  deriving DecidableEq, Repr

/-- What a HELLO frame holds (R391). -/
structure Hello where
  plan : Nat
  port : Nat
  levelMin : Nat
  levelMax : Nat
  addr : Nat
  deriving DecidableEq, Repr

/-- A time message on VC1 (R441), with the TSTAMP of its frame (R442). -/
structure TimeMsg where
  kind : Nat
  locked : Bool
  root : Bool
  priority : Nat
  hops : Nat
  seq : Nat
  rootSerial : Nat
  t2 : Nat
  reqId : Nat
  uncert : Nat
  tstamp : Nat
  deriving DecidableEq, Repr

/-- A capability word (R427). -/
structure CapWord where
  kind : Nat
  levelMin : Nat
  levelMax : Nat
  maker : Nat
  revision : Nat
  features : Nat
  groups : Nat
  groves : Nat
  deriving DecidableEq, Repr

/-- What start-up phase 3 sees of one die (R427, R428): the capability word of a CAP flit that passed its CRC, and the
first lane group that failed to train. -/
structure DieReport where
  cap : Option CapWord
  failedGroup : Option Nat
  deriving DecidableEq, Repr

/-- The header of a WDI flit (R423). -/
structure FlitHdr where
  type : Nat
  flow : Nat
  seq : Nat
  ack : Nat
  nak : Bool
  cflow : Nat
  credit : Nat
  tag : Nat
  dest : Nat
  deriving DecidableEq, Repr

/-- A request entry of a REQ flit (R424). -/
structure WdiReq where
  addr : Nat
  op : Nat
  len : Nat
  tag : Nat
  unit : Nat
  slot : Nat
  ctx : Nat
  arg : List Byte
  deriving DecidableEq, Repr

/-- What a write to configuration space leaves beside MSI-X (R413, R414): the maximum payload and read request sizes in
bytes, D3hot, and the binary logarithm of the size of BAR2. -/
structure CfgWrite where
  maxPayload : Nat := 128
  maxRead : Nat := 512
  d3hot : Bool := false
  bar2Log2 : Nat := 36
  deriving DecidableEq, Repr

/-- The final-stage rails, by what they feed (R568). -/
inductive Rail where
  | die (d : Nat)
  | stack (s : Nat)
  | base
  deriving DecidableEq, Repr

/-- Every command of the block, one constructor per row of spec/opcode_table.json, in the table's order. -/
inductive Instr where
  | nop (r : Route)
  | identify (r : Route)
  | setMode (q : Nat)
  | getStatus (r : Route)
  | linkConfig (q : Nat)
  | copy (q : Nat)
  | fillerConfig (q : Nat)
  | matmul (q : Nat)
  | groupedMatmul (q : Nat)
  | vchain (q : Nat)
  | taskGraphSubmit (q : Nat)
  | branchTableLoad (q : Nat)
  | hollowConfig (q : Nat)
  | ringConfig (q : Nat)
  | stageConfig (q : Nat)
  | fixtureLoad (q : Nat)
  | collGroupConfig (q : Nat)
  | collStart (q : Nat)
  | retract (q : Nat)
  | reshard (q : Nat)
  | stepOpen (q : Nat)
  | stepSeal (q : Nat)
  | stepCommit (q : Nat)
  | stepAbort (q : Nat)
  | updateConfig (q : Nat)
  | healthRead (q : Nat)
  | ftStatus (q : Nat)
  | calSet (q : Nat)
  | ftConfig (q : Nat)
  | patternLoad (q : Nat)
  | patternRun (q : Nat)
  | fwStage (r : Route)
  | fwInstall (r : Route)
  | attest (r : Route)
  | logRead (r : Route)
  | resetUnit (r : Route)
  | dumpRead (r : Route)
  | sensorRead (via : Transport)
  | alertRead (via : Transport)
  | keyEnrol (via : Transport) (body : List Byte)
  | setEndpointId (via : Transport) (eid : Nat)
  | getEndpointId (via : Transport)
  | getMctpVersionSupport (via : Transport)
  | getMessageTypeSupport (via : Transport)
  | alertResponseAddress
  | hostSqBell (q value : Nat)
  | hostCqBell (q value : Nat)
  | queueEnable (q : Nat)
  | queueDisable (q : Nat)
  | queueDrained (q : Nat)
  | queueResume (q : Nat)
  | queueFlush (q : Nat) (resume : Bool)
  | hostFenceWrite (f value : Nat)
  | packetRead (q : Nat) (bytes : List Byte)
  | sqFetchError (q : Nat)
  | replyPost (q : Nat)
  | hostWriteError (q : Nat)
  | pkgMemMapWrite (value : Nat)
  | icPendClear (w value : Nat)
  | icMaskSet (w value : Nat)
  | icMaskClr (w value : Nat)
  | icMaskWrite (w value : Nat)
  | icSrcPrioWrite (src value : Nat)
  | icSrcTargetWrite (src value : Nat)
  | icThreshWrite (target value : Nat)
  | icBell (value : Nat)
  | ftNowLoRead (wide : Bool)
  | calTimeLoRead
  | mgtLogSeqLoRead
  | mgtAlertClear (value : Nat)
  | mgtAlertMaskWrite (value : Nat)
  | pwrLimitWrite (value : Nat)
  | msixEnable (enable masked : Bool) (cfg : CfgWrite := {})
  | bar2Read (offset len : Nat) (errs : List MemErr := [])
  | bar2Write (offset : Nat) (data : List Byte) (errs : List MemErr := [])
  | registerWrite (offset size value : Nat)
  | perstN (asserted : Bool)
  | matrixProduct (inst task : Nat)
  | groupedMatrixProduct (inst task : Nat)
  | vectorChain (inst task : Nat)
  | push (inst task : Nat)
  | drain (inst task : Nat)
  | segmentRelease (inst task : Nat)
  | send (inst task : Nat)
  | sendTransmit (inst task : Nat)
  | reduceScatter (inst task : Nat)
  | allGather (inst task : Nat)
  | allReduce (inst task : Nat)
  | permute (inst task : Nat)
  | copyTask (inst task : Nat)
  | join (inst task : Nat)
  | branch (inst task : Nat)
  | taskComplete (inst task : Nat) (errs : List MemErr := [])
  | j1TileEnd (core : Nat)
  | prefetch (inst task : Nat)
  | tileLedgerCheck (inst task : Nat) (faults : List TileFault)
  | shadowCompare (inst task strip stage : Nat) (lane shadow : W32) (pass : Nat := 0)
  | shadowIndexAdvance (core : Nat)
  | fixtureLaunch (stage : Nat)
  | fixtureHung (stage : Nat)
  | stageMessageReceive (h : StageHdr) (data : List Byte)
  | stageCreditReceive (h : StageHdr)
  | stageResetReceive (h : StageHdr)
  | collDataReceive (h : CollHdr) (payload : List Byte) (digest : Nat) (errs : List MemErr := [])
  | collPrepassReceive (h : CollHdr) (payload : List Byte) (digest : Nat)
  | collVerdictReceive (h : CollHdr) (digest : Nat)
  | retractReceive (h : CollHdr) (digest : Nat)
  | reshardPieceReceive (h : ReshardHdr) (payload : List Byte) (digest : Nat)
  | reshardAckReceive (h : ReshardHdr) (digest : Nat)
  | sealComplete
  | sealTimeout
  | closingSweep (failed : List Nat)
  | commitComplete (shadowFault : Option Nat)
  | abortComplete
  | hppFrameReceive (port : Nat) (frame : List Byte) (fecOk : Bool) (corrected : Nat) (lane : Nat := 0)
  | frameForward (port : Nat)
  | helloReceive (port : Nat) (h : Hello)
  | portTrainingPhaseEnd (port : Nat) (laneRev : Bool) (deskew : List Nat := [])
  | portTrainingTimeout (port : Nat)
  | portRetrain (port : Nat)
  | portDown (port : Nat)
  | wdiFlitReceive (die group : Nat) (h : FlitHdr) (data : List Byte) (crc : Nat) (far : Bool := true)
    (errs : List MemErr := [])
  | wdiRequest (die : Nat) (req : WdiReq) (data : List Byte) (group : Nat := 0) (dest : Nat := 0)
    (errs : List MemErr := [])
  | wdiGroupRetrain (die group : Nat)
  | interruptEndOfService (target : Nat)
  | dieClockLoss (die : Nat)
  | dieClockReturn (die : Nat) (report : DieReport)
  | timeReqSend (port : Nat)
  | timeReqReceive (port : Nat) (m : TimeMsg)
  | timeRespReceive (port : Nat) (m : TimeMsg)
  | timeRespTimeout (port : Nat)
  | rootLoss
  | listenEnd
  | reftimeMark
  | markMiss
  | reftimeLoss
  | reftimeRestore
  | calSetLoad
  | calMiss
  | watchdogExpiry (unit ctx : Nat)
  | checkerProbe (unit : Nat) (pass : Bool)
  | faultDecay
  | crashItemTimeout (kind index : Nat)
  | crashRecordCollected
  | rungComplete (probePass : Bool)
  | rungTimeout
  | stackScrub (stack corrected : Nat) (bad : List Nat)
  | stackInterfaceLoss (stack : Nat)
  | mgtWatchdogRestart
  | mgtRestartComplete
  | fwFlashWriteDone
  | packageReset
  | powerOn
  | qualificationEnd
  | phase1End (railsOk : Bool)
  | phase2End
  | phase3End (dies : List DieReport)
  | phase4End (failed : List Nat)
  | phase5End (failed : List (Nat × Nat))
  | phase6End
  | phase7End
  | ready
  | supplyUnder (vin : Nat)
  | supplyOver (vin : Nat)
  | supplyNormal (vin : Nat)
  | brownOut (vin : Nat)
  | connectorOpen (ia ib : Nat)
  | connectorHoldRelease (ia ib : Nat)
  | currentHold (ia ib : Nat)
  | currentHoldRelease (ia ib : Nat)
  | powerHold (watts : Nat)
  | powerHoldRelease (watts : Nat)
  | thermalHold (sensor : Nat) (temp : Int)
  | thermalHoldRelease (temps : List Int)
  | envActRise
  | corePark (core : Nat)
  | thermalTrip (sensor : Nat) (temp : Int)
  | tripRecovery (die : Nat) (temps : List Int)
  | railFault (r : Rail)
  | railRecovery (die : Nat)
  | launchAt (q : Nat)
  | qualificationRetry
  | calendarStop
  | ftUncert
  | wdiGroupRetrainEnd (die group : Nat) (ok : Bool)
  deriving DecidableEq, Repr

end Sys2Proof
end

