-- ==== Sys2Proof/Machine/Bits.lean ====
section
/-! DEFINITION. Byte order (R16), bit fields and little list operations shared by every other file. -/

namespace Sys2Proof.Machine

/-- The little-endian value of a list of bytes (R16). -/
def leVal : List Byte → Nat
  | [] => 0
  | b :: bs => b.toNat + 256 * leVal bs

/-- `n` bytes of a value, least significant first (R16). -/
def leBytes : Nat → Nat → List Byte
  | 0, _ => []
  | n + 1, v => BitVec.ofNat 8 v :: leBytes n (v / 256)

/-- The field of `n` bytes at byte offset `o` of a structure (R16); bytes past its end read 0. -/
def le (bs : List Byte) (o n : Nat) : Nat := leVal ((bs.drop o).take n)

/-- Bits [hi:lo] of a value (R15). -/
def bits (v hi lo : Nat) : Nat := v / 2 ^ lo % 2 ^ (hi + 1 - lo)

/-- Bit `i` of a value. -/
def bit (v i : Nat) : Bool := v / 2 ^ i % 2 == 1

/-- A Boolean as a bit. -/
def b2n (b : Bool) : Nat := if b then 1 else 0

/-- Bytes `o` to `o + n - 1` are all 0: a reserved field of R18. -/
def zeros (bs : List Byte) (o n : Nat) : Bool := ((bs.drop o).take n).all (· == 0)

/-- Two's complement: the signed reading of an `n`-bit value. -/
def signed (n v : Nat) : Int := if v < 2 ^ (n - 1) then (v : Int) else (v : Int) - 2 ^ n

/-- The `n`-bit two's complement pattern of an integer. -/
def unsigned (n : Nat) (v : Int) : Nat := (v % (2 ^ n : Nat)).toNat

/-- A count that saturates at its largest value. -/
def satAdd (max v n : Nat) : Nat := min max (v + n)

/-- ⌈a ÷ b⌉. -/
def ceilDiv (a b : Nat) : Nat := (a + b - 1) / b

/-- The least multiple of `b` at or above `a`. -/
def alignUp (a b : Nat) : Nat := ceilDiv a b * b

/-- Set the bit `i` of a mask. -/
def setBit (v i : Nat) : Nat := v ||| 2 ^ i

/-- Clear the bit `i` of a mask. -/
def clearBit (v i : Nat) : Nat := if bit v i then v - 2 ^ i else v

/-- Set or clear bit `i`. -/
def putBit (v i : Nat) (b : Bool) : Nat := if b then setBit v i else clearBit v i

/-- Bits set among the low `n`. -/
def popCount (n v : Nat) : Nat := (List.range n).countP (bit v)

/-- Replace the entry at index `i` by what `f` makes of it. -/
def modAt {α : Type} (l : List α) (i : Nat) (f : α → α) : List α :=
  match l[i]? with
  | some a => l.set i (f a)
  | none => l

/-- The first `Option` value a function gives along a list. -/
def firstSome {α β : Type} (f : α → Option β) : List α → Option β
  | [] => none
  | a :: as => (f a).or (firstSome f as)

/-- Entries of size `n` of a table held as bytes. -/
def chunksOf (n : Nat) : Nat → List Byte → List (List Byte)
  | 0, _ => []
  | k + 1, bs => bs.take n :: chunksOf n k (bs.drop n)

/-- Two half-open ranges [a, a + n) and [b, b + m) share a byte. -/
def overlaps (a n b m : Nat) : Bool := 0 < n && 0 < m && a < b + m && b < a + n

/-- ASCII bytes of a short text, padded with 0 to `n` bytes. -/
def ascii (n : Nat) (t : String) : List Byte :=
  ((t.toList.map fun (c : Char) => BitVec.ofNat 8 c.toNat) ++ List.replicate n 0).take n

/-- Pad with 0 (or cut) to exactly `n` bytes. -/
def padTo (n : Nat) (bs : List Byte) : List Byte := (bs ++ List.replicate (n - bs.length) 0).take n

/-- Put `new` at byte offset `o` of a byte list. -/
def patch (bs : List Byte) (o : Nat) (new : List Byte) : List Byte :=
  (padTo o bs) ++ new ++ bs.drop (o + new.length)

end Sys2Proof.Machine
end

