-- ==== Sys2Proof/Machine/Digest.lean ====
section
/-! DEFINITION. The codes and digests: CRC-64 of R327, CRC-32 of R423, and SHA3-512 (R509, R571, R582), which the
manual names and does not define: it is FIPS 202's (log entry 18). -/

namespace Sys2Proof.Machine

/-- One reflected CRC step over one bit of the register. -/
def crcBit (poly c : Nat) : Nat := if c % 2 == 1 then (c / 2) ^^^ poly else c / 2

/-- One byte into a reflected CRC register. -/
def crcByte (poly c : Nat) (b : Byte) : Nat :=
  let c := c ^^^ b.toNat
  crcBit poly (crcBit poly (crcBit poly (crcBit poly (crcBit poly (crcBit poly (crcBit poly (crcBit poly c)))))))

/-- CRC-64, ECMA-182 polynomial 0x42F0_E1EB_A9EA_3693 reflected, initial and final all ones (R327). -/
def crc64 (bs : List Byte) : Nat :=
  (bs.foldl (crcByte 0xC96C5795D7870F42) (2 ^ 64 - 1)) ^^^ (2 ^ 64 - 1)

/-- CRC-32, IEEE 802.3 polynomial 0x04C1_1DB7 reflected (R423; the reflection and the initial and final all ones are
IEEE 802.3's, log entry 18). -/
def crc32 (bs : List Byte) : Nat :=
  (bs.foldl (crcByte 0xEDB88320) (2 ^ 32 - 1)) ^^^ (2 ^ 32 - 1)

/-- Rotate a 64-bit lane left. -/
def rotl64 (v n : Nat) : Nat := (v <<< (n % 64)) % 2 ^ 64 ||| (v >>> (64 - n % 64))

/-- ρ offsets of Keccak, lane x + 5y. -/
def keccakRho : List Nat :=
  [0, 1, 62, 28, 27, 36, 44, 6, 55, 20, 3, 10, 43, 25, 39, 41, 45, 15, 21, 8, 18, 2, 61, 56, 14]

/-- ι round constants of Keccak-f[1600]. -/
def keccakRC : List Nat :=
  [0x1, 0x8082, 0x800000000000808A, 0x8000000080008000, 0x808B, 0x80000001, 0x8000000080008081, 0x8000000000008009,
   0x8A, 0x88, 0x80008009, 0x8000000A, 0x8000808B, 0x800000000000008B, 0x8000000000008089, 0x8000000000008003,
   0x8000000000008002, 0x8000000000000080, 0x800A, 0x800000008000000A, 0x8000000080008081, 0x8000000000008080,
   0x80000001, 0x8000000080008008]

/-- One round of Keccak-f[1600] over 25 lanes. -/
def keccakRound (a : List Nat) (rc : Nat) : List Nat :=
  let at' (l : List Nat) (i : Nat) := l.getD i 0
  let c := (List.range 5).map fun x => at' a x ^^^ at' a (x + 5) ^^^ at' a (x + 10) ^^^ at' a (x + 15) ^^^ at' a (x + 20)
  let d := (List.range 5).map fun x => at' c ((x + 4) % 5) ^^^ rotl64 (at' c ((x + 1) % 5)) 1
  let t := (List.range 25).map fun i => rotl64 (at' a i ^^^ at' d (i % 5)) (keccakRho.getD i 0)
  -- π: lane (y, 2x + 3y) takes lane (x, y); inverted, lane (X, Y) takes (x, y) with y = X, x = (X + 3Y) mod 5
  let p := (List.range 25).map fun i => at' t ((i % 5 + 3 * (i / 5)) % 5 + 5 * (i % 5))
  let e := (List.range 25).map fun i =>
    let row := 5 * (i / 5)
    at' p i ^^^ ((2 ^ 64 - 1 - at' p (row + (i + 1) % 5)) &&& at' p (row + (i + 2) % 5))
  match e with
  | l :: ls => (l ^^^ rc) :: ls
  | [] => []

def keccakF (a : List Nat) : List Nat := keccakRC.foldl keccakRound a

/-- Absorb blocks of 72 bytes (fuel: the number of blocks). -/
def sha3Absorb : Nat → List Nat → List Byte → List Nat
  | 0, a, _ => a
  | n + 1, a, bs =>
    let lanes := (List.range 25).map fun i => if i < 9 then le bs (8 * i) 8 else 0
    sha3Absorb n (keccakF (a.zipWith (· ^^^ ·) lanes)) (bs.drop 72)

/-- SHA3-512: 64 bytes. -/
def sha3_512 (bs : List Byte) : List Byte :=
  let n := bs.length / 72 + 1
  let padLen := n * 72 - bs.length
  let padding : List Byte := if padLen == 1 then [0x86] else 0x06 :: (List.replicate (padLen - 2) 0 ++ [0x80])
  let a := sha3Absorb n (List.replicate 25 0) (bs ++ padding)
  (a.take 8).flatMap (leBytes 8)

end Sys2Proof.Machine
end

