-- ==== Sys2Proof/Machine/StSystem.lean ====
section
/-! DEFINITION. The state of the package outside its work: the mode word, identity, host interface, outputs, time,
interrupts, memory, links, dies, integrity, power, start-up and management. Plain data. -/

namespace Sys2Proof.Machine

/-- Who waits for an answer: packet number `num` of queue `q`, an MCTP request, or nobody. -/
inductive Who where
  | queue (q num : Nat)
  | mctp (via : Transport)
  | nobody
  deriving DecidableEq, Repr

/-! ### Mode and identity (R5, R30 to R38) -/

/-- Values that a SET_MODE left pending for the step boundary (R32). -/
structure PendMode where
  env : Option Nat := none
  c1 : Option Bool := none
  arrival : Option Bool := none
  lean : Option Bool := none
  filler : Option Bool := none
  deriving DecidableEq, Repr

/-- What few commands change: PKG_MODE with its pending values (R30, R32), the lane plan that flash holds for the next
start-up (R389, R410), PKG_MEM_MAP (R364) and what is marked on the lid or fixed in the base die (R5, R433). `c1` is CHECK = C1, `arrival` ORDER = ARRIVAL, `lean` MASTER = LEAN. -/
structure Settings where
  env : Nat := 0
  c1 : Bool := false
  arrival : Bool := false
  lean : Bool := false
  filler : Bool := false
  lanes : Nat := 0
  nextPlan : Nat := 0
  envAct : Nat := 3
  pend : Option PendMode := none
  granule : Nat := 0
  spread : Nat := 0
  serial : Nat := 400913377
  stepping : Byte := 0x42
  dateCode : Nat := 0x2547
  baseRev : Nat := 0
  deriving DecidableEq, Repr

/-! ### Host interface (R467 to R482) -/

/-- A packet that has been read (R473); `num` counts the packets of its queue in the order read, `after` is HEAD past it,
`launched` says that its LAUNCH_AT has come (R481), `start` the
fabric time at which it started. -/
structure Packet where
  num : Nat
  after : Nat
  opcode : Nat
  flags : Nat
  qtag : Nat
  seq : Nat
  waitId : Nat
  signalId : Nat
  waitValue : Nat
  signalValue : Nat
  launchAt : Nat
  replyAddr : Nat
  payload : List Byte
  launched : Bool := false
  start : Option Nat := none
  deriving DecidableEq, Repr

/-- A reply that is formed and not yet posted (R476). `num` is the packet's number; a fixture notice (R297) has none. -/
structure Reply where
  num : Option Nat
  status : Nat
  detail : Nat
  seq : Nat
  tStart : Nat
  tEnd : Nat
  counter : Nat
  qtag : Nat
  opcode : Nat
  replyAddr : Nat
  quiet : Bool
  signal : Option (Nat × Nat)
  deriving DecidableEq, Repr

/-- HOST_Q_STAT.STATE (R469). -/
inductive QState where
  | disabled | running | stopped | draining
  deriving DecidableEq, Repr

/-- HOST_Q_STAT.REASON (R469). -/
inductive QReason where
  | none | halt | format | fetch | write | config
  deriving DecidableEq, Repr

/-- One queue (R467 to R472): its registers, the packets read and not replied to, and the replies due. -/
structure Queue where
  sqBase : Nat := 0
  cqBase : Nat := 0
  sqLog2 : Nat := 0
  cqLog2 : Nat := 0
  state : QState := .disabled
  reason : QReason := .none
  head : Nat := 0
  bell : Nat := 0
  cqHead : Nat := 0
  cqTail : Nat := 0
  phase : Bool := true
  done : Nat := 0
  nextNum : Nat := 0
  read : List Packet := []
  due : List Reply := []
  deriving DecidableEq, Repr

/-- The host interface: queues, fences, the last queue served (R479), the BAR2 window (R417), configuration space with
what R413 fixes in it (the reset values of the two request sizes are PRESUMED, log entry 88), MSI-X (R413, R462). -/
structure HostIf where
  queues : List Queue := List.replicate 64 {}
  fences : List Nat := List.replicate 1024 0
  lastQ : Nat := 63
  bar2Win : Nat := 0
  bar2Drop : Nat := 0
  bar2Log2 : Nat := 36
  deviceId : Nat := 0x1280
  classCode : Nat := 0x120000
  maxPayload : Nat := 128
  maxRead : Nat := 512
  d3hot : Bool := false
  perst : Bool := false
  linkUp : Bool := false
  msixOn : Bool := false
  msixMasked : Bool := false
  msixTable : List Nat := List.replicate 256 0
  deriving DecidableEq, Repr

/-- A write the package made to host memory (R419). -/
structure HostWrite where
  addr : Nat
  bytes : List Byte
  deriving DecidableEq, Repr

/-- How a host read completed (R416, R381). -/
inductive ReadDone where
  | data (bytes : List Byte)
  | unsupported
  | abort
  deriving DecidableEq, Repr

/-- A flit that the package sent on a lane group of a die: header, 128 data bytes and CRC (R423). -/
structure WdiOut where
  die : Nat
  group : Nat
  h : FlitHdr
  data : List Byte
  crc : Nat
  deriving DecidableEq, Repr

/-- What the package has put out and nobody has taken: host writes, MSI-X vectors, completions of host reads, WDI
traffic, MCTP responses, frames by port and lane, answers to the SMBus Alert Response Address, and messages to this
package's own engines by virtual channel. -/
structure Out where
  hostWrites : List HostWrite := []
  msix : List Nat := []
  reads : List ReadDone := []
  wdi : List WdiOut := []
  mctp : List (Transport × List Byte) := []
  frames : List (Nat × Nat × List Byte) := []
  ara : List Nat := []
  loop : List (Nat × List Byte) := []
  deriving DecidableEq, Repr

/-! ### Time (R434 to R455) -/

/-- FT_STAT.STATE (R438). -/
inductive FtState where
  | free | locked | holdover
  deriving DecidableEq, Repr

/-- The phase of locking (R446). -/
inductive FtPhase where
  | idle | listen | elect | align | acquire | settle
  deriving DecidableEq, Repr

/-- What port p knows of its neighbour's time (R440, R441): its report, when its SEQ last advanced, the REQ that waits
for a RESP with its t1, and how many exchanges in a row reported the package's own root. -/
structure PortTime where
  heard : Bool := false
  locked : Bool := false
  priority : Nat := 0
  serial : Nat := 0
  hops : Nat := 0
  seq : Nat := 0
  seqAt : Nat := 0
  uncert : Nat := 0
  req : Option (Nat × Nat) := none
  same : Nat := 0
  deriving DecidableEq, Repr

/-- Fabric time (R434 to R449). `count` and every offset are in units of 2^-16 ns; `u` is U in those units as it
was at `uAt`, `none` before the first lock (reads saturated, R436); `markBase` is the instant from which the next mark
is awaited (R446), `slew` the offset the servo still removes (R443), `good` the exchanges in a row within 4 ns. -/
structure Ft where
  count : Nat := 0
  cycle : Nat := 0
  nowHi : Nat := 0
  nowFrac : Nat := 0
  state : FtState := .free
  root : Bool := false
  refclk : Bool := false
  lastMark : Option Nat := none
  markBase : Nat := 0
  parent : Option Nat := none
  u : Option Nat := none
  uAt : Nat := 0
  unlock : Nat := 0
  markMiss : Nat := 0
  markOff : Nat := 0
  priority : Nat := 128
  parentMask : Nat := 0x0FFF
  uncertLimit : Nat := 16
  phase : FtPhase := .idle
  everLocked : Bool := false
  rootSerial : Nat := 0
  rootPrio : Nat := 0
  hops : Nat := 0
  theta : Int := 0
  delta : Int := 0
  markOfs : Int := 0
  seq : Nat := 0
  lockedAt : Nat := 0
  good : Nat := 0
  slew : Int := 0
  nextReq : Nat := 0
  uptime : Nat := 0
  ports : List PortTime := List.replicate 12 {}
  deriving DecidableEq, Repr

/-- A CAL_SET that waits for its crystal edge (R454). -/
structure CalWait where
  who : Who
  secs : Nat
  frac : Nat
  atFt : Nat
  deriving DecidableEq, Repr

/-- The calendar (R451 to R455); `part` is the part of a crystal cycle that has passed, in 2^-16 ns · 32768; `hiLatch` is what the last
read of CAL_TIME_LO latched, if any. -/
structure Cal where
  secs : Nat := 0
  frac : Nat := 0
  part : Nat := 0
  invalid : Bool := false
  stopFlag : Bool := false
  hiLatch : Option Nat := none
  waits : List CalWait := []
  deriving DecidableEq, Repr

/-! ### Interrupts (R456 to R466) -/

/-- The round-robin choice of one source (R463): the member chosen last and the target held while pending. -/
structure Chosen where
  src : Nat
  last : Option Nat
  held : Option Nat
  deriving DecidableEq, Repr

/-- The interrupt controller (R458); `running` is the stack of running priorities of firmware targets 0 to 16 (R464). -/
structure Ic where
  prio : List Nat := List.replicate 1024 0
  target : List Nat := List.replicate 1024 0x20
  pend : List Nat := List.replicate 32 0
  mask : List Nat := List.replicate 32 0
  thresh : List Nat := List.replicate 96 0
  merged : Nat := 0
  bellIgnored : Nat := 0
  chosen : List Chosen := []
  running : List (List Nat) := List.replicate 17 []
  deriving DecidableEq, Repr

/-! ### Memory (R357 to R385) -/

/-- The stacks: bytes by physical key (stack · 80 GiB + offset) in canonical form, blocks of 64 bytes with an
uncorrectable error by key ÷ 64, and the memory registers. -/
structure Mem where
  cells : List (Nat × Byte) := []
  bad : List Nat := []
  failed : Nat := 0
  trained : Nat := 0
  j1Base : Nat := 0
  j1Size : Nat := 0
  sramCe : Nat := 0
  sramUe : Nat := 0
  ueKind : Nat := 0
  ueUnit : Nat := 0
  ueLoc : Nat := 0
  stackCe : List Nat := List.replicate 16 0
  stackUe : List Nat := List.replicate 16 0
  deriving DecidableEq, Repr

/-! ### Peer ports (R386 to R412) -/

/-- PKG_PORT_STAT.STATE (R412). -/
inductive PortState where
  | down | training | up | retrain
  deriving DecidableEq, Repr

/-- A training phase (R390). -/
inductive TrainPhase where
  | detect | equalise | lock | agree
  deriving DecidableEq, Repr

/-- A frame (R394) without its link-level fields: what travels from hop to hop. -/
structure Frame where
  vc : Nat
  cls : Nat
  som : Bool
  eom : Bool
  dst : Nat
  src : Nat
  hops : Nat
  payload : List Byte
  deriving DecidableEq, Repr

/-- Bytes of a message that is being put together, by SRC and VC (R395). -/
structure Partial where
  src : Nat
  vc : Nat
  bytes : List Byte
  deriving DecidableEq, Repr

/-- A frame that is forwarded: the port and CLASS it came in by, and the frame as it leaves. -/
structure Passing where
  inPort : Nat
  inCls : Nat
  frame : Frame
  deriving DecidableEq, Repr

/-- One peer port (R389 to R412): registers, sequence numbers, replay buffer (LSEQ, frame, the CREDITS
it carries), good frames that are held until the ones before them arrive (LSEQ, frame, receive stamp; R396), credits held,
to be returned and withheld (R401) by 2·VC + CLASS, frames of this package and forwarded frames that wait, and the retry
state. `inMsg` says for each VC whose message is being sent: 0 nobody's, 1 this package's, 2 + SRC a forwarded one.
`lane` counts the frames sent, which go to the lanes in turn (R396); `deskew` is the delay that training measured on each
lane, in units of 2^-16 ns (R442). -/
structure Port where
  state : PortState := .down
  reason : Nat := 0
  nbrPort : Nat := 0
  nbrPlan : Nat := 0
  level : Nat := 0
  laneRev : Bool := false
  replay : Nat := 0
  retrains : Nat := 0
  fecUncorr : Nat := 0
  fecCorr : Nat := 0
  nbr : Nat := 0xFFFFFFFF
  phase : TrainPhase := .detect
  txSeq : Nat := 0
  rxSeq : Nat := 0
  skipping : Bool := false
  sent : List (Nat × Frame × List Nat) := []
  hold : List (Nat × List Byte × Nat) := []
  lane : Nat := 0
  deskew : List Nat := []
  frontReplays : Nat := 0
  credits : List Nat := List.replicate 16 0
  owed : List Nat := List.replicate 16 0
  withheld : List Nat := List.replicate 16 0
  own : List Frame := []
  pass : List Passing := []
  lastVc : Nat := 7
  passTurn : List Bool := List.replicate 8 false
  inMsg : List Nat := List.replicate 8 0
  deriving DecidableEq, Repr

/-- The peer fabric of the package: address and routing (R403 to R412), ports, and messages being put together. -/
structure Links where
  addr : Nat := 0xFFFFFFFF
  tableMode : Bool := false
  dims : List Nat := [0, 0, 0]
  route : List Byte := []
  drop : Nat := 0
  ports : List Port := List.replicate 12 {}
  parts : List Partial := []
  deriving DecidableEq, Repr

/-! ### Dies (R421 to R433) -/

/-- PKG_WDI_STAT.STATE (R433). -/
inductive DieState where
  | notReleased | up | fenced | renegotiating
  deriving DecidableEq, Repr

/-- One lane group of a die's WDI (R425): the SEQ expected and the SEQ sent next, discarding until replay, the replay
buffer of at most 512 flits and the flits that wait for a place in it, replays of its front flit, credits the die
returned and credits owed to it by FLOW, and the writes and accumulates that wait for their DATA flit. -/
structure Group where
  id : Nat
  rxSeq : Nat := 0
  txSeq : Nat := 0
  sent : List (FlitHdr × List Byte) := []
  queue : List (FlitHdr × List Byte) := []
  skipping : Bool := false
  frontReplays : Nat := 0
  retraining : Bool := false
  credits : List Nat := [0, 0, 0]
  owed : List Nat := [0, 0, 0]
  data : List WdiReq := []
  deriving DecidableEq, Repr

/-- A request that waits on a die (R430): its TAG, and for one that came from another die that die, the lane group and the
TAG it came with. -/
structure WdiWait where
  tag : Nat
  origin : Option (Nat × Nat × Nat)
  deriving DecidableEq, Repr

/-- One compute die's interface (R433), the capability word it gave at start-up (R431), its groups that have
carried a flit, the requests that wait on it and the TAG given last. -/
structure Die where
  state : DieState := .notReleased
  reason : Nat := 0
  level : Nat := 0
  failedGroup : Nat := 0xFF
  cap : Option CapWord := none
  replay : Nat := 0
  crc : Nat := 0
  groups : List Group := []
  waiting : List WdiWait := []
  lastTag : Nat := 0
  deriving DecidableEq, Repr

/-! ### Integrity (R499 to R538) -/

/-- A pattern pack in a slot (R507, R509). -/
structure Pack where
  slot : Nat
  bytes : List Byte
  key : Nat
  deriving DecidableEq, Repr

/-- A rung entry of the crash-record header (R530). -/
structure RungEntry where
  rung : Nat
  result : Nat
  unit : Nat
  tBegin : Nat
  tEnd : Nat
  deriving DecidableEq, Repr

/-- An item of the crash record (R532); `section` 0 is the package's, g + 1 that of grove g. -/
structure CrashItem where
  sect : Nat
  kind : Nat
  unit : Nat
  status : Nat
  index : Nat
  tRead : Nat
  data : List Byte
  deriving DecidableEq, Repr

/-- The crash record (R528 to R534); `released` counts the releases. -/
structure Crash where
  state : Nat := 0
  lost : Nat := 0
  episode : Nat := 0
  tDetect : Nat := 0
  tEnd : Nat := 0
  cause : Nat := 0
  firstRung : Nat := 0
  lastRung : Nat := 0
  outcome : Nat := 0
  unit : Nat := 0
  step : Nat := 0
  stepState : Nat := 0
  skipped : Nat := 0
  rungs : List RungEntry := []
  items : List CrashItem := []
  released : Nat := 0
  deriving DecidableEq, Repr

/-- The recovery episode that runs (R521 to R527): the rung, the units it resets (unit codes of R531) and, at rung 1, the
core context; the hung units; whether it still collects; whether a crash record is kept of it (R533); its requests
(R535) as (who, LEVEL, UNIT); groves to release; rungs due later as (rung, unit, context, `only3`); whether a unit is left
fenced; the dies that were UP and that its rungs fence for the length of their reset (R523, R525). `only3` marks the episode of a die that R527 gives rung 3 alone. -/
structure Episode where
  rung : Nat
  units : List Nat
  ctx : Option Nat
  hung : List Nat
  collecting : Bool
  recorded : Bool
  cause : Nat
  firstUnit : Nat
  begun : Nat
  only3 : Bool
  asked : List (Who × Nat × Nat)
  release : List Nat
  due : List (Nat × Nat × Option Nat × Bool) := []
  fenced : Bool := false
  resets : List Nat := []
  deriving DecidableEq, Repr

/-- Integrity registers and state (R516, R537). -/
structure Integ where
  watchMs : Nat := 10
  decayH : Nat := 0x18
  fenceAt : Nat := 2
  episodes : Nat := 0
  rungs : List Nat := [0, 0, 0, 0]
  fenced : Nat := 0
  byHost : Nat := 0
  probeFails : Nat := 0
  rounds : Nat := 0
  packs : List Pack := []
  detect : List Nat := List.replicate 11 0
  faults : List Nat := List.replicate 512 0
  episode : Option Episode := none
  crash : Crash := {}
  recovered : List (Nat × Nat × Nat) := []
  deriving DecidableEq, Repr

/-! ### Power and start-up (R539 to R558) -/

/-- PWR_STAT.SUPPLY (R558), with the state in which no converter runs. -/
inductive Supply where
  | normal | under | over
  deriving DecidableEq, Repr

/-- Power registers and holds (R541 to R558). A hold that is active names its envelope. Temperatures in 1/16 °C.
`trippedBy` holds (die, sensor) of each trip that has not recovered, `returnedAt` when a die came back after a trip,
`hostOnly` the dies that only RESET_UNIT returns (R550), `railOut` the dies whose rail is out of its window (R568), `pins`
the 10 ms means of the last second with their instants (R558). Instants here are those of `Ft.uptime`. -/
structure Pwr where
  supply : Supply := .normal
  thermal : Option Nat := none
  current : Option Nat := none
  power : Option Nat := none
  limit : Nat := 0
  connector : Bool := false
  aOpen : Bool := false
  bOpen : Bool := false
  tripFence : Nat := 0
  trippedBy : List (Nat × Nat) := []
  brownoutLast : Bool := false
  vin : Nat := 0
  iinA : Nat := 0
  iinB : Nat := 0
  pin : Nat := 0
  pins : List (Nat × Nat) := []
  temps : List Int := List.replicate 64 0
  unders : Nat := 0
  overs : Nat := 0
  trips : Nat := 0
  holds : Nat := 0
  releaseSecs : Nat := 1
  thermalSetAt : Option Nat := none
  thermalReleasedAt : Option Nat := none
  returnedAt : List (Option Nat) := [none, none, none, none]
  hostOnly : Nat := 0
  railOut : Nat := 0
  deriving DecidableEq, Repr

/-- Start-up (R553 to R555) and PKG_STATUS (R488): `phase` 0 is input qualification, 1 to 7 the phases, 8 READY;
`resetDue` that RESET_UNIT has called for a package reset (R535). -/
structure Boot where
  off : Bool := false
  qualFails : Nat := 0
  stopped : Bool := false
  phase : Nat := 1
  ready : Bool := false
  degraded : Bool := false
  failed : Bool := false
  recovery : Bool := false
  resetDue : Bool := false
  deriving DecidableEq, Repr

/-! ### Management (R565 to R586) -/

/-- A firmware image (R577): the signed bytes 0 to BODY_LENGTH - 1, and whether its signature verified. -/
structure Image where
  body : List Byte
  valid : Bool
  deriving DecidableEq, Repr

/-- Configuration flash and fuses (R577, R583, R589), and the brown-out flag of the backup domain (R541); `image` is
`none` when flash holds no verifiable image (R578). -/
structure Flash where
  ftPriority : Nat := 128
  ftMask : Nat := 0x0FFF
  ftLimit : Nat := 16
  keys : List (Option (List Byte)) := List.replicate 15 none
  enrol : Nat := 0
  bootCount : Nat := 1
  image : Option Image
  fusedSvn : Nat := 0
  brownout : Bool := false
  deriving DecidableEq, Repr

/-- An event-log entry (R571) but for its CHAIN. -/
structure LogEntry where
  seq : Nat
  ft : Nat
  calS : Nat
  calF : Nat
  kind : Nat
  severity : Nat
  flags : Nat
  status : Nat
  unit : Nat
  data : List Byte
  deriving DecidableEq, Repr

/-- The staging buffer (R578, R586): size when open, the pieces copied in (newest first), a write to flash. -/
structure Staging where
  size : Option Nat := none
  pieces : List (Nat × List Byte) := []
  writing : Option Who := none
  deriving DecidableEq, Repr

/-- An MCTP request: one of the CODEs of R576 with its body, or a control message (R575). -/
inductive MctpAsk where
  | code (code : Nat) (body : List Byte)
  | setEid (eid : Nat)
  | getEid
  | getVersion
  | getTypes
  deriving DecidableEq, Repr

/-- The management subsystem (R565 to R586): the running image, the requests that wait for a restart (R566), the log with the CHAIN of each entry, alerts, staging,
MCTP. -/
structure Mgt where
  image : Image
  log : List (LogEntry × List Byte) := []
  overwritten : Nat := 0
  dropped : Nat := 0
  nextSeq : Nat := 0
  lastChain : List Byte := List.replicate 64 0
  restarting : Bool := false
  held : List LogEntry := []
  waits : List (Transport × MctpAsk) := []
  seqHi : Nat := 0
  alert : Nat := 0
  alertMask : Nat := 0
  stage : Staging := {}
  eid : Nat := 0
  deriving DecidableEq, Repr

end Sys2Proof.Machine
end

