-- ==== Sys2Proof/Machine/StTasks.lean ====
section
/-! DEFINITION. The state of tasks: resident graphs, instances, what runs, branch tables, cores. Plain data. -/

namespace Sys2Proof.Machine

/-- A tensor as a task uses it: its descriptor (R85), with the addresses of view windows already turned into stack
addresses (R262, R275). In a ring's window the slot lies apart from its scales (R360): an element whose address is at
least `split`, unless that is 0, lies `split` lower from `upper` on. -/
structure Tensor where
  addr : Nat
  format : Nat
  rank : Nat
  hslot : Nat
  fill : W32
  ext : List Nat
  str : List Nat
  scaleAddr : Nat
  split : Nat := 0
  upper : Nat := 0
  deriving DecidableEq, Repr

/-- A resident graph (R77): its task descriptors and token-table entries as bytes. -/
structure Graph where
  id : Nat
  j1 : Bool
  tasks : List (List Byte)
  tokens : List (List Byte)
  deriving DecidableEq, Repr

/-- A token object (R92). -/
structure Token where
  depth : Nat
  count : Nat
  reserved : Nat := 0
  held : Nat := 0
  deriving DecidableEq, Repr

/-- A task of an instance: waiting, ready since a fabric time (R93, R96), running, completed (R106 included). -/
inductive TaskState where
  | waiting
  | ready (since : Nat)
  | running
  | complete
  deriving DecidableEq, Repr

/-- The part of a command's work that one core task does: for a matrix product its group, batch index and block (R135);
for a vector chain the range of axis-1 indices (R194). -/
inductive Part where
  | whole
  | block (group batch m0 mc n0 nc : Nat)
  | rows (lo hi : Nat)
  deriving DecidableEq, Repr

/-- What launched an instance: a packet (R79, R134, R193, R376), or a fixture (R291) of a stage with its table entry. -/
inductive Origin where
  | packet (w : Who) (op seq : Nat)
  | fixture (stage entry : Nat)
  deriving DecidableEq, Repr

/-- A failure of a task (R112): the fabric time of the failure, the task, the status, the unit it ran on. -/
structure Failure where
  time : Nat
  task : Nat
  status : Nat
  unit : Nat
  deriving DecidableEq, Repr

/-- A live instance (R77, R80), or the blocks of a command (R135, R194). `step` is the number of the step open at its
launch, `inStep` that it belongs to the current step; `chosen` and `unchosen` the subgraphs decided so far (R106);
`summ` its summary slots 0 to 255 (R179), `rows` the rows of reductions over all axes that the parts of a VCHAIN have left
for its end (R194), as (stage, row, items). -/
structure Inst where
  iid : Nat
  graph : Option Nat
  num : Nat
  j1 : Bool
  origin : Origin
  step : Option Nat
  inStep : Bool
  mode : Nat
  descs : List (List Byte)
  parts : List Part
  toks : List Token
  tasks : List TaskState
  chosen : List Nat := []
  unchosen : List Nat := []
  summ : List (Nat × List W32) := []
  rows : List (Nat × Nat × List (Bool × W32)) := []
  fail : Option Failure := none
  noMore : Bool := false
  ran : Nat := 0
  tiles : Nat := 0
  bytes : Nat := 0
  started : Nat
  deriving DecidableEq, Repr

/-- A RUN that is held over the limits of R80, or a fixture's launch under the same rule. -/
structure HeldRun where
  graph : Nat
  num : Nat
  origin : Origin
  step : Option Nat
  inStep : Bool
  deriving DecidableEq, Repr

/-- What one write adds to a health slot (R183): its counts, the exponent of the value written, EMPTY. -/
structure Tally where
  zeros : Nat := 0
  sat : Nat := 0
  nonfin : Nat := 0
  oob : Nat := 0
  raised : Nat := 0
  elems : Nat := 0
  exp : Option Int := none
  empty : Bool := false
  deriving DecidableEq, Repr

/-- Something a task writes. `put`: an element of `n` bytes, `nib`: an E2M1 element in the low or the high nibble,
each with what it counts in slot `slot` (0xFFFF: none); `bytes`: bytes that no slot counts; `accum`: an addition into
an FP32 (`wide`) or BF16 element through the accumulate unit (R371); `tally`: counts alone. -/
inductive WOp where
  | put (slot addr n bits : Nat) (t : Tally)
  | nib (slot addr : Nat) (hi : Bool) (bits : Nat) (t : Tally)
  | bytes (addr : Nat) (bs : List Byte)
  | accum (slot addr : Nat) (wide : Bool) (v : W32)
  | tally (slot : Nat) (t : Tally)
  deriving DecidableEq, Repr

/-- A tile of a matrix product that is not yet written (R126): its place in the task's order `ord` and in C, its FP32 sums over the rows and columns in
range, and the ledger's values ℓ and λ when it is checked (R138). -/
structure Tile where
  ord : Nat
  checked : Bool
  group : Nat
  batch : List Nat
  rows : List Nat
  cols : List Nat
  sums : List (List W32)
  lr : List W32 := []
  lc : List W32 := []
  lamR : List W32 := []
  lamC : List W32 := []
  kLen : Nat
  deriving DecidableEq, Repr

/-- Work a running task still has to do, in order: tiles, or strips with what they write. -/
inductive Work where
  | tile (t : Tile)
  | strip (index : Nat) (ws : List WOp)
  deriving DecidableEq, Repr

/-- A running task (R96): the unit code of R531, its context, its tensors (those of group 0 for a grouped product, with
the group's own in `groups`), its remaining work, the status it will end with, the summary it will write (R179, R180),
the versions it holds as (ring, version) (R262, R265), the tolerance in force at its launch (R141), `err`
the address of an uncorrectable error it reads (R378). -/
structure Run where
  iid : Nat
  task : Nat
  unit : Nat
  j1 : Bool
  paused : Bool := false
  began : Nat
  tensors : List Tensor := []
  groups : List (List Tensor) := []
  epi : Option (List Byte) := none
  tau : Nat := 0
  work : List Work := []
  fate : Nat := 0
  summary : Option (Nat × List W32) := none
  rows : List (Nat × Nat × List (Bool × W32)) := []
  holds : List (Nat × Nat) := []
  bytes : Nat := 0
  err : Option Nat := none
  waits : Bool := false
  deriving DecidableEq, Repr

/-- A health-counter slot (R181, R182): ELEMENTS counts the elements written. -/
structure Health where
  slot : Nat
  zeros : Nat := 0
  sat : Nat := 0
  nonfin : Nat := 0
  oob : Nat := 0
  raised : Nat := 0
  maxExp : Int := -32768
  flags : Nat := 0
  elems : Nat := 0
  deriving DecidableEq, Repr

/-- Bytes a core holds ahead of a task's launch (R107, R108). -/
structure Prefetched where
  iid : Nat
  task : Nat
  core : Nat
  addr : Nat
  bytes : List Byte
  deriving DecidableEq, Repr

/-- A core's shadow index, the instant of its last advance (R189, R190), and whether it is parked (R548). -/
structure Core where
  shadow : Nat := 0
  shadowAt : Nat := 0
  parked : Bool := false
  deriving DecidableEq, Repr

/-- Tasks and cores. -/
structure Tasks where
  graphs : List Graph := []
  branches : List (List Byte) := []
  insts : List Inst := []
  held : List HeldRun := []
  runs : List Run := []
  nextIid : Nat := 0
  cores : List Core := List.replicate 512 {}
  fetched : List Prefetched := []
  health : List Health := []
  summ : List (Nat × List W32) := []
  tauDef : Nat := 16
  ledgerMiss : Nat := 0
  shadowMiss : Nat := 0
  deriving DecidableEq, Repr

end Sys2Proof.Machine
end

