-- ==== Sys2Proof/Machine/StWork.lean ====
section
/-! DEFINITION. The state of steps and the update, hollows, rings, hosted stages and fixtures, collectives, resharding.
Plain data. -/

namespace Sys2Proof.Machine

/-! ### Steps (R200 to R238) -/

/-- PKG_STEP_STATE.STATE (R200). -/
inductive StepState where
  | none | opened | sealing | sealed | committing | committed | aborted
  deriving DecidableEq, Repr

/-- A STEP_OPEN or UPDATE_CONFIG that waits (R207, R225), with its payload. -/
structure Waiting where
  who : Who
  payload : List Byte
  deriving DecidableEq, Repr

/-- The step (R200 to R217, R236). `first` is the failure of R214 as (fabric time, bit, status); `abortDue` that R201 or
R214 has called for an abort, `aborting` that it has begun (R235); `committedNum` the step committed last in this
sequence, `openAt` the raw count at which it opened, `base` the first step of the sequence (R334); `swept` the end of the closing sweep (R503); `chosen` the slots
that rings chose for the commit (R263), `commitHeld` that the commit waits for a slot, `tear` the failure that
reaches the update (R233). -/
structure Step where
  state : StepState := .none
  num : Nat := 0
  failMask : Nat := 0
  spike : Bool := false
  torn : Bool := false
  late : Bool := false
  lsFloor : Bool := false
  first : Option (Nat × Nat × Nat) := none
  committedNum : Option Nat := none
  base : Nat := 0
  epoch : Nat := 0
  lr : W32 := 0
  tokens : Nat := 0
  record : Nat := 0
  tOpen : Nat := 0
  openAt : Nat := 0
  tSeal : Nat := 0
  tEnd : Nat := 0
  modeWord : Nat := 0
  cursorOpen : List Nat := List.replicate 8 0
  expOpen : Int := 0
  goodOpen : Nat := 0
  sealWho : Who := .nobody
  sealMs : Nat := 0
  swept : Bool := false
  commitWho : Who := .nobody
  abortWho : List Who := []
  tear : Option Nat := none
  abortDue : Bool := false
  aborting : Bool := false
  endStatus : Nat := 0
  chosen : List (Nat × Nat) := []
  commitHeld : Bool := false
  unchecked : Nat := 0
  tiles : Nat := 0
  recomputed : Nat := 0
  updNonfin : Nat := 0
  vanished : Nat := 0
  satMaster : Nat := 0
  noise : List (List Nat) := []
  opens : List Waiting := []
  deriving DecidableEq, Repr

/-- The update configuration and surviving numbers (R218 to R238): the payload and layer table in force, a
configuration that waits for the boundary; UPDATES, EXP, GOOD, the spike baseline, noise averages of G0 to G3, and the
running products. -/
structure Upd where
  cfg : Option (List Byte) := none
  layers : List (List Byte) := []
  waits : List (Waiting × List (List Byte)) := []
  updates : Nat := 0
  exp : Int := 0
  good : Nat := 0
  mean : W32 := 0
  dev : W32 := 0
  n : Nat := 0
  emaG2 : List W32 := List.replicate 4 0
  emaS : List W32 := List.replicate 4 0
  p1 : W32 := 0x3F800000#32
  p2 : W32 := 0x3F800000#32
  deriving DecidableEq, Repr

/-! ### Hollows (R239 to R255) -/

/-- A frame (R247, R252): its key, format byte and extents, whether it has branch bits, its size in bytes, the units of
the region it occupies (none when dropped), its place in the order of the stage's pushes, and its bytes while it lies in
the top cache (R254). -/
structure Kept where
  key : Nat
  format : Nat
  ext : List Nat
  hasBits : Bool
  size : Nat
  units : List Nat
  dropped : Bool
  order : Nat := 0
  cached : Option (List Byte) := none
  deriving DecidableEq, Repr

/-- An open segment: frames, top first. -/
structure Segment where
  mb : Nat
  frames : List Kept
  deriving DecidableEq, Repr

/-- The hollow of one hosted stage (R241); segments in the order they were opened; `pushes` counts the frames pushed. -/
structure Hollow where
  on : Bool := false
  cache : Nat := 0
  base : Nat := 0
  size : Nat := 0
  reserve : Nat := 0
  segs : List Segment := []
  pushes : Nat := 0
  deriving DecidableEq, Repr

structure Hollows where
  stages : List Hollow := List.replicate 8 {}
  drops : Nat := 0
  exhausted : Nat := 0
  pushWait : List (Nat × Nat) := []
  deriving DecidableEq, Repr

/-! ### Weight version rings (R260 to R269) -/

/-- A version that has not retired: its number, its slot, the layout epoch stored at its publication. -/
structure Version where
  num : Nat
  slot : Nat
  epoch : Nat
  deriving DecidableEq, Repr

structure Ring where
  id : Nat
  slots : Nat
  format : Nat
  retain : Nat
  count : Nat
  base : Nat
  stride : Nat
  scaleBase : Nat
  scaleStride : Nat
  versions : List Version
  deriving DecidableEq, Repr

/-- The stamp of a micro-batch (R266). -/
structure Stamp where
  stage : Nat
  mb : Nat
  version : Nat
  epoch : Nat
  deriving DecidableEq, Repr

structure Rings where
  rings : List Ring := []
  version : Nat := 0
  forced : Nat := 0
  stamps : List Stamp := []
  deriving DecidableEq, Repr

/-! ### Hosted stages and fixtures (R270 to R301) -/

/-- A message in its slot (R274, R279); `at_` is the raw count at its arrival, `who` the instance that consumed it. -/
structure Held where
  grad : Bool
  slot : Nat
  mb : Nat
  step : Nat
  epoch : Nat
  at_ : Nat
  who : Option Nat := none
  deriving DecidableEq, Repr

/-- The credit view of one link on which a stage sends (R278): DEPTH and free slots, and a RESET kept for a GEN. -/
structure View where
  depth : Nat := 0
  free : List Nat := []
  kept : Option (Nat × Nat) := none
  deriving DecidableEq, Repr

/-- A hosted stage (R270 to R273, R290), its slip and instants as raw counts (R450); `cfg` is the payload of its CONFIGURE, `launched` counts its fixtures since
then, `prev` is the launch instant of the fixture before, `tail` the least T of the next fixture (R287). -/
structure Stage where
  on : Bool := false
  resync : Bool := false
  cfg : List Byte := []
  gen : Nat := 0
  cursor : Nat := 0
  slip : Nat := 0
  slips : Nat := 0
  discard : Nat := 0
  launched : Nat := 0
  prev : Option Nat := none
  tail : Option Nat := none
  msgs : List Held := []
  down : View := {}
  up : View := {}
  deriving DecidableEq, Repr

/-- A fixture in the table (R285): its entry, who loaded it (queue, SEQ, QTAG, REPLY_ADDR); once launched its instant L,
its a and the slip after as raw counts, its record flags, its place k in the stage's count and its queues. -/
structure Fixture where
  id : Nat
  entry : List Byte
  q : Nat
  seq : Nat
  qtag : Nat
  replyAddr : Nat
  launched : Bool := false
  hung : Bool := false
  l : Nat := 0
  a : Nat := 0
  slip : Nat := 0
  flags : Nat := 0
  k : Nat := 0
  deriving DecidableEq, Repr

structure Pipe where
  stages : List Stage := List.replicate 8 {}
  fixtures : List Fixture := []
  nextFix : Nat := 0
  stray : Nat := 0
  deriving DecidableEq, Repr

/-! ### Collectives (R302 to R343) -/

/-- A message that waits for its collective to start here (R337). -/
structure Early where
  rid : Nat
  h : CollHdr
  payload : List Byte
  deriving DecidableEq, Repr

/-- A collective group (R302, R343): configuration, counts, which collectives completed (RID with STEP, `none` under
NOSTEP), messages held early, and messages in the receive buffers that find no room (R337). -/
structure CollGroup where
  on : Bool := false
  resync : Bool := false
  dual : Bool := false
  n : Nat := 0
  pos : Nat := 0
  tau : Nat := 16
  gen : Nat := 0
  members : List Nat := []
  digest : Nat := 0
  agree : Nat := 0
  discard : Nat := 0
  sent : Nat := 0
  recv : Nat := 0
  done : List (Nat × Option Nat) := []
  early : List Early := []
  stalled : List Early := []
  deriving DecidableEq, Repr

/-- A piece: reverse half or not, chunk, index in the chunk. -/
structure PieceKey where
  rev : Bool
  chunk : Nat
  piece : Nat
  deriving DecidableEq, Repr

/-- A contribution that waits at its owner in direct mode (R314). -/
structure Contribution where
  key : PieceKey
  src : Nat
  vals : List W32
  raised : List Bool
  cs : W32
  cl : W32
  deriving DecidableEq, Repr

/-- The values that an owner wrote of a piece of its chunk. -/
structure Result where
  key : PieceKey
  vals : List W32
  deriving DecidableEq, Repr

/-- An operand that waits in a per-source slot of a collective (R372): what the accumulate request held. -/
structure SlotIn where
  addr : Nat
  wide : Bool
  slot : Nat
  vals : List W32
  deriving DecidableEq, Repr

/-- A collective that runs or waits for a context (R336). `x` is the contribution as it enters the reduction; `raw` and
`scales` the elements and scale bytes that a gather or permute sends, or the signs and the BF16 scales of a contribution
under SIGN; `local2` the local term of R340; `ctx` its context; `agreed` the exponent bytes of the pre-pass by piece;
`reduced` and `gathered` the pieces whose reduce and gather are done here; `direct` the contributions that wait at their
owner; `results` what the owner wrote; the verdict bits SUM_FAULT and MISMATCH, the VERDICT that waits, and whether this
member has merged. -/
structure Coll where
  group : Nat
  rid : Nat
  type : Nat
  iid : Nat
  task : Nat
  step : Option Nat
  body : List Byte
  tn : List Tensor
  version : Nat
  retired : Bool
  e : Nat
  ctx : Option Nat := none
  x : List W32 := []
  local2 : W32 := 0
  raw : List Nat := []
  scales : List Nat := []
  agreed : List (PieceKey × List Nat) := []
  reduced : List PieceKey := []
  gathered : List PieceKey := []
  direct : List Contribution := []
  results : List Result := []
  sumFault : Bool := false
  mismatch : Bool := false
  pieces : Nat := 0
  sentData : Bool := false
  retracted : Bool := false
  verdict : Option CollHdr := none
  verdictSent : Bool := false
  slots : List SlotIn := []
  deriving DecidableEq, Repr

/-- A collective that completed in the current step: what a retraction of it needs (R333, R335), and its terms for the
noise block (R340): RID, whether it sent data, whether it is retracted, and the two squares when it has STATS. -/
structure CollPast where
  group : Nat
  rid : Nat
  type : Nat
  sentData : Bool
  retracted : Bool
  stats : Option (W32 × W32)
  deriving DecidableEq, Repr

structure Colls where
  groups : List CollGroup := List.replicate 4 {}
  running : List Coll := []
  past : List CollPast := []
  deriving DecidableEq, Repr

/-! ### Resharding (R344 to R354) -/

/-- A round that runs (R351): the pieces it sent that no ACK has answered, as (ARRAY, DST_LAYER, OFFSET, the package it went to). -/
structure Round where
  who : Who
  final : Bool
  incoming : Nat
  received : Nat := 0
  sent : Nat := 0
  outstanding : List (Nat × Nat × Nat × Nat) := []
  deriving DecidableEq, Repr

/-- A round that is accepted and has not begun (R350), with the moves and the table that its checks read. -/
structure HeldRound where
  who : Who
  payload : List Byte
  moves : List (List Byte)
  table : List (List Byte)
  deriving DecidableEq, Repr

/-- The layout epoch and the reshard (R346 to R353); `payload` and `table` are the first round's. -/
structure Reshard where
  epoch : Nat := 0
  active : Bool := false
  payload : List Byte := []
  table : List (List Byte) := []
  held : List HeldRound := []
  round : Option Round := none
  deriving DecidableEq, Repr

end Sys2Proof.Machine
end

