-- ==== Sys2Proof/Machine/State.lean ====
section
/-! DEFINITION. The state of the package as plain data: the settings that few commands change, everything else, and
the commands that wait. -/

namespace Sys2Proof.Machine

/-- Why the machine stops with a fault. The package has no exception entry: every error the spec gives is an effect on
the state, so no command of this model raises a fault. -/
inductive Fault where
  /-- Raised by no command (safe: a model that does not stop claims nothing by stopping). -/
  | unsupported
  deriving DecidableEq, Repr

/-- Why a command has no meaning here. -/
inductive Refusal where
  /-- Raised by the arm of a command that has no meaning yet (safe: nothing is claimed of it). -/
  | notModelled (mnemonic : String)
  deriving DecidableEq, Repr

/-- Everything that commands act on, but for the settings and the queue of commands. -/
structure Pkg where
  host : HostIf := {}
  out : Out := {}
  ft : Ft := {}
  cal : Cal := {}
  ic : Ic := {}
  mem : Mem := {}
  links : Links := {}
  dies : List Die := List.replicate 4 {}
  integ : Integ := {}
  pwr : Pwr := {}
  boot : Boot := {}
  mgt : Mgt
  flash : Flash
  tasks : Tasks := {}
  step : Step := {}
  upd : Upd := {}
  hollow : Hollows := {}
  rings : Rings := {}
  pipe : Pipe := {}
  colls : Colls := {}
  reshard : Reshard := {}
  free : Nat := 0
  deriving DecidableEq, Repr

/-- The image the model takes to be in flash at manufacture (R589): a header alone, of version 1.0.0, SVN 0 and
stepping B. DESIGN CHOICE, log entry 4. -/
def shippedImage : Image :=
  { body := [0, 0, 0, 1, 0, 0x42, 0, 0, 64, 0, 0, 0] ++ List.replicate 52 0, valid := true }

/-- The state of the block. `pending` holds the commands that wait, first in first out. -/
structure State where
  pending : List Instr
  set : Settings
  p : Pkg
  deriving DecidableEq, Repr

/-- The machine right after package reset: start-up at phase 1 (R535), nothing listed in memory, and the boot entry
not yet written. -/
def State.reset : State :=
  { pending := []
    set := {}
    p := { mgt := { image := shippedImage }, flash := { image := some shippedImage } } }

end Sys2Proof.Machine
end

