-- ==== Sys2Proof/Machine/Flits.lean ====
section
/-! DEFINITION. The sending side of the Worah Die Interface (R422 to R425, R427, R428): flits and their replay buffers,
request entries, completions, the capability word and the roles of lane groups. -/

namespace Sys2Proof.Machine

/-- Statuses of R484 that a completion can hold (R424). -/
def stOk : Nat := 0x00
def stBadParam : Nat := 0x11
def stDieFenced : Nat := 0x51

def modDie (d : Nat) (f : Die → Die) (p : Pkg) : Pkg := { p with dies := modAt p.dies d f }

def groupAt (x : Die) (g : Nat) : Group := (x.groups.find? fun y => y.id == g).getD { id := g }

def setGroup (y : Group) (x : Die) : Die := { x with groups := y :: x.groups.filter fun z => z.id != y.id }

def laneGroup (p : Pkg) (d g : Nat) : Group := groupAt (p.dies.getD d {}) g

def modLaneGroup (d g : Nat) (f : Group → Group) (p : Pkg) : Pkg := modDie d (fun x => setGroup (f (groupAt x g)) x) p

/-- The role of a lane group (R422): 0 MEM, 1 XDIE, 2 COLL, 3 CTRL. -/
def roleOf (g : Nat) : Nat := if g < 80 then 0 else if g < 112 then 1 else if g < 124 then 2 else 3

/-! ### Flits (R423, R425) -/

/-- The 64-bit header of a flit. -/
def flitHead (h : FlitHdr) : Nat :=
  h.type * 2 ^ 60 + h.flow * 2 ^ 58 + h.seq * 2 ^ 48 + h.ack * 2 ^ 38 + b2n h.nak * 2 ^ 37 + h.cflow * 2 ^ 35 +
    h.credit * 2 ^ 29 + h.tag * 2 ^ 13 + h.dest * 2 ^ 9

/-- The CRC-32 of a flit, over its header and 1024 data bits (R423). -/
def flitCrc (h : FlitHdr) (data : List Byte) : Nat := crc32 (leBytes 8 (flitHead h) ++ padTo 128 data)

/-- A flit leaves with the ACK of the moment and the credits owed in the lowest FLOW that is owed any. -/
def putFlit (d g : Nat) (h : FlitHdr) (data : List Byte) (p : Pkg) : Pkg :=
  let y := laneGroup p d g
  let f := ((List.range 3).find? fun f => 0 < y.owed.getD f 0).getD 0
  let n := min 63 (y.owed.getD f 0)
  let h := { h with ack := (y.rxSeq + 1023) % 1024, cflow := f, credit := n }
  let p := modLaneGroup d g (fun y => { y with owed := modAt y.owed f fun v => v - n }) p
  { p with out.wdi := p.out.wdi ++ [⟨d, g, h, padTo 128 data, flitCrc h data⟩] }

/-- A flit takes the next SEQ and a place in the replay buffer, and leaves. -/
def launchFlit (d g : Nat) (x : FlitHdr × List Byte) (p : Pkg) : Pkg :=
  let h := { x.1 with seq := (laneGroup p d g).txSeq }
  putFlit d g h x.2 (modLaneGroup d g (fun y => { y with txSeq := (y.txSeq + 1) % 1024, sent := y.sent ++ [(h, x.2)] }) p)

/-- The flits that wait leave as far as the replay buffer has room (R425). -/
def drainFlits (d g : Nat) (p : Pkg) : Pkg :=
  let y := laneGroup p d g
  let n := if y.retraining then 0 else 512 - y.sent.length
  (y.queue.take n).foldl (fun q x => launchFlit d g x q) (modLaneGroup d g (fun y => { y with queue := y.queue.drop n }) p)

/-- The package has a flit to send. -/
def sendFlit (d g type flow tag dest : Nat) (data : List Byte) (p : Pkg) : Pkg :=
  drainFlits d g
    (modLaneGroup d g (fun y => { y with queue := y.queue ++ [(⟨type, flow, 0, 0, false, 0, 0, tag, dest⟩, data)] }) p)

/-- An IDLE flit: its link fields alone count, it takes no SEQ and is not replayed (DESIGN CHOICE, log entry 23). -/
def idleFlit (d g : Nat) (nak : Bool) (p : Pkg) : Pkg :=
  putFlit d g ⟨0, 0, (laneGroup p d g).txSeq, 0, nak, 0, 0, 0, 0⟩ [] p

/-- Every flit after ACK is sent again out of the replay buffer, and counted (R425, R433). -/
def replayFlits (d g : Nat) (p : Pkg) : Pkg :=
  (laneGroup p d g).sent.foldl (fun q x => putFlit d g x.1 x.2 (modDie d (fun y => { y with replay := satAdd 0xFFFF y.replay 1 }) q)) p

/-! ### Requests and completions (R424) -/

/-- A request entry of 32 bytes. -/
def reqBytes (r : WdiReq) : List Byte :=
  leBytes 6 r.addr ++ leBytes 1 r.op ++ leBytes 1 r.len ++ leBytes 2 r.tag ++ leBytes 2 r.unit ++ leBytes 2 r.slot ++
    leBytes 1 r.ctx ++ padTo 17 r.arg

/-- The request that an entry holds. -/
def reqOf (b : List Byte) : WdiReq :=
  ⟨le b 0 6, le b 6 1, le b 7 1, le b 8 2, le b 10 2, le b 12 2, le b 14 1, (b.drop 15).take 17⟩

/-- A request goes to a die on group 124, with a TAG of its own that is never 0, and waits there (R424, R430). -/
def sendRequest (d : Nat) (origin : Option (Nat × Nat × Nat)) (r : WdiReq) (p : Pkg) : Pkg :=
  let t := (p.dies.getD d {}).lastTag % 0xFFFF + 1
  sendFlit d 124 1 0 0 0 (reqBytes { r with tag := t })
    (modDie d (fun x => { x with lastTag := t, waiting := x.waiting ++ [⟨t, origin⟩] }) p)

/-- A completion goes to a die, and after it the data of a read (R424); nothing is sent to a die that is not UP (R430). -/
def respond (d g tag status : Nat) (data : List Byte) (p : Pkg) : Pkg :=
  if (p.dies.getD d {}).state != .up then p
  else
    let p := sendFlit d g 3 1 0 0 (leBytes 2 tag ++ leBytes 1 status) p
    if data.isEmpty then p else sendFlit d g 2 1 tag 0 data p

/-- A request that waited on a die completes: the die that sent it gets its response. -/
def completeWait (w : WdiWait) (status : Nat) (p : Pkg) : Pkg :=
  match w.origin with
  | some (d, g, tag) => respond d g tag status [] p
  | none => p

/-! ### Capability exchange (R427, R428) -/

/-- The base die's capability word (R427, R433): maker 1, revision as PKG_WDI_BASE shows it, level 1 alone, no feature. -/
def baseCap (set : Settings) : List Byte :=
  [1, 1, 1, 0] ++ leBytes 2 1 ++ leBytes 2 set.baseRev ++ leBytes 4 0 ++ leBytes 2 128 ++ leBytes 2 4

/-- The CTRL groups of a die are trained anew, and the base die's CAP flit goes out on group 124 (R427). -/
def sendCap (set : Settings) (d : Nat) (p : Pkg) : Pkg :=
  sendFlit d 124 4 2 0 0 (baseCap set) (modDie d (fun x => { x with groups := [], waiting := [], lastTag := 0 }) p)

/-- The plan of R422 goes to a die that is released (R428), in one FENCE flit on group 124 with the role code of each of
the 128 groups in turn (DESIGN CHOICE, log entry 84). -/
def sendRoles (d : Nat) (p : Pkg) : Pkg :=
  sendFlit d 124 5 2 0 0 ((List.range 128).map fun g => BitVec.ofNat 8 (roleOf g)) p

end Sys2Proof.Machine
end

