-- ==== Sys2Proof/Machine/Ops.lean ====
section
/-! DEFINITION. The operations every family shares: the clock's reading, interrupts (R461 to R464), alerts and the
event log (R569 to R573), replies (R472, R476), the start of a packet (R478, R479). -/

namespace Sys2Proof.Machine

/-! ### Status codes (R484), beside those of Flits.lean -/

def stPending : Nat := 0x01
def stNotReady : Nat := 0x02
def stBadOpcode : Nat := 0x10
def stBadState : Nat := 0x12
def stAborted : Nat := 0x20
def stNonfinite : Nat := 0x21
def stLedger : Nat := 0x22
def stDigest : Nat := 0x23
def stRetracted : Nat := 0x24
def stChecksum : Nat := 0x25
def stStash : Nat := 0x30
def stRetired : Nat := 0x31
def stIndex : Nat := 0x32
def stSlip : Nat := 0x40
def stGroveFenced : Nat := 0x50
def stMem : Nat := 0x52
def stHung : Nat := 0x53
def stAuth : Nat := 0x60
def stRollback : Nat := 0x61
def stFailed : Nat := 0x70

/-! ### Time -/

/-- Fabric time in whole nanoseconds (R434). -/
def now (p : Pkg) : Nat := p.ft.count / 65536

/-- Nanoseconds of the package's clock since start-up began: intervals of seconds are measured by it, which setting the
count of fabric time (R446) does not move. -/
def upNs (p : Pkg) : Nat := p.ft.uptime / 65536

/-- Nanoseconds since an instant, both in units of 2^-16 ns; the count wraps at 2^80 of them (R434). -/
def sinceNs (p : Pkg) (t : Nat) : Nat := (p.ft.count + 2 ^ 80 - t) % 2 ^ 80 / 65536

/-- The raw count has reached a time in whole nanoseconds (R450). -/
def reached (p : Pkg) (ns : Nat) : Bool := ns * 65536 ≤ p.ft.count

/-! ### Interrupts -/

/-- Bit `s` of a table of 32-bit words (R458). -/
def wordBit (l : List Nat) (s : Nat) : Bool := bit (l.getD (s / 32) 0) (s % 32)

/-- Set or clear bit `s` of a table of 32-bit words. -/
def putWordBit (l : List Nat) (s : Nat) (b : Bool) : List Nat := modAt l (s / 32) fun w => putBit w (s % 32) b

/-- The targets a source may choose (R459, R463): RR_GROVES skips fenced groves. -/
def icMembers (p : Pkg) (s : Nat) : List Nat :=
  let t := p.ic.target.getD s 0
  match bits t 31 30 with
  | 0 => [bits t 6 0]
  | 1 => (List.range 16).filter fun g => bit t g && !bit p.integ.fenced g
  | _ => (List.range (bits t 13 8 + 1)).map fun i => 32 + bits t 5 0 + i

/-- The choice record of a source (R463). -/
def icChosen (p : Pkg) (s : Nat) : Chosen :=
  (p.ic.chosen.find? fun c => c.src == s).getD ⟨s, none, none⟩

/-- The member that follows the one chosen last, in ascending order and wrapping; the lowest at first (R463). -/
def icNext (members : List Nat) (last : Option Nat) : Option Nat :=
  match last with
  | none => members.head?
  | some l => (members.find? fun m => l < m).or members.head?

/-- The target of a source: the one it holds, else the one it would choose now. -/
def icTarget (p : Pkg) (s : Nat) : Option Nat :=
  (icChosen p s).held.or (icNext (icMembers p s) (icChosen p s).last)

/-- A source is eligible (R462). -/
def eligible (p : Pkg) (s : Nat) : Bool :=
  wordBit p.ic.pend s && !wordBit p.ic.mask s &&
    match icTarget p s with
    | some t => p.ic.thresh.getD t 0 < p.ic.prio.getD s 0
    | none => false

def setChosen (c : Chosen) (p : Pkg) : Pkg :=
  { p with ic.chosen := c :: p.ic.chosen.filter fun d => d.src != c.src }

/-- A source takes its target and holds it while its pending bit is set (R463). -/
def icTake (s : Nat) (p : Pkg) : Pkg :=
  match icTarget p s with
  | some t => setChosen ⟨s, some t, some t⟩ p
  | none => p

/-- The pending bit of a source clears, and with it the choice it holds (R463). -/
def icClear (s : Nat) (p : Pkg) : Pkg :=
  setChosen ⟨s, (icChosen p s).last, none⟩ { p with ic.pend := putWordBit p.ic.pend s false }

/-- One MSI-X message on vector `v`, unless MSI-X is off or the function masked (R462). -/
def sendMsix (v : Nat) (p : Pkg) : Pkg :=
  if p.host.msixOn && !p.host.msixMasked && !p.host.perst then { p with out.msix := p.out.msix ++ [v] } else p

/-- The running priority of a firmware target (R464). -/
def runningPrio (p : Pkg) (t : Nat) : Nat := ((p.ic.running.getD t []).head?).getD 0

/-- The source a firmware target is given: the highest PRIO above its running priority, the lower number on a tie. -/
def bestSource (p : Pkg) (t : Nat) : Option Nat :=
  ((List.range 1024).filter fun s =>
    eligible p s && icTarget p s == some t && runningPrio p t < p.ic.prio.getD s 0).foldl
    (fun best s => match best with
      | none => some s
      | some b => if p.ic.prio.getD b 0 < p.ic.prio.getD s 0 then some s else some b) none

/-- A firmware target can be reached: a control core while its die is UP (R430). -/
def targetUp (p : Pkg) (t : Nat) : Bool := 16 ≤ t || (p.dies.getD (t / 4) {}).state == .up

/-- Delivery to a firmware target (R464), to a control core by an INTERRUPT request on group 124 (R465). The entry's ADDR
is the unit code of the control core, its LEN and UNIT are 0 (DESIGN CHOICE, log entry 84). -/
def icDeliver (t : Nat) (p : Pkg) : Pkg :=
  match if targetUp p t then bestSource p t else none with
  | none => p
  | some s =>
    let pr := p.ic.prio.getD s 0
    let p := icClear s p
    let p := { p with ic.running := modAt p.ic.running t fun st => pr :: st }
    if t < 16 then
      sendRequest (t / 4) none ⟨0x0200 + t, 7, 0, 0, 0, 0, 0, leBytes 2 s ++ leBytes 1 pr ++ leBytes 1 (t % 4)⟩ p
    else p

/-- What follows when a source became eligible: a message to its vector, or delivery to its firmware target. -/
def icAct (s : Nat) (p : Pkg) : Pkg :=
  match icTarget p s with
  | some t => if 32 ≤ t then sendMsix (t - 32) p else icDeliver t p
  | none => p

/-- Make a change, and act for every source of `srcs` that became eligible by it (R462). -/
def icChange (srcs : List Nat) (f : Pkg → Pkg) (p : Pkg) : Pkg :=
  (srcs.filter fun s => !eligible p s && eligible (f p) s).foldl (fun q s => icAct s q) (f p)

/-- A source event (R461). -/
def raise (s : Nat) (p : Pkg) : Pkg :=
  if p.ic.prio.getD s 0 == 0 then p
  else if wordBit p.ic.pend s then { p with ic.merged := satAdd 0xFFFF p.ic.merged 1 }
  else icChange [s] (fun p => icTake s { p with ic.pend := putWordBit p.ic.pend s true }) p

/-! ### Alerts and the event log -/

def alThermal : Nat := 0
def alSupply : Nat := 1
def alRail : Nat := 2
def alDegraded : Nat := 3
def alFailed : Nat := 4
def alLog : Nat := 5

/-- Latch an alert cause (R569). -/
def alert (b : Nat) (p : Pkg) : Pkg := { p with mgt.alert := setBit p.mgt.alert b }

/-- ALERT_N is low (R569). -/
def alertLow (p : Pkg) : Bool := p.mgt.alert - (p.mgt.alert &&& p.mgt.alertMask) != 0

/-- The severity of each KIND (R573). -/
def severity (kind : Nat) : Nat :=
  if kind == 0x0C04 then 0
  else if kind == 0x0202 || kind == 0x0602 || kind == 0x0C05 || kind == 0x0D01 || kind == 0x0D03 then 3
  else if kind == 0x0102 || kind == 0x0401 || kind == 0x0501 || kind == 0x0503 || kind == 0x0A01 || kind == 0x0C01 ||
      kind == 0x0C03 then 1
  else 2

/-- Bytes 0 to 63 of an entry (R571). -/
def LogEntry.bytes (e : LogEntry) : List Byte :=
  leBytes 8 e.seq ++ leBytes 8 e.ft ++ leBytes 6 e.calS ++ leBytes 2 e.calF ++ leBytes 2 e.kind ++
    leBytes 1 e.severity ++ leBytes 1 e.flags ++ leBytes 1 e.status ++ [0] ++ leBytes 2 e.unit ++ padTo 32 e.data

/-- Put an entry at the end of the log with the next SEQ and its CHAIN, over the oldest entry when the log is full
(R570, R571); source 344 fires, and an ALERT entry sets MGT_ALERT.LOG (R573). -/
def logPut (e : LogEntry) (p : Pkg) : Pkg :=
  let e := { e with seq := p.mgt.nextSeq }
  let chain := sha3_512 (p.mgt.lastChain ++ e.bytes)
  let full := 65536 ≤ p.mgt.log.length
  let old := if full then p.mgt.log.drop 1 else p.mgt.log
  let p := { p with
    mgt.log := old ++ [(e, chain)]
    mgt.overwritten := satAdd 0xFFFF p.mgt.overwritten (b2n full)
    mgt.nextSeq := p.mgt.nextSeq + 1
    mgt.lastChain := chain }
  raise 344 (if e.severity == 3 then alert alLog p else p)

/-- An item of DATA at its natural size (R572). -/
def d2 (v : Nat) : List Byte := leBytes 2 v
def d4 (v : Nat) : List Byte := leBytes 4 v
def d8 (v : Nat) : List Byte := leBytes 8 v

/-- The items that fit in 32 bytes, in order (R572). -/
def packItems : List (List Byte) → List Byte → List Byte
  | [], acc => acc
  | i :: is, acc => if acc.length + i.length ≤ 32 then packItems is (acc ++ i) else packItems is acc

/-- Write an event-log entry (R571); during a management restart it is held, or dropped and counted (R566). -/
def logAt (near : Bool) (kind status unit : Nat) (items : List (List Byte)) (p : Pkg) : Pkg :=
  let e : LogEntry :=
    { seq := 0, ft := now p, calS := if p.cal.invalid then 0 else p.cal.secs
      calF := if p.cal.invalid then 0 else p.cal.frac, kind, severity := severity kind
      flags := b2n p.cal.invalid + 2 * b2n near, status, unit, data := packItems items [] }
  if p.mgt.restarting then
    if p.mgt.held.length < 256 then { p with mgt.held := p.mgt.held ++ [e] }
    else { p with mgt.dropped := satAdd 0xFFFF p.mgt.dropped 1 }
  else logPut e p

def log (kind status unit : Nat) (items : List (List Byte)) (p : Pkg) : Pkg := logAt false kind status unit items p

/-- A detection of class `k` (R501). -/
def detect (k : Nat) (p : Pkg) : Pkg := { p with integ.detect := modAt p.integ.detect k fun v => satAdd 0xFFFFFFFF v 1 }

/-! ### Readiness (R486, R488) -/

/-- The dies that a running rung holds fenced for the length of its reset alone (R523, R525). -/
def rungResets (p : Pkg) : List Nat := match p.integ.episode with | some e => e.resets | none => []

/-- The package has a die that is not UP, a fenced grove or a failed stack (R486); a die that a rung resets does not count until the rung leaves it fenced (R523; DEDUCED, log entry 91). -/
def degradedNow (p : Pkg) : Bool :=
  (((List.range p.dies.length).zip p.dies).any fun x => x.2.state != .up && !(rungResets p).elem x.1) || p.integ.fenced != 0 || p.mem.failed != 0

/-- Bring DEGRADED to what R486 says, with source 384 and the alert when it changes; before phase 3 has left the dies
nothing is reported. -/
def refresh (p : Pkg) : Pkg :=
  let d := degradedNow p && 4 ≤ p.boot.phase
  if d == p.boot.degraded then p
  else
    let p := raise 384 { p with boot.degraded := d }
    if d then alert alDegraded p else p

/-- Set PKG_FAILED (R522, R566). -/
def failPackage (p : Pkg) : Pkg :=
  if p.boot.failed then p else alert alFailed (raise 384 { p with boot.failed := true })

/-! ### Queues and replies -/

/-- The host reaches the package from the end of phase 2 (R485), while PERST_N is deasserted. -/
def hostOpen (p : Pkg) : Bool := p.host.linkUp && !p.host.perst

def queueOf (p : Pkg) (q : Nat) : Queue := p.host.queues.getD q {}

def modQueue (q : Nat) (f : Queue → Queue) (p : Pkg) : Pkg := { p with host.queues := modAt p.host.queues q f }

/-- The reply to a packet (R476): T_START is 0 for one refused under R475. -/
def Packet.reply (pk : Packet) (p : Pkg) (status detail counter : Nat) : Reply :=
  { num := some pk.num, status, detail := detail % 65536, seq := pk.seq, tStart := pk.start.getD 0, tEnd := now p
    counter := min counter 0xFFFFFFFF, qtag := pk.qtag, opcode := pk.opcode, replyAddr := pk.replyAddr
    quiet := bit pk.flags 4
    signal := if bit pk.flags 1 && pk.start.isSome then some (pk.signalId, pk.signalValue) else none }

def findPacket (p : Pkg) (q num : Nat) : Option Packet := (queueOf p q).read.find? fun pk => pk.num == num

/-- The MCTP response (R576). -/
def mctpBody (status detail counter : Nat) (data : List Byte) : List Byte :=
  leBytes 1 status ++ [0] ++ leBytes 2 detail ++ leBytes 4 counter ++ data

def sendMctp (via : Transport) (bytes : List Byte) (p : Pkg) : Pkg := { p with out.mctp := p.out.mctp ++ [(via, bytes)] }

/-- Answer who waits: the reply to a packet becomes due on its queue (it is dropped when the packet is no longer there,
R420); an MCTP request gets its response. -/
def answer (w : Who) (status detail counter : Nat) (p : Pkg) : Pkg :=
  match w with
  | .nobody => p
  | .mctp via => sendMctp via (mctpBody status detail counter []) p
  | .queue q num =>
    match findPacket p q num with
    | none => p
    | some pk =>
      modQueue q (fun qu => { qu with
        read := qu.read.filter fun k => k.num != num
        due := qu.due ++ [pk.reply p status detail counter] }) p

/-- Write to host memory (R419); nothing leaves while PERST_N is asserted. -/
def hostWrite (addr : Nat) (bytes : List Byte) (p : Pkg) : Pkg :=
  if p.host.perst then p else { p with out.hostWrites := p.out.hostWrites ++ [⟨addr, bytes⟩] }

/-- Answer OK with a block: written to DEST for a packet, inline over MCTP (R490, R576). -/
def answerBlock (w : Who) (dest counter : Nat) (data : List Byte) (p : Pkg) : Pkg :=
  match w with
  | .mctp via => sendMctp via (mctpBody stOk 0 counter data) p
  | _ => answer w stOk 0 counter (hostWrite dest data p)

/-- WAIT is satisfied (R480). -/
def fenceMet (p : Pkg) (pk : Packet) : Bool :=
  !bit pk.flags 0 || (p.host.fences.getD pk.waitId 0 + 2 ^ 32 - pk.waitValue) % 2 ^ 32 < 2 ^ 31

/-- The launch time has come (R481). -/
def launchMet (p : Pkg) (pk : Packet) : Bool := !bit pk.flags 2 || pk.launched || reached p pk.launchAt

/-- The previous packet of the queue lets this one start (R478): it has replied, or under OVERLAP it has started or was
refused. -/
def prevMet (qu : Queue) (pk : Packet) : Bool :=
  match qu.read.find? fun k => k.num + 1 == pk.num with
  | some k => bit pk.flags 3 && k.start.isSome
  | none => bit pk.flags 3 || qu.due.all fun r => r.num.all fun n => n + 1 != pk.num

/-- Opcodes whose work the management processor does, which wait while it restarts (R566). -/
def needsMgt (op : Nat) : Bool := op / 256 == 0x0C || op == 0x0B01 || op / 256 == 0x0D

/-- The packet of a queue that may start now (R478): its first packet that has not started. -/
def startable (p : Pkg) (q : Nat) : Option Packet :=
  let qu := queueOf p q
  match qu.state, qu.read.find? fun k => k.start.isNone with
  | .running, some pk =>
    if prevMet qu pk && fenceMet p pk && launchMet p pk && !(needsMgt pk.opcode && p.mgt.restarting) then some pk
    else none
  | _, _ => none

/-- The queue served next (R479): the first with a ready packet after the last queue served, wrapping. -/
def servedNext (p : Pkg) : Option Nat :=
  ((List.range 64).map fun i => (p.host.lastQ + 1 + i) % 64).find? fun q => (startable p q).isSome

/-- Packets allowed before READY and under PKG_FAILED (R485): the status of the refusal, if any. -/
def gate (p : Pkg) (op : Nat) : Option Nat :=
  let always := op == 0x0100 || op == 0x0101 || op == 0x0103
  if p.boot.failed then
    if always || op == 0x0C04 || op == 0x0D02 || op == 0x0D01 then none else some stFailed
  else if p.boot.ready || always then none
  else some stNotReady

/-- The packet with opcode `op` that starts now on queue `q`, with its T_START (R478, R479, R481). -/
def startPacket (p : Pkg) (q op : Nat) : Option (Packet × Pkg) :=
  if servedNext p == some q then
    match startable p q with
    | some pk =>
      if pk.opcode == op then
        let pk' := { pk with start := some (now p) }
        some (pk', modQueue q (fun qu => { qu with
          read := qu.read.map fun k => if k.num == pk.num then pk' else k }) { p with host.lastQ := q })
      else none
    | none => none
  else none

/-- Start the packet `op` at the front of queue `q` and give it its meaning; with no such packet ready nothing happens
(log entry 6). -/
def onPacket (q op : Nat) (f : Who → List Byte → State → State) (s : State) : Host.Outcome State Fault Refusal :=
  match startPacket s.p q op with
  | none => .next s
  | some (pk, p) =>
    match gate p op with
    | some st => .next { s with p := answer (.queue q pk.num) st 0 0 p }
    | none => .next (f (.queue q pk.num) pk.payload { s with p := p })

/-- The same for a command that changes the package's working state alone. -/
def onPacketP (q op : Nat) (f : Who → List Byte → Settings → Pkg → Pkg) (s : State) :
    Host.Outcome State Fault Refusal :=
  onPacket q op (fun w b s => { s with p := f w b s.set s.p }) s

/-- MCTP requests are taken from the end of start-up phase 2, and in recovery wait (R576). -/
def mctpUp (p : Pkg) : Bool := (3 ≤ p.boot.phase || p.boot.recovery) && !p.boot.off

/-- One is handled at once, as the management processor does not restart (R566). -/
def mctpOpen (p : Pkg) : Bool := mctpUp p && !p.mgt.restarting

/-- A request that comes during a restart waits until it completes (R566). -/
def mctpHold (via : Transport) (a : MctpAsk) (p : Pkg) : Pkg :=
  if mctpUp p then { p with mgt.waits := p.mgt.waits ++ [(via, a)] } else p

/-- The meaning of a request with its body: 2 reserved bytes and the payload (R576). -/
def mctpServe (via : Transport) (body : List Byte) (f : Who → List Byte → State → State) (s : State) : State :=
  if zeros body 0 2 then f (.mctp via) (body.drop 2) s else { s with p := answer (.mctp via) stBadParam 0 0 s.p }

/-- A command that comes by packet or by MCTP (R483, R576). -/
def onRoute (r : Route) (op : Nat) (f : Who → List Byte → State → State) (s : State) :
    Host.Outcome State Fault Refusal :=
  match r with
  | .queue q => onPacket q op f s
  | .mctp via body =>
    .next (if mctpOpen s.p then mctpServe via body f s else { s with p := mctpHold via (.code op body) s.p })

/-- The package's working state changes, the rest stays. -/
def onP (f : Settings → Pkg → Pkg) (s : State) : Host.Outcome State Fault Refusal :=
  .next { s with p := f s.set s.p }

end Sys2Proof.Machine
end

