-- ==== Sys2Proof/Machine/Clock.lean ====
section
/-! DEFINITION. What passes with time when no command waits: one cycle of the 156.25 MHz clock (R435), with the servo's
correction (R443) and the calendar's crystal (R451). -/

namespace Sys2Proof.Machine

/-- The units of 2^-16 ns that cycle `c` of a group of five adds (R435): 2 097 152 in the group, three times 419 430 and
twice 419 431. Which cycles add the greater number is a DESIGN CHOICE (log entry 1). -/
def cycleUnits (c : Nat) : Nat := 2097152 * (c + 1) / 5 - 2097152 * c / 5

/-- The servo removes at most 100 ppm of a cycle (R443). -/
def slewStep (slew : Int) : Int := max (-41) (min 41 slew)

/-- The count wraps with its 64 bits of nanoseconds and 16 of fraction (R434). -/
def countWrap (v : Int) : Nat := (v % (2 ^ 80 : Nat)).toNat

def ftTick (f : Ft) : Ft :=
  let d := slewStep f.slew
  { f with
    count := countWrap ((f.count : Int) + cycleUnits f.cycle + d)
    cycle := (f.cycle + 1) % 5
    slew := f.slew - d
    uptime := f.uptime + cycleUnits f.cycle }

/-- Whole seconds and crystal cycles that have passed (R451); the calendar is never disciplined from fabric time. -/
def calTick (units : Nat) (c : Cal) : Cal :=
  let part := c.part + units * 32768
  if part < 65536000000000 then { c with part }
  else
    let part := part - 65536000000000
    if c.frac + 1 < 32768 then { c with part, frac := c.frac + 1 }
    else { c with part, frac := 0, secs := (c.secs + 1) % 2 ^ 48 }

/-- One cycle of the clock; while the package is off only the calendar counts, until it stops (R452). -/
def tick (s : State) : State :=
  if s.p.boot.off then
    (if s.p.cal.stopFlag then s else { s with p := { s.p with cal := calTick (cycleUnits s.p.ft.cycle) s.p.cal } })
  else { s with p := { s.p with ft := ftTick s.p.ft, cal := calTick (cycleUnits s.p.ft.cycle) s.p.cal } }

end Sys2Proof.Machine
end

