-- ==== Sys2Proof/Config.lean ====
section
/-! DEFINITION. The values the manual leaves open or keeps secret, as constants without a body: no proof can see
one, so a theorem holds whatever it is. Each names its entry of the assumption log. -/

namespace Sys2Proof.Config

/-- Which elements a STRICT task had written when it stopped (R176 "Which subset it wrote is not defined"): element
`e` of the failure numbered `n`. Log entry 2. -/
opaque strictWrote (n e : Nat) : Bool

/-- The slope of DACT for MOD 5 to 7 (R258: a fixed function of y and the bit, within an error bound). Log entry 13. -/
opaque dactSlope (mod : Nat) (y : W32) (bit : Bool) : W32

/-- Which of the rows that store to one byte of branch bits stores last (R257 with R152 names no order), for the byte at
an address. Log entry 77. -/
opaque lastWriter (n a : Nat) : Nat

/-- Which of the groups whose C regions share the byte at address `a` gives it its value, in task `task` of the instance
numbered `iid` (R133 "which one is not defined"). Log entry 90. -/
opaque groupOwner (iid task a : Nat) : Nat

/-- Byte `i` of the J1 spill area after spill number `n` (R100: local stores and contexts, whose layout no rule gives).
Log entry 32. -/
opaque spillByte (n i : Nat) : Byte

/-- Byte `i` of frame number `order` of the top cache after its loss number `n` (R521 names the contents as lost). Log
entry 80. -/
opaque lostByte (n order i : Nat) : Byte

/-- The correctly rounded value of transcendental operation `op` where 1024 bits do not settle the rounding
(R162). Log entry 14. -/
opaque mathSettled (op : Nat) (x : W32) : W32

/-- Byte `i` of the crash-record region after RELEASE number `n` (R534 "undefined"). Log entry 15. -/
opaque crashByte (n i : Nat) : Byte

/-- The data of a crash-record item (R532 names the content of each KIND and gives no layout): item `kind`, `index` of
the collection numbered `n`. Log entry 15. -/
opaque crashData (n kind index : Nat) : List Byte

/-- ML-DSA-87 verification of a signature over a SHA3-512 digest with a public key (R509, R577, R584). Log entry 16. -/
opaque mlDsaVerify (key digest sig : List Byte) : Bool

/-- Byte `i` of the ML-DSA-87 signature that the identity key makes over a digest (R581, R582). Log entry 16. -/
opaque identitySign (digest : List Byte) (i : Nat) : Byte

/-- Byte `i` of the identity public key (R581). Log entry 16. -/
opaque identityKey (i : Nat) : Byte

/-- Byte `i` of Mangema's signature on the identity certificate (R582). Log entry 16. -/
opaque certSignature (i : Nat) : Byte

/-- Byte `i` of Mangema's pack and key-enrolment public key (R509, R584). Log entry 16. -/
opaque mangemaKey (i : Nat) : Byte

/-- Byte `i` of Mangema's firmware public key in the boot ROM (R577). Log entry 16. -/
opaque firmwareKey (i : Nat) : Byte

/-- Whether a firmware image's resident-pack probe patterns, and a loaded pattern, give the expected digest on this
unit: the run of a pattern on hardware (R513). Log entry 17. -/
opaque patternFault (n : Nat) : Bool

/-- The resident pack of a firmware image (R507: part of the image; the manual gives its contents no place there).
Log entry 49. -/
opaque residentPack (image : List Byte) : List Byte

/-- Byte `i` of the MCTP version number the package reports (R575 names DSP0236 and no version). Log entry 19. -/
opaque mctpVersion (i : Nat) : Byte

end Sys2Proof.Config
end

