-- ==== Sys2Proof/Machine/Mem.lean ====
section
/-! DEFINITION. The stacks: the interleave (R365), the canonical list of bytes, reads and writes of device addresses,
uncorrectable errors (R377 to R382). -/

namespace Sys2Proof.Machine

/-- Bytes of one stack, and of the stack region (R357, R359). -/
def stackSize : Nat := 0x1400000000
def regionSize : Nat := 0x14000000000
def quarterSize : Nat := 0x5000000000

/-- g of R365. -/
def granShift (set : Settings) : Nat := match set.granule with | 0 => 12 | 1 => 16 | _ => 21

/-- The stack that holds a device address (R365). -/
def stackOf (set : Settings) (a : Nat) : Nat :=
  let g := granShift set
  if set.spread == 0 then a / 2 ^ g % 16
  else 4 * (a / quarterSize) + (a % quarterSize) / 2 ^ g % 4

/-- The offset in that stack (R365). -/
def offsetOf (set : Settings) (a : Nat) : Nat :=
  let g := granShift set
  if set.spread == 0 then a / 2 ^ (g + 4) * 2 ^ g + a % 2 ^ g
  else (a % quarterSize) / 2 ^ (g + 2) * 2 ^ g + (a % quarterSize) % 2 ^ g

/-- Where the byte of a device address lies: stack · 80 GiB + offset. -/
def keyOf (set : Settings) (a : Nat) : Nat := stackOf set a * stackSize + offsetOf set a

/-- The device address of a byte: the inverse of `keyOf`. -/
def addrOf (set : Settings) (k : Nat) : Nat :=
  let g := granShift set
  let s := k / stackSize
  let o := k % stackSize
  if set.spread == 0 then o / 2 ^ g * 2 ^ (g + 4) + s * 2 ^ g + o % 2 ^ g
  else s / 4 * quarterSize + (o / 2 ^ g * 2 ^ (g + 2) + s % 4 * 2 ^ g + o % 2 ^ g)

/-- What a listed or unlisted key reads as: an unlisted byte reads 0 (R587). -/
def cellGet : List (Nat × Byte) → Nat → Byte
  | [], _ => 0
  | c :: cs, k => if c.1 == k then c.2 else cellGet cs k

/-- Put a byte at a key, keeping the list canonical. -/
def cellPut (k : Nat) (v : Byte) : List (Nat × Byte) → List (Nat × Byte)
  | [] => if v == 0 then [] else [(k, v)]
  | c :: cs =>
    if k < c.1 then (if v == 0 then c :: cs else (k, v) :: c :: cs)
    else if k == c.1 then (if v == 0 then cs else (k, v) :: cs)
    else c :: cellPut k v cs

/-- The canonical form: keys strictly rising from above `lo`, and no entry 0. -/
def wfFrom : Nat → List (Nat × Byte) → Bool
  | _, [] => true
  | lo, c :: cs => lo ≤ c.1 && c.2 != 0 && wfFrom (c.1 + 1) cs

/-- Memory is in canonical form. -/
def Memory.wf (cells : List (Nat × Byte)) : Bool := wfFrom 0 cells

/-- The byte at a device address. -/
def readByte (set : Settings) (p : Pkg) (a : Nat) : Byte := cellGet p.mem.cells (keyOf set a)

/-- `n` bytes from a device address. -/
def readMem (set : Settings) (p : Pkg) (a n : Nat) : List Byte := (List.range n).map fun i => readByte set p (a + i)

/-- A little-endian field in device memory (R16). -/
def readLe (set : Settings) (p : Pkg) (a n : Nat) : Nat := leVal (readMem set p a n)

/-- Store bytes from a device address on. -/
def cellsWrite (set : Settings) : Nat → List Byte → List (Nat × Byte) → List (Nat × Byte)
  | _, [], cells => cells
  | a, b :: bs, cells => cellsWrite set (a + 1) bs (cellPut (keyOf set a) b cells)

/-- Write bytes; a write that replaces a whole 64-byte block clears its error (R379). -/
def writeMem (set : Settings) (a : Nat) (bs : List Byte) (p : Pkg) : Pkg :=
  { p with
    mem.cells := cellsWrite set a bs p.mem.cells
    mem.bad := p.mem.bad.filter fun b =>
      !(a ≤ addrOf set (b * 64) && addrOf set (b * 64) + 64 ≤ a + bs.length) }

/-- [a, a + n) lies in the stack region. -/
def inStack (a n : Nat) : Bool := a + n ≤ regionSize

/-- A granule of [a, a + n) lies on a failed stack: the first address on it (R382). -/
def failedIn (set : Settings) (p : Pkg) (a n : Nat) : Option Nat :=
  if p.mem.failed == 0 || n == 0 then none
  else
    let g := 2 ^ granShift set
    ((List.range (n / g + 2)).map fun i => if i == 0 then a else (a / g + i) * g).find? fun x =>
      x < a + n && bit p.mem.failed (stackOf set x)

/-- The first address of [a, a + n) whose read fails (R378, R382). -/
def readError (set : Settings) (p : Pkg) (a n : Nat) : Option Nat :=
  (failedIn set p a n).or
    (firstSome (fun b => if overlaps a n (addrOf set (b * 64)) 64 then some (max a (addrOf set (b * 64))) else none)
      p.mem.bad)

/-- The first address whose write fails: a failed stack, or a block with an error that is not replaced whole (R379). -/
def writeError (set : Settings) (p : Pkg) (a n : Nat) : Option Nat :=
  (failedIn set p a n).or
    (firstSome (fun b =>
      let x := addrOf set (b * 64)
      if overlaps a n x 64 && !(a ≤ x && x + 64 ≤ a + n) then some (max a x) else none) p.mem.bad)

/-- Where an uncorrectable error was met, for PKG_MEM_UE and the log (R378, R385). -/
def memErrorAt (kind unit loc code : Nat) (p : Pkg) : Pkg :=
  log 0x0201 stMem code [d8 loc] (detect 0 { p with mem.ueKind := kind, mem.ueUnit := unit, mem.ueLoc := loc })

/-- Count, locate and log an uncorrectable error of a stack (R378, R385). -/
def memErrorKey (stack off : Nat) (p : Pkg) : Pkg :=
  memErrorAt 0 stack off (0x0600 + stack)
    { p with mem.stackUe := modAt p.mem.stackUe stack fun v => satAdd 0xFFFF v 1 }

/-- Corrected errors of a stack are counted (R377, R385). -/
def corrected (stack n : Nat) (p : Pkg) : Pkg :=
  { p with mem.stackCe := modAt p.mem.stackCe stack fun v => satAdd 0xFFFF v n }

/-- A block of a stack holds an uncorrectable error from now on. -/
def markBad (stack off : Nat) (p : Pkg) : Pkg :=
  let k := (stack * stackSize + off) / 64
  { p with mem.bad := if p.mem.bad.elem k then p.mem.bad else k :: p.mem.bad }

/-- The code over a stack finds an error in an access (R377): it is corrected and counted, or the block is bad, and the
access meets it under R378. -/
def foundError (e : MemErr) (p : Pkg) : Pkg :=
  if e.kind != 0 || 16 ≤ e.unit || stackSize ≤ e.loc then p
  else if e.fatal then markBad e.unit e.loc p
  else corrected e.unit 1 p

/-- An error that a running unit's access meets (R115, R377, R378, R385), counted; an uncorrectable one is located and
logged, under the unit code of the stack, the die or the core that held it. Which word of SRAM or local store the access
read is an operand (DESIGN CHOICE, log entry 73). -/
def meetError (e : MemErr) (p : Pkg) : Pkg :=
  if e.kind == 0 then
    let p := foundError e p
    if e.fatal then memErrorKey e.unit e.loc p else p
  else if e.fatal then
    memErrorAt e.kind e.unit e.loc (if e.kind == 1 then 0x0400 + e.unit else e.unit)
      { p with mem.sramUe := satAdd 0xFFFF p.mem.sramUe 1 }
  else { p with mem.sramCe := satAdd 0xFFFF p.mem.sramCe 1 }

/-- The errors of one access or of one task's accesses. -/
def foundErrors (es : List MemErr) (p : Pkg) : Pkg := es.foldl (fun q e => foundError e q) p
def meetErrors (es : List MemErr) (p : Pkg) : Pkg := es.foldl (fun q e => meetError e q) p

def memError (set : Settings) (a : Nat) (p : Pkg) : Pkg := memErrorKey (stackOf set a) (offsetOf set a) p

/-- A stack fails (R382): it is marked, logged and makes the package DEGRADED. -/
def failStack (s : Nat) (p : Pkg) : Pkg :=
  if bit p.mem.failed s then p
  else refresh (log 0x0202 stMem (0x0600 + s) [] { p with mem.failed := setBit p.mem.failed s })

end Sys2Proof.Machine
end

