-- ==== Sys2Proof/Machine/Time.lean ====
section
/-! DEFINITION. Fabric time and the calendar: the commands of R437 to R455. -/

namespace Sys2Proof.Machine

/-- Ports of the lane plan in force (R389). -/
def portCount (lanes : Nat) : Nat := match lanes with | 0 => 6 | 1 => 3 | _ => 12

def portOf (p : Pkg) (i : Nat) : Port := p.links.ports.getD i {}
def portUp (p : Pkg) (i : Nat) : Bool := (portOf p i).state == .up
def upPorts (p : Pkg) : List Nat := (List.range 12).filter (portUp p)

def modFt (f : Ft → Ft) (p : Pkg) : Pkg := { p with ft := f p.ft }
def timeOf (p : Pkg) (i : Nat) : PortTime := p.ft.ports.getD i {}
def modTime (i : Nat) (f : PortTime → PortTime) (p : Pkg) : Pkg := modFt (fun t => { t with ports := modAt t.ports i f }) p

/-! ### Uncertainty (R444) -/

/-- U now, in units of 2^-16 ns: in HOLDOVER it grows by 0.1 ns per millisecond with the REFTIME clock, and by 1000 ns
per millisecond without it. -/
def uNow (f : Ft) : Option Nat :=
  match f.u with
  | none => none
  | some u =>
    if f.state == .holdover then
      some (u + if f.refclk then (f.count - f.uAt) / 10000000 else (f.count - f.uAt) / 1000)
    else some u

/-- U as FT_STATUS gives it: in units of 2^-8 ns, saturating (R449); rounded up, as UNCERT of R438 is (DESIGN CHOICE, log
entry 81). -/
def uncertFine (u : Option Nat) : Nat := match u with | none => 0xFFFFFFFF | some u => min 0xFFFFFFFF (ceilDiv u 256)

/-- U as reported for the raw count `c`, in units of 2^-16 ns (R292, R450). -/
def uncertAt (f : Ft) (c : Nat) : Nat := uncertFine (uNow { f with count := c }) * 256

/-- UNCERT: U rounded up to whole nanoseconds, saturating (R438). -/
def uncertNs (f : Ft) : Nat := match uNow f with | none => 0xFFFF | some u => min 0xFFFF (ceilDiv u 65536)

/-- U is above UNCERT_LIMIT (R449). -/
def overLimit (f : Ft) (u : Option Nat) : Bool :=
  match u with
  | none => false
  | some v => f.uncertLimit * 65536 < v

/-- U takes a new value; source 337 fires when it rises above the limit (R457). -/
def setU (u : Option Nat) (p : Pkg) : Pkg :=
  let rises := overLimit p.ft u && !overLimit p.ft p.ft.u
  let p := modFt (fun f => { f with u := u, uAt := f.count }) p
  if rises then raise 337 p else p

/-- Bring U up to this moment. -/
def settleU (p : Pkg) : Pkg := setU (uNow p.ft) p

/-! ### States (R438, R446, R447) -/

def setFtState (st : FtState) (p : Pkg) : Pkg :=
  if p.ft.state == st then p
  else raise 336 (modFt (fun f => { f with state := st }) p)

/-- The state becomes LOCKED (R446, R447). -/
def lockFt (u : Nat) (p : Pkg) : Pkg :=
  let p := setU (some u) p
  setFtState .locked (modFt (fun f => { f with
    phase := .idle, everLocked := true, lockedAt := f.count / 65536, good := 0 }) p)

/-- Enter HOLDOVER (R447): a detection of class 9, and no parent. -/
def enterHoldover (p : Pkg) : Pkg :=
  if p.ft.state != .locked then p
  else
    let p := modFt (fun f => { f with unlock := satAdd 0xFFFF f.unlock 1, parent := none, uAt := f.count, good := 0 }) p
    detect 9 (setFtState .holdover p)

/-- A port may be the parent (R440, R448). -/
def qualifies (p : Pkg) (i : Nat) : Bool :=
  let t := timeOf p i
  portUp p i && bit p.ft.parentMask i && t.heard && t.locked && t.serial == p.ft.rootSerial &&
    t.priority == p.ft.rootPrio && sinceNs p t.seqAt ≤ 5000000

/-- The parent of R440: fewest HOPS, then the lowest port. -/
def chooseParent (p : Pkg) (except : Option Nat) : Option Nat :=
  ((List.range 12).filter fun i => qualifies p i && some i != except).foldl
    (fun best i => match best with
      | none => some i
      | some b => if (timeOf p i).hops < (timeOf p b).hops then some i else some b) none

def setParent (i : Option Nat) (p : Pkg) : Pkg :=
  modFt (fun f => { f with
    parent := i
    good := if f.parent == i then f.good else 0
    hops := match i with
      | some j => (f.ports.getD j {}).hops + 1
      | none => f.hops }) p

/-- The parent of a locked follower fails (R447): another port that qualifies takes its place, or HOLDOVER begins. -/
def loseParent (p : Pkg) : Pkg :=
  match chooseParent p p.ft.parent with
  | some i => setParent (some i) p
  | none => enterHoldover p

/-- Candidate pairs: (PRIORITY, serial), lowest first (R439). -/
def better (p1 s1 p2 s2 : Nat) : Bool := p1 < p2 || (p1 == p2 && s1 < s2)

/-- The package takes itself as the best candidate (R439); in HOLDOVER it may stand only with U below 1 µs (R447), and
ranks behind every candidate otherwise (DEDUCED, log entry 87). -/
def standSelf (phase : FtPhase) (serial : Nat) (p : Pkg) : Pkg :=
  let may := p.ft.state != .holdover || match uNow p.ft with | some u => u < 65536000 | none => false
  modFt (fun f => { f with
    phase := phase
    rootPrio := if may then f.priority else 255
    rootSerial := if may then serial else 2 ^ 64 - 1
    root := false, hops := 0, parent := none, ports := f.ports.map fun t => { t with same := 0 } }) p

/-- Phase 7 of start-up begins (R446). -/
def beginListen (serial : Nat) (p : Pkg) : Pkg := standSelf .listen serial p

/-- Elect ends (R446, R447): the package that is its own root aligns at the next mark, with U at 0 (R444), or keeps its
count when it has locked before, and is LOCKED while the REFTIME clock is there; every other package acquires. -/
def endElect (serial : Nat) (p : Pkg) : Pkg :=
  if p.ft.rootSerial == serial && p.ft.rootPrio == p.ft.priority then
    let p := modFt (fun f => { f with root := true, hops := 0, parent := none, phase := .align }) p
    if !p.ft.everLocked then setU (some 0) p else if p.ft.refclk then lockFt 0 p else p
  else modFt (fun f => { f with phase := .acquire, root := false }) p

/-- Every UP neighbour has reported the same root in 10 exchanges in a row (R446); a package with no UP port elects
itself. -/
def electDone (p : Pkg) : Bool := (upPorts p).all fun i => 10 ≤ (timeOf p i).same

def checkElect (serial : Nat) (p : Pkg) : Pkg :=
  if p.ft.phase == .elect && electDone p then endElect serial p else p

/-- A follower that has a root and no parent yet, or is in HOLDOVER outside an election, takes the parent of R440, and a new
one when its parent no longer qualifies. -/
def reparent (p : Pkg) : Pkg :=
  let seeks := p.ft.phase == .acquire || p.ft.phase == .settle || (p.ft.state == .holdover && p.ft.phase == .idle)
  if p.ft.root || !seeks then p
  else match p.ft.parent with
    | some i => if qualifies p i then p else setParent (chooseParent p none) p
    | none => setParent (chooseParent p none) p

/-- A port went DOWN after start-up (R440, R446, R447): nothing it reported counts any more, and the parent it led to is
replaced or lost. A package that has not locked and has no UP port left elects itself. -/
def timePortDown (serial i : Nat) (p : Pkg) : Pkg :=
  let p := modTime i (fun _ => {}) p
  if p.ft.state == .locked then (if p.ft.parent == some i then loseParent p else p)
  else if p.ft.state == .free && (upPorts p).isEmpty && (p.ft.phase == .acquire || p.ft.phase == .settle) then
    endElect serial (standSelf .elect serial p)
  else checkElect serial (reparent p)

/-- A neighbour on an UP port reports the root in force as locked. -/
def rootIsLocked (p : Pkg) : Bool :=
  (upPorts p).any fun i =>
    let t := timeOf p i
    t.heard && t.locked && t.serial == p.ft.rootSerial && t.priority == p.ft.rootPrio

/-- A package that is not locked adopts a reported root (R439): a locked one over every unlocked candidate, and of two
that are alike in this the better. -/
def adopts (m : TimeMsg) (wasLocked : Bool) (p : Pkg) : Bool :=
  p.ft.state != .locked &&
    if m.locked == wasLocked then better m.priority m.rootSerial p.ft.rootPrio p.ft.rootSerial else m.locked

/-- The package follows another root: after it heard a locked one it acquires (R446). -/
def adopt (m : TimeMsg) (p : Pkg) : Pkg :=
  modFt (fun f => { f with
    rootSerial := m.rootSerial, rootPrio := m.priority, root := false, hops := m.hops + 1, parent := none, good := 0
    u := if f.everLocked then f.u else none
    phase := if m.locked then (if f.state == .holdover then .idle else .acquire)
             else if f.phase == .listen || f.phase == .elect || f.phase == .idle then f.phase else .acquire
    ports := f.ports.map fun t => { t with same := 0 } }) p

/-- Take in a neighbour's report (R439, R441). Before start-up reaches its phase 7 there is no root to choose. -/
def hear (i : Nat) (m : TimeMsg) (p : Pkg) : Pkg :=
  let wasLocked := rootIsLocked p
  let p := modTime i (fun t => { t with
    heard := true, locked := m.locked, priority := m.priority, serial := m.rootSerial, hops := m.hops, seq := m.seq
    uncert := m.uncert, seqAt := if t.heard && t.seq == m.seq then t.seqAt else p.ft.count }) p
  if p.ft.state == .free && p.ft.phase == .idle then p
  else if adopts m wasLocked p then adopt m p
  else if m.locked && (p.ft.phase == .listen || p.ft.phase == .elect) && m.rootSerial == p.ft.rootSerial &&
      m.priority == p.ft.rootPrio && p.ft.state != .locked then adopt m p
  else p

/-- A stamp: the low 48 bits of the nanoseconds and the fraction (R442). -/
def stamp (p : Pkg) : Nat := p.ft.count % 2 ^ 64

/-- A signed difference of stamps modulo 2^64 (R442). -/
def stampDiff (a b : Nat) : Int := signed 64 ((a + 2 ^ 64 - b % 2 ^ 64) % 2 ^ 64)

/-- Half of a sum, rounded once to the nearest unit, a tie to the even one (R443). -/
def halfRound (v : Int) : Int := if v % 2 == 0 then v / 2 else if (v / 2) % 2 == 0 then v / 2 else v / 2 + 1

/-- θ and δ of an exchange (R443). -/
def offsetOfExchange (t1 t2 t3 t4 : Nat) : Int := halfRound (stampDiff t2 t1 - stampDiff t4 t3)
def delayOfExchange (t1 t2 t3 t4 : Nat) : Int := halfRound (stampDiff t4 t1 - stampDiff t3 t2)

/-- U of a locked follower after an exchange (R444). -/
def followerU (m : TimeMsg) (theta : Int) : Nat := m.uncert * 256 + 32768 + theta.natAbs

/-- The count is set (R446); what is measured against it keeps its distance. -/
def setCount (c : Nat) (p : Pkg) : Pkg :=
  let moved (t : Nat) : Nat := (t + c + 2 ^ 80 - p.ft.count % 2 ^ 80) % 2 ^ 80
  modFt (fun f => { f with
    count := c, lastMark := f.lastMark.map moved, markBase := moved f.markBase
    ports := f.ports.map fun t => { t with seqAt := moved t.seqAt } }) p

/-- The count set once to t4 + θ (R446), t4 being the low bits of the count. -/
def countFrom (count t4 : Nat) (theta : Int) : Nat :=
  (((count : Int) - (count % 2 ^ 64 : Nat) + t4 + theta) % (2 ^ 80 : Nat)).toNat

/-- One exchange with the parent: its offset is removed by slewing (R443), and 16 in a row within 4 ns lock the package
(R446, R447). A parent that reports itself unlocked, or another root (R448), is one no more. -/
def exchange (i : Nat) (m : TimeMsg) (theta delta : Int) (t4 : Nat) (p : Pkg) : Pkg :=
  let p := modFt (fun f => { f with theta := theta, delta := delta }) p
  match p.ft.state, p.ft.phase with
  | .locked, _ =>
    if !m.locked || m.rootSerial != p.ft.rootSerial || m.priority != p.ft.rootPrio || 65536000 < theta.natAbs then
      loseParent p
    else setU (some (followerU m theta))
      (modFt (fun f => { f with slew := theta, seq := m.seq, hops := m.hops + 1 }) p)
  | .free, .acquire =>
    modFt (fun f => { f with phase := .settle, good := 0, parent := some i, hops := m.hops + 1, seq := m.seq })
      (setCount (countFrom p.ft.count t4 theta) p)
  | _, _ =>
    let good := if theta.natAbs ≤ 262144 then p.ft.good + 1 else 0
    let p := modFt (fun f => { f with good := good, slew := theta, seq := m.seq, hops := m.hops + 1 }) p
    if 16 ≤ good && p.ft.refclk then lockFt (followerU m theta) p else p

/-- The exchange is with the parent, by a package that follows one. -/
def withParent (i : Nat) (p : Pkg) : Bool :=
  p.ft.parent == some i && !p.ft.root && (p.ft.state == .locked || p.ft.state == .holdover ||
    p.ft.phase == .acquire || p.ft.phase == .settle)

/-- A RESP to the REQ that waits on the port, received at the stamp `t4` (R443). -/
def timeResp (serial i : Nat) (m : TimeMsg) (t4 : Nat) (p : Pkg) : Pkg :=
  match (timeOf p i).req with
  | none => p
  | some (id, t1) =>
    if id != m.reqId || m.kind != 1 || !portUp p i then p
    else
      let theta := offsetOfExchange t1 m.t2 m.tstamp t4
      let delta := delayOfExchange t1 m.t2 m.tstamp t4
      let p := modTime i (fun t => { t with req := none }) (hear i m p)
      let p := modTime i (fun t => { t with
        same := if m.rootSerial == p.ft.rootSerial && m.priority == p.ft.rootPrio then t.same + 1 else 0 }) p
      let p := reparent (checkElect serial p)
      if withParent i p then exchange i m theta delta t4 p else p

/-- No RESP within 1 ms of the REQ (R447). -/
def execTimeRespTimeout (port : Nat) (s : State) : Host.Outcome State Fault Refusal :=
  onP (fun _ p =>
    match (timeOf p port).req with
    | some (_, t1) =>
      if (stampDiff (stamp p) t1).toNat < 65536000000 then p
      else
        let p := modTime port (fun t => { t with req := none, same := 0 }) p
        if p.ft.parent != some port then p
        else if p.ft.state == .locked then loseParent p else modFt (fun f => { f with good := 0 }) p
    | none => p) s

/-- A package in HOLDOVER that is not its own root and hears no SEQ of its root advance (R447). -/
def rootSilent (p : Pkg) : Bool :=
  p.ft.state == .holdover && p.ft.phase == .idle && !p.ft.root && (upPorts p).all fun i =>
    let t := timeOf p i
    !t.heard || t.serial != p.ft.rootSerial || t.priority != p.ft.rootPrio || 5000000 ≤ sinceNs p t.seqAt

/-- The root's SEQ has not advanced for 5 ms: HOLDOVER, the root is lost, and a new one is elected (R447), in which the
packages that were in HOLDOVER already take part. -/
def rootLoss (serial : Nat) (p : Pkg) : Pkg :=
  match p.ft.state, p.ft.parent with
  | .locked, some i =>
    if sinceNs p (timeOf p i).seqAt < 5000000 then p
    else checkElect serial (standSelf .elect serial (enterHoldover p))
  | _, _ => if rootSilent p then checkElect serial (standSelf .elect serial p) else p

def execRootLoss (s : State) : Host.Outcome State Fault Refusal := onP (fun set p => rootLoss set.serial p) s

/-- Listen passes its bound of 200 ms with no locked root heard (R446): Elect begins with the best candidate so far. -/
def execListenEnd (s : State) : Host.Outcome State Fault Refusal :=
  onP (fun set p => if p.ft.phase == .listen then
    checkElect set.serial (modFt (fun f => { f with phase := .elect, ports := f.ports.map fun t => { t with same := 0 } }) p)
    else p) s

/-- The signed distance of an instant from the nearest whole second, in units of 2^-16 ns (R446). -/
def secondOffset (c : Nat) : Int :=
  let r := c % 65536000000000
  if r ≤ 32768000000000 then r else (r : Int) - 65536000000000

/-- The least multiple of 10^9 ns above the count in force (R446). -/
def nextSecond (c : Nat) : Nat := (c / 65536000000000 + 1) * 65536000000000 % 2 ^ 80

/-- A mark edge (R446). Without the REFTIME clock no root locks (R447, R556). -/
def reftimeMark (p : Pkg) : Pkg :=
  if p.ft.phase == .align && p.ft.root && !p.ft.everLocked && p.ft.refclk then
    let p := setCount (nextSecond p.ft.count) p
    lockFt 0 (modFt (fun f => { f with lastMark := some f.count, markBase := f.count, markOfs := 0 }) p)
  else
    let o := secondOffset p.ft.count
    let off := p.ft.everLocked && 6553600 < o.natAbs
    let p := modFt (fun f => { f with
      lastMark := some f.count, markBase := f.count, markOfs := o
      markOff := satAdd 0xFF f.markOff (b2n off) }) p
    if off then raise 338 p else p

def execReftimeMark (s : State) : Host.Outcome State Fault Refusal := onP (fun _ p => reftimeMark p) s

/-- A mark expected and not seen within 1.1 s of the last one (R446). -/
def execMarkMiss (s : State) : Host.Outcome State Fault Refusal :=
  onP (fun _ p =>
    if p.ft.lastMark.isSome && 1100000000 ≤ sinceNs p p.ft.markBase then
      raise 338 (modFt (fun f => { f with
        markMiss := satAdd 0xFF f.markMiss 1, markBase := f.markBase + 65536000000000 }) p)
    else p) s

/-- The REFTIME clock is absent for 10 µs (R435, R447). -/
def execReftimeLoss (s : State) : Host.Outcome State Fault Refusal :=
  onP (fun _ p =>
    if p.ft.refclk then
      raise 338 (enterHoldover (modFt (fun f => { f with refclk := false }) (settleU p)))
    else p) s

/-- The REFTIME clock is back (R435). -/
def execReftimeRestore (s : State) : Host.Outcome State Fault Refusal :=
  onP (fun _ p => if p.ft.refclk then p else raise 338 (modFt (fun f => { f with refclk := true }) (settleU p))) s

/-- In HOLDOVER, U has grown (R444). -/
def execFtUncert (s : State) : Host.Outcome State Fault Refusal :=
  onP (fun _ p => if p.ft.state == .holdover then settleU p else p) s

/-! ### Registers and packets -/

def ftCode : FtState → Nat | .free => 0 | .locked => 1 | .holdover => 2

/-- FT_STAT.MARK: a mark in the last 1.1 s (R438). -/
def markSeen (p : Pkg) : Bool := match p.ft.lastMark with | some t => sinceNs p t ≤ 1100000000 | none => false

/-- FT_STAT (R438). -/
def ftStat (p : Pkg) : Nat :=
  ftCode p.ft.state * 2 ^ 30 + b2n p.ft.root * 2 ^ 29 + b2n p.ft.refclk * 2 ^ 28 + b2n (markSeen p) * 2 ^ 27 +
    p.ft.parent.getD 15 * 2 ^ 20 + uncertNs p.ft

/-- FT_EVENTS (R438). -/
def ftEvents (p : Pkg) : Nat := p.ft.unlock * 65536 + p.ft.markMiss * 256 + p.ft.markOff

/-- The package has a root (R446): it has locked, or Elect has ended. -/
def rooted (f : Ft) : Bool := f.state != .free || f.phase == .align || f.phase == .acquire || f.phase == .settle

/-- Ports that face another locked root (R448). -/
def foreign (p : Pkg) : Nat :=
  ((List.range 12).filter fun i =>
    let t := timeOf p i
    portUp p i && t.heard && t.locked && rooted p.ft &&
      (t.serial != p.ft.rootSerial || t.priority != p.ft.rootPrio)).foldl setBit 0

/-- A completion of a host read. -/
def readData (bytes : List Byte) (p : Pkg) : Pkg := { p with out.reads := p.out.reads ++ [.data bytes] }

/-- A read of FT_NOW_LO, of 4 bytes or of 8 (R437). -/
def readFtNow (wide : Bool) (p : Pkg) : Pkg :=
  let ns := now p
  let p := modFt (fun f => { f with nowHi := ns / 2 ^ 32, nowFrac := f.count % 65536 }) p
  readData (leBytes (if wide then 8 else 4) ns) p

def execFtNowLoRead (wide : Bool) (s : State) : Host.Outcome State Fault Refusal :=
  onP (fun _ p => if !hostOpen p then p else readFtNow wide p) s

/-- CAL_TIME_HI as it stands (R455). -/
def calHi (c : Cal) : Nat := b2n c.invalid * 2 ^ 31 + c.frac * 65536 + c.secs / 2 ^ 32

/-- A read of CAL_TIME_LO latches CAL_TIME_HI (R455). -/
def execCalTimeLoRead (s : State) : Host.Outcome State Fault Refusal :=
  onP (fun _ p =>
    if !hostOpen p then p else readData (leBytes 4 p.cal.secs) { p with cal.hiLatch := some (calHi p.cal) }) s

/-- A device address field: bits [47:0], bits [63:48] 0, a multiple of `al`, `n` bytes in the stack region (R588). -/
def addrOk (a al n : Nat) : Bool := a < 2 ^ 48 && a % al == 0 && inStack a n

/-- Write a block to device memory for a packet and answer, or answer MEM_UNCORRECTABLE where the write fails (R378). -/
def writeAnswer (set : Settings) (w : Who) (a counter : Nat) (bs : List Byte) (p : Pkg) : Pkg :=
  match writeError set p a bs.length with
  | some x => answer w stMem 0 0 (memError set x p)
  | none => answer w stOk 0 counter (writeMem set a bs p)

/-- A signed value in 32 bits, saturating (R449). -/
def sat32 (v : Int) : Nat := unsigned 32 (max (-2147483648) (min 2147483647 v))

/-- The FT_STATUS block (R449). -/
def ftBlock (p : Pkg) : List Byte :=
  leBytes 8 (now p) ++ leBytes 2 (p.ft.count % 65536) ++ leBytes 2 (ftStat p / 65536) ++
    leBytes 4 (uncertFine (uNow p.ft)) ++ leBytes 8 p.ft.rootSerial ++
    leBytes 1 p.ft.rootPrio ++ leBytes 1 p.ft.hops ++ leBytes 2 (foreign p) ++ leBytes 4 (sat32 p.ft.theta) ++
    leBytes 4 (sat32 p.ft.delta) ++ leBytes 4 (sat32 p.ft.markOfs) ++ leBytes 4 p.ft.seq ++ leBytes 4 0 ++
    leBytes 8 p.ft.lockedAt ++ leBytes 8 0

def execFtStatus (q : Nat) (s : State) : Host.Outcome State Fault Refusal :=
  onPacketP q 0x0A01 (fun w b set p =>
    if zeros b 8 56 && addrOk (le b 0 8) 64 64 then writeAnswer set w (le b 0 8) (uncertNs p.ft) (ftBlock p) p
    else answer w stBadParam 0 0 p) s

def execFtConfig (q : Nat) (s : State) : Host.Outcome State Fault Refusal :=
  onPacketP q 0x0A03 (fun w b set p =>
    let mask := le b 2 2
    if !zeros b 8 56 || 2 ≤ le b 1 1 || 2 ^ portCount set.lanes ≤ mask then answer w stBadParam 0 0 p
    else
      let prio := le b 0 1
      let limit := le b 4 4
      let own := p.ft.rootSerial == set.serial && (p.ft.phase == .listen || p.ft.phase == .elect)
      let p := modFt (fun f => { f with
        priority := prio, parentMask := mask, uncertLimit := limit, rootPrio := if own then prio else f.rootPrio }) p
      let p := if bit (le b 1 1) 0 then { p with flash := { p.flash with
        ftPriority := prio, ftMask := mask, ftLimit := limit } } else p
      answer w stOk 0 0 p) s

/-- CAL_SET is checked and waits for its crystal edge (R454). -/
def execCalSet (q : Nat) (s : State) : Host.Outcome State Fault Refusal :=
  onPacketP q 0x0A02 (fun w b _ p =>
    if 2 ^ 15 ≤ le b 6 2 || 2 ≤ le b 8 1 || !zeros b 9 7 || !zeros b 24 40 || (!bit (le b 8 1) 0 && le b 16 8 != 0) then
      answer w stBadParam 0 0 p
    else { p with cal.waits := p.cal.waits ++ [⟨w, le b 0 6, le b 6 2, le b 16 8⟩] }) s

/-- Load one waiting value: CAL_INVALID clears, and old and new value are logged (R454). -/
def loadCal (c : CalWait) (p : Pkg) : Pkg :=
  let old := p.cal.secs + p.cal.frac * 2 ^ 48
  let p := { p with cal := { p.cal with
    secs := c.secs, frac := c.frac, part := 0, invalid := false, stopFlag := false
    waits := p.cal.waits.filter fun d => d != c } }
  answer c.who stOk 0 0 (log 0x0A01 0 0xFFFF [d8 old, d8 (c.secs + c.frac * 2 ^ 48)] p)

def execCalSetLoad (s : State) : Host.Outcome State Fault Refusal :=
  onP (fun _ p => match p.cal.waits.find? fun c => reached p c.atFt with
    | some c => loadCal c p
    | none => p) s

/-- CAL_INVALID becomes set: the calendar counts on from 0 (R453). -/
def invalidateCal (p : Pkg) : Pkg :=
  let was := p.cal.invalid
  let p := { p with cal.invalid := true, cal.secs := 0, cal.frac := 0, cal.part := 0 }
  if was then p else raise 340 p

/-- The crystal misses 1 s of cycles (R453). -/
def execCalMiss (s : State) : Host.Outcome State Fault Refusal := onP (fun _ p => invalidateCal p) s

/-- Both supplies of the calendar fail while the 36 V supply is off: it stops, and the backup domain records it (R452). The
flag of a brown-out needs the same supply (R542). -/
def execCalendarStop (s : State) : Host.Outcome State Fault Refusal :=
  onP (fun _ p => if p.boot.off then { p with cal.stopFlag := true, flash.brownout := false } else p) s

end Sys2Proof.Machine
end

