-- ==== Sys2Proof/Machine/Links.lean ====
section
/-! DEFINITION. Peer ports: training and agreement (R390 to R393), frames with retry and credits (R394 to R402), routes
and forwarding (R403 to R408). -/

namespace Sys2Proof.Machine

def modPort (i : Nat) (f : Port → Port) (p : Pkg) : Pkg := { p with links.ports := modAt p.links.ports i f }

/-- A frame's position in the table of receive buffers: one for each VC and CLASS (R394). -/
def slotOf (vc cls : Nat) : Nat := 2 * vc + cls

/-- Receive-buffer frames for each VC and CLASS of a port (R400). -/
def bufferFrames (lanes : Nat) : Nat := match lanes with | 0 => 64 | 1 => 128 | _ => 32

/-! ### Frames (R394) -/

/-- The 512 bytes of a frame as a port sends it. -/
def frameBytes (kind seq ack nak tstamp : Nat) (owed : List Nat) (f : Frame) : List Byte :=
  let head := leBytes 1 kind ++ leBytes 1 (f.vc + 8 * f.cls + 16 * b2n f.som + 32 * b2n f.eom) ++
    leBytes 2 f.payload.length ++ leBytes 4 f.dst ++ leBytes 4 f.src ++ leBytes 4 seq ++ leBytes 1 f.hops ++
    List.replicate 15 0 ++ padTo 408 f.payload ++ (padTo 32 (owed.flatMap fun c => leBytes 2 c)) ++ leBytes 4 ack ++
    leBytes 4 nak ++ leBytes 8 tstamp ++ List.replicate 16 0
  head ++ leBytes 8 (crc64 head)

/-- The frame a 512-byte frame holds. -/
def parseFrame (bs : List Byte) : Frame :=
  let v := le bs 1 1
  { vc := bits v 2 0, cls := b2n (bit v 3), som := bit v 4, eom := bit v 5, dst := le bs 4 4, src := le bs 8 4
    hops := le bs 16 1, payload := (bs.drop 32).take (min 408 (le bs 2 2)) }

def idleFrame : Frame := ⟨0, 0, false, false, 0, 0, 0, []⟩

/-- ACK: the highest LSEQ received in order (R394). -/
def ackOf (q : Port) : Nat := (q.rxSeq + 0xFFFFFFFF) % 2 ^ 32

/-- Lanes of a port (R389). -/
def laneCount (lanes : Nat) : Nat := match lanes with | 0 => 4 | 1 => 8 | _ => 2

/-- A frame leaves on the port's next lane (R396). -/
def putFrame (set : Settings) (i : Nat) (bs : List Byte) (p : Pkg) : Pkg :=
  let n := laneCount set.lanes
  modPort i (fun q => { q with lane := (q.lane + 1) % n })
    { p with out.frames := p.out.frames ++ [(i, (portOf p i).lane % n, bs)] }

/-- An IDLE frame that carries the credits owed, ACK and a NAK (R394, R398). -/
def sendIdle (set : Settings) (i nak : Nat) (p : Pkg) : Pkg :=
  let q := portOf p i
  modPort i (fun q => { q with owed := List.replicate 16 0 })
    (putFrame set i (frameBytes 0 0 (ackOf q) nak 0 q.owed idleFrame) p)

/-- The REQ of a time message leaves with this stamp, its t1 (R441, R443). -/
def noteStamp (i : Nat) (f : Frame) (fresh : Bool) (t : Nat) (p : Pkg) : Pkg :=
  let id := le f.payload 24 4
  if f.vc == 1 && le f.payload 0 1 == 0 && (fresh || (timeOf p i).req.any fun r => r.1 == id) then
    modTime i (fun x => { x with req := some (id, t) }) p
  else p

/-- A DATA frame leaves; one of VC1 carries the stamp of the moment (R394, R397). -/
def sendData (set : Settings) (i : Nat) (fresh : Bool) (seq : Nat) (f : Frame) (owed : List Nat) (p : Pkg) : Pkg :=
  let t := if f.vc == 1 then stamp p else 0
  noteStamp i f fresh t (putFrame set i (frameBytes 1 seq (ackOf (portOf p i)) 0xFFFFFFFF t owed f) p)

/-- Frames of the replay buffer are sent again in order, and counted (R398, R412). -/
def resend (set : Settings) (i : Nat) (l : List (Nat × Frame × List Nat)) (p : Pkg) : Pkg :=
  l.foldl (fun p e => sendData set i false e.1 e.2.1 e.2.2 p)
    (modPort i (fun q => { q with replay := satAdd 0xFFFF q.replay l.length }) p)

/-! ### Routes (R403 to R406) -/

/-- Where a frame goes next. -/
inductive Hop where
  | here
  | out (port cls : Nat)
  | nowhere
  deriving DecidableEq, Repr

/-- Coordinate `d` (0 X, 1 Y, 2 Z) of an address in DIMENSION mode (R403). -/
def coord (a d : Nat) : Nat := bits a (10 * d + 9) (10 * d)

/-- The hop of R404 in dimension `d`, when the coordinates differ; `inPort` is the port the frame came in by. -/
def dimHop (l : Links) (dst : Nat) (inPort : Option Nat) (cls d : Nat) : Option Hop :=
  let n := l.dims.getD d 0
  let own := coord l.addr d
  let there := coord dst d
  if own == there then none
  else
    let up := (there + n - own) % n
    let down := (own + n - there) % n
    let plus := up ≤ down
    let wraps := if plus then own + 1 == n else own == 0
    let port := 2 * d + b2n (!plus)
    let same := match inPort with | some i => i / 2 == d | none => false
    some (.out port (if wraps then 1 else if same then cls else 0))

/-- An address with its reserved bits 0, within the torus in DIMENSION mode (R403, R406). -/
def addrValid (tableMode : Bool) (dims : List Nat) (a : Nat) : Bool :=
  if tableMode then a < 4096
  else a < 2 ^ 30 && (List.range 3).all fun d => coord a d < dims.getD d 0

/-- The next hop of a frame (R404 to R406). -/
def nextHop (l : Links) (dst : Nat) (inPort : Option Nat) (cls : Nat) : Hop :=
  if dst == l.addr then .here
  else if !addrValid l.tableMode l.dims dst then .nowhere
  else if l.tableMode then
    let e := (l.route.getD dst 0x0F).toNat
    if e % 16 == 15 then .nowhere else .out (e % 16) (if bit e 7 then 1 else cls)
  else (firstSome (dimHop l dst inPort cls) [0, 1, 2]).getD .nowhere

/-- A frame is discarded by routing: counted and logged (R406). -/
def dropFrame (f : Frame) (p : Pkg) : Pkg :=
  log 0x0102 0 0xFFFF [d4 f.dst, d4 f.src] { p with links.drop := satAdd 0xFFFFFFFF p.links.drop 1 }

/-- Frames of VC2 to VC7 need the package's address to be set (R406). -/
def needsAddr (p : Pkg) (f : Frame) : Bool := p.links.addr == 0xFFFFFFFF && 2 ≤ f.vc

/-- Queue a frame of this package (R406). -/
def queueOwn (f : Frame) (p : Pkg) : Pkg :=
  if needsAddr p f then dropFrame f p
  else match nextHop p.links f.dst none 0 with
    | .out i cls =>
      if portUp p i || (portOf p i).state == .retrain then
        modPort i (fun q => { q with own := q.own ++ [{ f with cls := cls }] }) p
      else dropFrame f p
    | _ => dropFrame f p

/-- A message as consecutive frames, every one full but the last (R395). -/
def fragment (vc dst src : Nat) : Nat → Bool → List Byte → List Frame
  | 0, _, _ => []
  | n + 1, som, bs =>
    if bs.length ≤ 408 then [⟨vc, 0, som, true, dst, src, 0, bs⟩]
    else ⟨vc, 0, som, false, dst, src, 0, bs.take 408⟩ :: fragment vc dst src n false (bs.drop 408)

/-- Send a message (R395); one to this package itself goes back to its own engines. -/
def sendMessage (vc dst : Nat) (bs : List Byte) (p : Pkg) : Pkg :=
  if dst == p.links.addr && p.links.addr != 0xFFFFFFFF then { p with out.loop := p.out.loop ++ [(vc, bs)] }
  else (fragment vc dst p.links.addr (bs.length / 408 + 1) true bs).foldl (fun q f => queueOwn f q) p

/-! ### Transmission (R402) -/

/-- The frame of this package or of another that a VC sends next, among those that hold a credit: the message that has
the turn goes on; while it has no frame to send another's frame leaves, for a forwarded frame never waits for the rest of
a message (R402, R407; DEDUCED, log entry 20). -/
def vcReady (q : Port) (vc : Nat) : Option (Frame ⊕ Passing) :=
  let can (f : Frame) : Bool := f.vc == vc && 0 < q.credits.getD (slotOf vc f.cls) 0
  let own := (q.own.find? can).map Sum.inl
  let pass := (q.pass.find? fun g => can g.frame).map Sum.inr
  match q.inMsg.getD vc 0 with
  | 0 => if q.passTurn.getD vc false then pass.or own else own.or pass
  | 1 => own.or pass
  | n + 2 => (((q.pass.find? fun g => can g.frame && g.frame.src == n).map Sum.inr).or pass).or own

/-- Whose message of a VC is being sent after a frame, and whether a forwarded one has the next turn (R402). -/
def nextTurn (q : Port) (mine : Bool) (f : Frame) : Nat × Bool :=
  let was := q.inMsg.getD f.vc 0
  let here := if mine then 1 else f.src + 2
  if was != 0 && was != here then (was, q.passTurn.getD f.vc false)
  else if f.eom then (0, mine) else (here, q.passTurn.getD f.vc false)

def readyFrame : Frame ⊕ Passing → Frame
  | .inl f => f
  | .inr g => g.frame

/-- The VC has a ready frame and a credit for it. -/
def vcCan (q : Port) (vc : Nat) : Bool := (vcReady q vc).isSome

/-- The VC served next: VC0, then VC1, then the next of VC2 to VC7 after the last one served (R402). -/
def nextVc (q : Port) : Option Nat :=
  ([0, 1] ++ (List.range 6).map fun i => 2 + (q.lastVc - 2 + 1 + i) % 6).find? (vcCan q)

def removeOne {α : Type} [DecidableEq α] (x : α) : List α → List α
  | [] => []
  | y :: ys => if y = x then ys else y :: removeOne x ys

/-- Send the next frame of a port: it takes a credit and a place in the replay buffer, and a forwarded frame frees its
place in the port it came in by (R398, R400, R402). With none ready an IDLE frame fills the lane (R394). -/
def transmit (set : Settings) (i : Nat) (p : Pkg) : Pkg :=
  let q := portOf p i
  if q.state != .up then p
  else match (if q.sent.length < 512 then (nextVc q).bind fun vc => vcReady q vc else none) with
    | none => sendIdle set i 0xFFFFFFFF p
    | some r =>
      let f := readyFrame r
      let mine := match r with | .inl _ => true | .inr _ => false
      let turn := nextTurn q mine f
      let p := modPort i (fun q => { q with
        credits := modAt q.credits (slotOf f.vc f.cls) fun c => c - 1
        owed := List.replicate 16 0
        txSeq := (q.txSeq + 1) % 2 ^ 32
        sent := q.sent ++ [(q.txSeq, f, q.owed)]
        own := match r with | .inl f => removeOne f q.own | .inr _ => q.own
        pass := match r with | .inr g => removeOne g q.pass | .inl _ => q.pass
        lastVc := if 2 ≤ f.vc then f.vc else q.lastVc
        inMsg := q.inMsg.set f.vc turn.1
        passTurn := q.passTurn.set f.vc turn.2 }) (sendData set i true q.txSeq f q.owed p)
      match r with
      | .inr g => modPort g.inPort (fun q => { q with owed := modAt q.owed (slotOf f.vc g.inCls) (· + 1) }) p
      | .inl _ => p

def execFrameForward (port : Nat) (s : State) : Host.Outcome State Fault Refusal :=
  onP (fun set p => transmit set port p) s

/-! ### Reception (R398, R399, R406) -/

/-- Take in ACK, NAK and CREDITS (R394, R398): frames up to ACK leave the replay buffer, and a NAK has the rest sent
again in order. -/
def takeLink (set : Settings) (i : Nat) (bs : List Byte) (p : Pkg) : Pkg :=
  let ack := le bs 472 4
  let nak := le bs 476 4
  let p := modPort i (fun q =>
    let acked := q.sent.any fun e => e.1 == ack
    { q with
      credits := (List.range 16).map fun k => q.credits.getD k 0 + le bs (440 + 2 * k) 2
      sent := if acked then (q.sent.dropWhile fun e => e.1 != ack).drop 1 else q.sent
      frontReplays := if acked then 0 else q.frontReplays }) p
  if nak == 0xFFFFFFFF then p
  else
    let again := (portOf p i).sent.dropWhile fun e => e.1 != nak
    modPort i (fun q => { q with frontReplays := if again.isEmpty then q.frontReplays else q.frontReplays + 1 })
      (resend set i again p)

/-- Pass a frame on to its next port, or discard it (R406, R407). -/
def passOn (i : Nat) (f : Frame) (p : Pkg) : Pkg :=
  let free (p : Pkg) : Pkg := modPort i (fun q => { q with owed := modAt q.owed (slotOf f.vc f.cls) (· + 1) }) p
  if needsAddr p f || 64 ≤ f.hops + 1 then free (dropFrame f p)
  else match nextHop p.links f.dst (some i) f.cls with
    | .out j cls =>
      if portUp p j || (portOf p j).state == .retrain then
        modPort j (fun q => { q with pass := q.pass ++ [⟨i, f.cls, { f with cls := cls, hops := f.hops + 1 }⟩] }) p
      else free (dropFrame f p)
    | _ => free (dropFrame f p)

/-- The engine of a VC withholds credit (R337, R401): a message of its group finds no room. -/
def vcShut (p : Pkg) (vc : Nat) : Bool := 4 ≤ vc && (p.colls.groups.getD (vc - 4) {}).stalled != []

/-- A frame for this package leaves its place in the receive buffer: the credit returns, or is withheld (R400, R401). -/
def takeUp (i : Nat) (f : Frame) (p : Pkg) : Pkg :=
  let k := slotOf f.vc f.cls
  if vcShut p f.vc then modPort i (fun q => { q with withheld := modAt q.withheld k (· + 1) }) p
  else modPort i (fun q => { q with owed := modAt q.owed k (· + 1) }) p

/-- Credits of VCs that no engine holds back any more return (R401). -/
def releaseCredit (p : Pkg) : Pkg :=
  let keep (k : Nat) : Bool := vcShut p (k / 2)
  { p with links.ports := p.links.ports.map fun q => { q with
      owed := (List.range 16).map fun k => q.owed.getD k 0 + if keep k then 0 else q.withheld.getD k 0
      withheld := (List.range 16).map fun k => if keep k then q.withheld.getD k 0 else 0 } }

/-- Put a frame for this package to its message (R395): the whole message when the frame ends it. -/
def assemble (i : Nat) (f : Frame) (p : Pkg) : Pkg × Option (List Byte) :=
  let p := takeUp i f p
  let mine (x : Partial) : Bool := x.src == f.src && x.vc == f.vc
  let before := if f.som then [] else (((p.links.parts.find? mine).map (·.bytes)).getD [])
  let rest := p.links.parts.filter fun x => !mine x
  let bytes := before ++ f.payload
  if f.eom then ({ p with links.parts := rest }, some bytes)
  else ({ p with links.parts := ⟨f.src, f.vc, bytes⟩ :: rest }, none)

/-- A frame that fails its CRC or falls in a codeword that cannot be corrected is discarded unread, with every later one,
and a NAK names the LSEQ awaited: also when the replayed frame fails again (R398). -/
def badFrame (set : Settings) (i : Nat) (fecOk : Bool) (p : Pkg) : Pkg :=
  let q := portOf p i
  detect 3 (sendIdle set i q.rxSeq (modPort i (fun q => { q with
    fecUncorr := satAdd 0xFF q.fecUncorr (b2n !fecOk), skipping := true, hold := [] }) p))

/-! ### Training (R390 to R393) -/

def setPortState (i : Nat) (st : PortState) (p : Pkg) : Pkg :=
  if (portOf p i).state == st then p else raise (352 + i) (modPort i (fun q => { q with state := st }) p)

/-- The HELLO this package sends on a port (R391). -/
def helloOf (set : Settings) (p : Pkg) (i : Nat) : Hello := ⟨set.lanes, i, 1, 1, p.links.addr⟩

/-- The payload of a HELLO frame: plan, port, lowest and highest level in a byte each, and the address (DESIGN CHOICE, log
entry 20). -/
def helloBytes (h : Hello) : List Byte :=
  leBytes 1 h.plan ++ leBytes 1 h.port ++ leBytes 1 h.levelMin ++ leBytes 1 h.levelMax ++ leBytes 4 h.addr

def parseHello (bs : List Byte) : Hello := ⟨le bs 0 1, le bs 1 1, le bs 2 1, le bs 3 1, le bs 4 4⟩

/-- A HELLO frame leaves on VC0; as an IDLE frame it has no LSEQ and takes no credit (DESIGN CHOICE, log entry 20). -/
def sendHello (set : Settings) (i : Nat) (p : Pkg) : Pkg :=
  putFrame set i (frameBytes 2 0 (ackOf (portOf p i)) 0xFFFFFFFF 0 (List.replicate 16 0)
    ⟨0, 0, true, true, 0xFFFFFFFF, p.links.addr, 0, helloBytes (helloOf set p i)⟩) p

/-- A phase of training ends and the next begins (R390, R392): entering Agree, the port sends its HELLO. Lock leaves the
lane order and the deskew delays that training measured (R388, R442). -/
def phaseEnd (set : Settings) (i : Nat) (laneRev : Bool) (deskew : List Nat) (p : Pkg) : Pkg :=
  let q := portOf p i
  if (q.state != .training && q.state != .retrain) || !p.ft.refclk then p
  else match q.phase with
    | .detect => modPort i (fun q => { q with phase := .equalise }) p
    | .equalise => modPort i (fun q => { q with phase := .lock }) p
    | .lock => sendHello set i (modPort i (fun q => { q with phase := .agree, laneRev := laneRev, deskew := deskew }) p)
    | .agree => p

def execPortTrainingPhaseEnd (port : Nat) (laneRev : Bool) (s : State) (deskew : List Nat := []) :
    Host.Outcome State Fault Refusal := onP (fun set p => phaseEnd set port laneRev deskew p) s

/-- A port's frames that wait or are not acknowledged are discarded (R393); forwarded ones free their places. -/
def discardFrames (i : Nat) (p : Pkg) : Pkg :=
  let pass := (portOf p i).pass
  let p := modPort i (fun q => { q with own := [], pass := [], sent := [], hold := [], inMsg := List.replicate 8 0 }) p
  pass.foldl (fun p g =>
    modPort g.inPort (fun q => { q with owed := modAt q.owed (slotOf g.frame.vc g.inCls) (· + 1) }) p) p

/-- Training at start-up leaves a port DOWN with a reason (R390, R391). -/
def trainFail (i reason : Nat) (p : Pkg) : Pkg :=
  setPortState i .down (modPort i (fun q => { q with reason := reason, level := 0 }) p)

/-- The reason for a training phase that passes its bound (R390): NOREF without the REFTIME clock; Agree gives none of
its own, and a neighbour that sends no HELLO is NO_NEIGHBOUR (DESIGN CHOICE, log entry 20). -/
def phaseReason (p : Pkg) (ph : TrainPhase) : Nat :=
  if !p.ft.refclk then 2 else match ph with | .detect => 1 | .equalise => 3 | .lock => 4 | .agree => 1

/-- The checks of Agree in order (R391): the failing reason, if any. -/
def agreeReason (lanes i : Nat) (h : Hello) : Option Nat :=
  let pair := match lanes with
    | 0 => h.port / 2 == i / 2 && h.port != i
    | 1 => (i == 0 && h.port == 1) || (i == 1 && h.port == 0) || (i == 2 && h.port == 2)
    | _ => true
  if h.plan != lanes then some 5
  else if !pair then some 6
  else if 1 < h.levelMin || h.levelMax < 1 then some 7
  else none

/-- An UP port begins a retrain (R392). -/
def retrain (i : Nat) (p : Pkg) : Pkg :=
  if portUp p i then
    setPortState i .retrain (modPort i (fun q => { q with
      phase := .equalise, retrains := satAdd 0xFF q.retrains 1, frontReplays := 0 }) p)
  else p

def execPortRetrain (port : Nat) (s : State) : Host.Outcome State Fault Refusal := onP (fun _ p => retrain port p) s

/-- Agree succeeds (R391, R392): the port is UP; the credits start from the neighbour's buffers after training, and are
kept through a retrain, whose unacknowledged frames are sent again. -/
def portAgreed (set : Settings) (i : Nat) (p : Pkg) : Pkg :=
  let fresh := (portOf p i).state == .training
  let p := modPort i (fun q => { q with
    reason := 0, level := 1
    credits := if fresh then List.replicate 16 (bufferFrames set.lanes) else q.credits
    skipping := false, hold := [] }) p
  resend set i (portOf p i).sent (setPortState i .up p)

end Sys2Proof.Machine
end

