-- ==== Sys2Proof/Machine/Fp.lean ====
section
/-! DEFINITION. The number formats (R39 to R52), the one rounding to nearest-even (R56), conversions with their
special cases (R57, R58), FP32 arithmetic (R53 to R56, R161), stochastic rounding (R60) and the choice of a block
scale (R62). A value is exact, a sign, a natural mantissa and a power of two, until the one rounding. -/

namespace Sys2Proof.Machine

/-- An exact value before rounding: NaN, a signed infinity, or (−1)^neg · m · 2^e. A zero keeps its sign (R55). -/
inductive Val where
  | nan
  | inf (neg : Bool)
  | fin (neg : Bool) (m : Nat) (e : Int)
  deriving DecidableEq, Repr, Inhabited

/-- The layout of a floating format: exponent bits, fraction bits and bias (R42, R43, R45, R46, R48). -/
structure FloatFmt where
  expBits : Nat
  fracBits : Nat
  bias : Nat
  deriving DecidableEq, Repr

/-- The eight element formats, by CODE (R40). -/
inductive Fmt where
  | fp32 | mw40 | bf16 | fp16 | e4m3 | e5m2 | int8 | e2m1
  deriving DecidableEq, Repr, Inhabited

/-- CODE of the format byte (R40). -/
def Fmt.ofCode : Nat → Option Fmt
  | 0 => some .fp32 | 1 => some .mw40 | 2 => some .bf16 | 3 => some .fp16
  | 4 => some .e4m3 | 5 => some .e5m2 | 6 => some .int8 | 7 => some .e2m1 | _ => none

/-- The layout of each floating format (R42 to R48); INT8 has none of its own. -/
def Fmt.layout : Fmt → FloatFmt
  | .fp32 => ⟨8, 23, 127⟩ | .mw40 => ⟨8, 31, 127⟩ | .bf16 => ⟨8, 7, 127⟩ | .fp16 => ⟨5, 10, 15⟩
  | .e4m3 => ⟨4, 3, 7⟩ | .e5m2 => ⟨5, 2, 15⟩ | .int8 => ⟨0, 7, 0⟩ | .e2m1 => ⟨2, 1, 1⟩

/-- Element size in bits (R40). -/
def Fmt.bits : Fmt → Nat
  | .fp32 => 32 | .mw40 => 40 | .bf16 => 16 | .fp16 => 16 | .e4m3 => 8 | .e5m2 => 8 | .int8 => 8 | .e2m1 => 4

/-- STRIDE0 of a descriptor (R85): whole bytes, 0 for the packed E2M1. -/
def Fmt.stride0 (f : Fmt) : Nat := f.bits / 8

/-- Bytes that `n` packed elements take. -/
def Fmt.packed (f : Fmt) (n : Nat) : Nat := ceilDiv (n * f.bits) 8

/-- 2^e for an exponent that is not negative, else 1: the shift that a larger exponent asks for. -/
def up (e : Int) : Nat := 2 ^ e.toNat

/-- Decode an element without its scale (R42 to R48, R53): exact for every format. -/
def decode (f : Fmt) (b : Nat) : Val :=
  match f with
  | .int8 => let i := signed 8 (b % 256); .fin (i < 0) i.natAbs 0
  | _ =>
    let l := f.layout
    let frac := b % 2 ^ l.fracBits
    let ex := b / 2 ^ l.fracBits % 2 ^ l.expBits
    let neg := bit b (l.expBits + l.fracBits)
    let top := 2 ^ l.expBits - 1
    let unit : Int := 1 - (l.bias : Int) - l.fracBits
    if f == .e4m3 && ex == top && frac == 7 then .nan
    else if f != .e4m3 && f != .e2m1 && ex == top then (if frac == 0 then .inf neg else .nan)
    else if ex == 0 then .fin neg frac unit
    else .fin neg (2 ^ l.fracBits + frac) (unit + (ex - 1 : Nat))

/-- Divide by 2^k and round to nearest, ties to even (R56). -/
def rneShift (m k : Nat) : Nat :=
  let q := m >>> k
  let r := m - (q <<< k)
  let half := 2 ^ k / 2
  if k == 0 then m else if r > half || (r == half && q % 2 == 1) then q + 1 else q

/-- The exponent of the unit in the last place at which a magnitude m·2^e is held by a format: its own leading bit's,
but no finer than the subnormals' (R53). -/
def gridExp (l : FloatFmt) (m : Nat) (e : Int) : Int :=
  max (e + (Nat.log2 m : Int) - l.fracBits) (1 - (l.bias : Int) - l.fracBits)

/-- Round a magnitude once to a format's grid with an unbounded exponent range (R56, R58): mantissa and exponent. -/
def roundMag (l : FloatFmt) (m : Nat) (e : Int) : Nat × Int :=
  if m == 0 then (0, 0) else
  let g := gridExp l m e
  if g ≤ e then (m * up (e - g), g) else (rneShift m (g - e).toNat, g)

/-- The bits of a magnitude that lies on the format's grid, as if the exponent field had no end (R42 to R48). -/
def packMag (l : FloatFmt) (q : Nat) (g : Int) : Nat :=
  if q < 2 ^ l.fracBits then q
  else (g + l.fracBits + l.bias - 1).toNat * 2 ^ l.fracBits + q

/-- Largest finite pattern, infinity and canonical NaN of each floating format (R52). -/
def Fmt.maxFinite : Fmt → Nat
  | .fp32 => 0x7F7FFFFF | .mw40 => 0x7F7FFFFFFF | .bf16 => 0x7F7F | .fp16 => 0x7BFF
  | .e4m3 => 0x7E | .e5m2 => 0x7B | .int8 => 127 | .e2m1 => 7

/-- Infinity; E4M3 has none and takes its NaN there (R58), E2M1 none at all. -/
def Fmt.infinity : Fmt → Nat
  | .fp32 => 0x7F800000 | .mw40 => 0x7F80000000 | .bf16 => 0x7F80 | .fp16 => 0x7C00
  | .e4m3 => 0x7F | .e5m2 => 0x7C | .int8 => 127 | .e2m1 => 7

/-- Canonical NaN (R52); INT8 stores 0 (R58). -/
def Fmt.nan : Fmt → Nat
  | .fp32 => 0x7FC00000 | .mw40 => 0x7FC0000000 | .bf16 => 0x7FC0 | .fp16 => 0x7E00
  | .e4m3 => 0x7F | .e5m2 => 0x7E | .int8 => 0 | .e2m1 => 0

/-- The sign bit of a format. -/
def Fmt.signBit (f : Fmt) (neg : Bool) : Nat := if neg then 2 ^ (f.bits - 1) else 0

/-- What a conversion stores and counts (R58, R59): the element's bits, and whether it adds to the saturation, the
non-finite and the zero counts, and whether it marks its block 0xFF (E2M1 only). -/
structure Conv where
  bits : Nat
  sat : Bool := false
  nonfin : Bool := false
  zero : Bool := false
  markBlock : Bool := false
  deriving DecidableEq, Repr

/-- Convert an exact value to INT8: nearest-even, then saturation (R58). A NaN stored as 0 adds to the non-finite count
alone, although R59 counts each result of ±0.0 too (DESIGN CHOICE, log entry 71). -/
def convInt8 (v : Val) : Conv :=
  match v with
  | .nan => { bits := 0, nonfin := true }
  | .inf neg => { bits := if neg then 128 else 127, sat := true, nonfin := true }
  | .fin neg m e =>
    let q := if e ≥ 0 then m * up e else rneShift m (-e).toNat
    if neg then
      if q > 128 then { bits := 128, sat := true } else { bits := unsigned 8 (-(q : Int)), zero := q == 0 }
    else
      if q > 127 then { bits := 127, sat := true } else { bits := q, zero := q == 0 }

/-- The conversion of R58 with SATMODE `ieee`, from the exact value, with one rounding, and its counts (R59). -/
def convert (f : Fmt) (ieee : Bool) (v : Val) : Conv :=
  match f with
  | .int8 => convInt8 v
  | _ =>
    let narrow := f == .e4m3 || f == .e5m2
    match v with
    | .nan => { bits := f.nan, nonfin := true, markBlock := f == .e2m1 }
    | .inf neg =>
      if f == .e2m1 then { bits := 0, nonfin := true, markBlock := true }
      else if narrow && !ieee then { bits := f.maxFinite + f.signBit neg, sat := true }
      else if f == .e4m3 then { bits := f.nan, nonfin := true }
      else { bits := f.infinity + f.signBit neg, nonfin := true }
    | .fin neg m e =>
      let r := roundMag f.layout m e
      let mag := packMag f.layout r.1 r.2
      if mag > f.maxFinite then
        if f == .e2m1 || (narrow && !ieee) then { bits := f.maxFinite + f.signBit neg, sat := true }
        else if f == .e4m3 then { bits := f.nan, nonfin := true }
        else { bits := f.infinity + f.signBit neg, nonfin := true }
      else { bits := mag + f.signBit neg, zero := mag == 0 }

/-- An exact value rounded once to FP32 (R56). -/
def toF32 (v : Val) : W32 := BitVec.ofNat 32 (convert .fp32 true v).bits

/-- The exact value of an FP32 pattern. -/
def ofF32 (w : W32) : Val := decode .fp32 w.toNat

/-- Canonical FP32 NaN, 1.0, −0.0 (R52). -/
def f32NaN : W32 := 0x7FC00000#32
def f32One : W32 := 0x3F800000#32
def f32NegZero : W32 := 0x80000000#32
def f32Inf (neg : Bool) : W32 := if neg then 0xFF800000#32 else 0x7F800000#32

/-- NaN, or NaN or infinite, patterns of FP32. -/
def isNaN (w : W32) : Bool := ofF32 w == .nan
def isNonFinite (w : W32) : Bool := bits w.toNat 30 23 == 255
def isZero (w : W32) : Bool := w.toNat % 2 ^ 31 == 0
def isNeg (w : W32) : Bool := bit w.toNat 31

/-- A natural number as an FP32 value, rounded once. -/
def f32Nat (n : Nat) : W32 := toF32 (.fin false n 0)

/-- x · 2^k, exact. -/
def Val.scale (v : Val) (k : Int) : Val :=
  match v with
  | .fin n m e => .fin n m (e + k)
  | v => v

/-- −x. -/
def Val.neg : Val → Val
  | .nan => .nan
  | .inf n => .inf (!n)
  | .fin n m e => .fin (!n) m e

/-- |x|. -/
def Val.abs : Val → Val
  | .nan => .nan
  | .inf _ => .inf false
  | .fin _ m e => .fin false m e

/-- A finite value's signed mantissa brought to exponent `g` (g at or below its own). -/
def signedAt (neg : Bool) (m : Nat) (e g : Int) : Int :=
  let q : Int := m * up (e - g)
  if neg then -q else q

/-- The exact sum, with the IEEE 754 zero and infinity rules (R55, R74). -/
def Val.add : Val → Val → Val
  | .nan, _ => .nan
  | _, .nan => .nan
  | .inf a, .inf b => if a == b then .inf a else .nan
  | .inf a, _ => .inf a
  | _, .inf b => .inf b
  | .fin n1 m1 e1, .fin n2 m2 e2 =>
    let g := min e1 e2
    let s := signedAt n1 m1 e1 g + signedAt n2 m2 e2 g
    if s == 0 then .fin (n1 && n2) 0 g else .fin (s < 0) s.natAbs g

/-- The exact product (R55, R66, R74). -/
def Val.mul : Val → Val → Val
  | .nan, _ => .nan
  | _, .nan => .nan
  | .inf a, .inf b => .inf (a != b)
  | .inf a, .fin b m _ => if m == 0 then .nan else .inf (a != b)
  | .fin a m _, .inf b => if m == 0 then .nan else .inf (a != b)
  | .fin a m1 e1, .fin b m2 e2 => .fin (a != b) (m1 * m2) (e1 + e2)

/-- Exact comparison of finite or infinite values; none when either is NaN. -/
def Val.cmp : Val → Val → Option Ordering
  | .nan, _ => none
  | _, .nan => none
  | .inf a, .inf b => some (if a == b then .eq else if a then .lt else .gt)
  | .inf a, _ => some (if a then .lt else .gt)
  | _, .inf b => some (if b then .gt else .lt)
  | .fin n1 m1 e1, .fin n2 m2 e2 =>
    let g := min e1 e2
    let a := signedAt n1 m1 e1 g
    let b := signedAt n2 m2 e2 g
    some (if a < b then .lt else if a == b then .eq else .gt)

def Val.lt (a b : Val) : Bool := a.cmp b == some .lt
def Val.le (a b : Val) : Bool := a.cmp b == some .lt || a.cmp b == some .eq

/-- FP32 operations, each rounded once (R56, R153). -/
def fadd (a b : W32) : W32 := toF32 ((ofF32 a).add (ofF32 b))
def fsub (a b : W32) : W32 := toF32 ((ofF32 a).add (ofF32 b).neg)
def fmul (a b : W32) : W32 := toF32 ((ofF32 a).mul (ofF32 b))
def ffma (a b c : W32) : W32 := toF32 (((ofF32 a).mul (ofF32 b)).add (ofF32 c))
def fneg (a : W32) : W32 := toF32 (ofF32 a).neg
def fabs (a : W32) : W32 := toF32 (ofF32 a).abs
def flt (a b : W32) : Bool := (ofF32 a).lt (ofF32 b)
def fle (a b : W32) : Bool := (ofF32 a).le (ofF32 b)
def feq (a b : W32) : Bool := (ofF32 a).cmp (ofF32 b) == some .eq
def fgt (a b : W32) : Bool := flt b a
/-- x · 2^k rounded once. -/
def fscale (a : W32) (k : Int) : W32 := toF32 ((ofF32 a).scale k)

/-- The quotient m1/m2 · 2^e to more bits than any format keeps, its last bit odd when it is inexact, so that one
rounding of it is one rounding of the exact quotient. -/
def quotient (neg : Bool) (m1 m2 : Nat) (e : Int) : Val :=
  let k := Nat.log2 m2 + 70
  let q := (m1 <<< k) / m2
  let exact := q * m2 == m1 <<< k
  .fin neg (2 * q + (if exact then 0 else 1)) (e - k - 1)

/-- The quotient under IEEE 754 (R162), not yet rounded. -/
def Val.div : Val → Val → Val
  | .nan, _ => .nan
  | _, .nan => .nan
  | .inf _, .inf _ => .nan
  | .inf a, .fin b _ _ => .inf (a != b)
  | .fin a _ _, .inf b => .fin (a != b) 0 0
  | .fin a m1 e1, .fin b m2 e2 =>
    if m2 == 0 then (if m1 == 0 then .nan else .inf (a != b))
    else quotient (a != b) m1 m2 (e1 - e2)

def fdiv (a b : W32) : W32 := toF32 ((ofF32 a).div (ofF32 b))

/-- ⌊√n⌋, one bit at a time from bit `k` down. -/
def isqrtAux (n : Nat) : Nat → Nat → Nat
  | 0, r => r
  | k + 1, r =>
    let c := r + 2 ^ k
    isqrtAux n k (if c * c ≤ n then c else r)

/-- ⌊√n⌋. -/
def isqrt (n : Nat) : Nat := isqrtAux n (Nat.log2 n / 2 + 1) 0

/-- √x, correctly rounded; SQRT of −0.0 is −0.0 (R162). -/
def fsqrt (a : W32) : W32 :=
  match ofF32 a with
  | .nan => f32NaN
  | .inf n => if n then f32NaN else f32Inf false
  | .fin n m e =>
    if m == 0 then a else if n then f32NaN else
    let odd := e % 2 != 0
    let m' := if odd then 2 * m else m
    let e' := if odd then e - 1 else e
    let z := m' <<< 80
    let q := isqrt z
    toF32 (.fin false (2 * q + (if q * q == z then 0 else 1)) (e' / 2 - 41))

/-- 1 ÷ √x, correctly rounded (R162). -/
def frsqrt (a : W32) : W32 :=
  match ofF32 a with
  | .nan => f32NaN
  | .inf n => if n then f32NaN else 0
  | .fin n m e =>
    if m == 0 then f32Inf n else if n then f32NaN else
    let odd := e % 2 != 0
    let m' := if odd then 2 * m else m
    let e' := if odd then e - 1 else e
    let q := isqrt (2 ^ 160 / m')
    toF32 (.fin false (2 * q + (if q * q * m' == 2 ^ 160 then 0 else 1)) (-(e' / 2) - 81))

/-- Larger and smaller of two values (R161): NaN if either is, +0.0 above −0.0. -/
def fmax (a b : W32) : W32 :=
  if isNaN a || isNaN b then f32NaN
  else if flt a b then b else if flt b a then a else if isNeg a then b else a
def fmin (a b : W32) : W32 :=
  if isNaN a || isNaN b then f32NaN
  else if flt a b then a else if flt b a then b else if isNeg a then a else b

/-- The unbiased exponent of a finite non-zero value (R182). -/
def Val.exponent : Val → Option Int
  | .fin _ m e => if m == 0 then none else some (e + (Nat.log2 m : Int))
  | _ => none

/-- Stochastic rounding of a master (R60, R61): f is the first 16 bits beyond the fraction field, r the random bits.
The second component is whether the result saturated. -/
def stochastic (f : Fmt) (v : Val) (r : Nat) : Nat × Bool :=
  match v with
  | .nan => (f.nan, false)
  | .inf n => (f.infinity + f.signBit n, false)
  | .fin n m e =>
    if m == 0 then (f.signBit n, false) else
    let g := gridExp f.layout m e
    let q := if g ≤ e then m * up (e - g) else m >>> (g - e).toNat
    let fr := if g ≤ e then 0 else if g - e ≤ 16 then (m * up (16 - (g - e))) % 65536 else (m >>> (g - e - 16).toNat) % 65536
    let mag := packMag f.layout (if fr + r ≥ 65536 then q + 1 else q) g
    if mag > f.maxFinite then (f.maxFinite + f.signBit n, true) else (mag + f.signBit n, false)

/-- M of R62: the largest finite value of each format that takes chosen scales. -/
def scaleMax : Fmt → Nat × Int
  | .e4m3 => (7, 6) | .e5m2 => (7, 13) | .int8 => (127, 0) | .e2m1 => (3, 1) | _ => (1, 0)

/-- The scale exponent of R62: the smallest e from −127 to 127 with amax ≤ M · 2^e; 0 when amax is 0. -/
def chooseExp (f : Fmt) (amax : Val) : Int :=
  match amax with
  | .fin _ m e =>
    if m == 0 then 0 else
    let (mm, me) := scaleMax f
    let guess := (e + (Nat.log2 m : Int)) - (me + (Nat.log2 mm : Int))
    let fits (x : Int) : Bool := (Val.fin false m e).le (.fin false mm (me + x))
    let x := if fits (guess - 1) then guess - 1 else if fits guess then guess else guess + 1
    max (-127) (min 127 x)
  | _ => 0

/-- An E8M0 scale byte as an exponent; 0xFF marks NaN (R49). -/
def scaleExp (b : Nat) : Option Int := if b == 255 then none else some ((b : Int) - 127)

/-- An element under its scale (R51): NaN under 0xFF, else x · 2^(e − 127), exact. -/
def decodeScaled (f : Fmt) (b : Nat) (sc : Option Nat) : Val :=
  match sc with
  | none => decode f b
  | some s => match scaleExp s with
    | none => .nan
    | some k => (decode f b).scale k

/-- The FP32 value of an element (R51, R57, R153). -/
def decodeF32 (f : Fmt) (b : Nat) (sc : Option Nat) : W32 := toF32 (decodeScaled f b sc)

/-- The six-level pairwise tree of R69 over the values of one chunk or strip, adding adjacent pairs. -/
def pairUp (op : W32 → W32 → W32) : List W32 → List W32
  | a :: b :: rest => op a b :: pairUp op rest
  | l => l

/-- Pad to 64 with the padding value and reduce in six levels (R69, R165). -/
def tree64 (op : W32 → W32 → W32) (pad : W32) (l : List W32) : W32 :=
  let l := (l ++ List.replicate (64 - l.length) pad).take 64
  (((((pairUp op l |> pairUp op) |> pairUp op) |> pairUp op) |> pairUp op) |> pairUp op).headD pad

/-- Split a row into strips of 64 (fuel: the number of strips). -/
def strips : Nat → List W32 → List (List W32)
  | 0, _ => []
  | n + 1, l => if l.isEmpty then [] else l.take 64 :: strips n (l.drop 64)

/-- A row reduced along axis 0 (R165): the tree in each strip, then ascending strips into an accumulator. -/
def rowReduce (op : W32 → W32 → W32) (pad : W32) (l : List W32) : Option W32 :=
  match (strips l.length l).map (tree64 op pad) with
  | [] => none
  | a :: rest => some (rest.foldl op a)

/-- Σ over a rank-1 tensor in the order of R165; the empty sum is +0.0 (R166). -/
def sumR165 (l : List W32) : W32 := (rowReduce fadd f32NegZero l).getD 0

end Sys2Proof.Machine
end

