-- ==== Sys2Proof/Machine/Operands.lean ====
section
/-! DEFINITION. Tensor operands: the descriptor and its checks (R39 to R52, R85 to R89), where elements and scales lie,
and how they are read. -/

namespace Sys2Proof.Machine

/-! ### The format byte (R39 to R41) -/

def formatCode (b : Nat) : Nat := bits b 3 0
def formatScale (b : Nat) : Nat := bits b 5 4
def formatIeee (b : Nat) : Bool := bit b 6
def formatFmt (b : Nat) : Fmt := (Fmt.ofCode (formatCode b)).getD .fp32

/-- A format byte that R41 refuses. -/
def formatBad (b : Nat) : Bool :=
  let c := formatCode b
  let s := formatScale b
  128 ≤ b || 8 ≤ c || s == 3 || (bit b 6 && c != 4 && c != 5) ||
    (c < 4 && s != 0) || ((c == 4 || c == 5) && s == 2) || (c == 7 && s != 1)

/-! ### The descriptor (R85) -/

def Tensor.fmt (t : Tensor) : Fmt := formatFmt t.format
def Tensor.code (t : Tensor) : Nat := formatCode t.format
def Tensor.ieee (t : Tensor) : Bool := formatIeee t.format
def Tensor.blockScaled (t : Tensor) : Bool := formatScale t.format == 1
def Tensor.channelScaled (t : Tensor) : Bool := formatScale t.format == 2
def Tensor.scaled (t : Tensor) : Bool := formatScale t.format != 0
def Tensor.e (t : Tensor) (i : Nat) : Nat := t.ext.getD i 1
def Tensor.s (t : Tensor) (i : Nat) : Nat := t.str.getD i 0

def parseTensor (b : List Byte) : Tensor :=
  { addr := le b 0 6, format := le b 6 1, rank := le b 7 1, hslot := le b 8 2, fill := BitVec.ofNat 32 (le b 12 4)
    ext := (List.range 5).map fun i => le b (16 + 4 * i) 4
    str := le b 36 1 :: (List.range 4).map fun i => le b (37 + 5 * i) 5
    scaleAddr := le b 57 6 }

/-- Elements of a tensor; 0 when an extent is 0 (R87). -/
def Tensor.size (t : Tensor) : Nat := t.ext.foldl (· * ·) 1

/-- Fields of a descriptor that stand by themselves (R41, R85, R87): reserved fields, the format byte, RANK, STRIDE0, a
scale for an unscaled tensor. Health slots are 0 to 8191 (R181). -/
def descBad (b : List Byte) : Bool :=
  let t := parseTensor b
  !zeros b 10 2 || !zeros b 63 1 || formatBad t.format || t.rank == 0 || 5 < t.rank || t.s 0 != t.fmt.stride0 ||
    (!t.scaled && t.scaleAddr != 0) || (t.hslot != 0xFFFF && 8192 ≤ t.hslot)

/-- Unused axes (R87), the alignment of ADDR (R88), and the blocks of a scale array (R50). -/
def geomBad (t : Tensor) : Bool :=
  (List.range 5).any (fun i => t.rank ≤ i && (t.e i != 1 || (i != 0 && t.s i != 0))) ||
    (t.code == 0 && t.addr % 4 != 0) || ((t.code == 2 || t.code == 3) && t.addr % 2 != 0) ||
    (t.blockScaled && t.e 0 % 32 != 0)

/-- The checks of R87 to R89 that need no region. -/
def tensorBad (b : List Byte) : Bool := descBad b || geomBad (parseTensor b)

/-! ### Elements (R86, R48) -/

/-- The indices of the element at a linear position, axis 0 fastest. -/
def posOf : List Nat → Nat → List Nat
  | [], _ => []
  | e :: es, i => i % e :: posOf es (i / e)

/-- The linear position of an element, axis 0 fastest. -/
def linOf : List Nat → List Nat → Nat
  | e :: es, i :: is => i + e * linOf es is
  | _, _ => 0

/-- Where a byte of a tensor lies: in a ring's window the scale part stands apart (R360). -/
def Tensor.at_ (t : Tensor) (a : Nat) : Nat := if t.split == 0 || a < t.split then a else t.upper + (a - t.split)

/-- The byte at which an element begins (R86). -/
def elemAddr (t : Tensor) (pos : List Nat) : Nat :=
  let i0 := pos.getD 0 0
  t.at_ (t.addr + (if t.code == 7 then i0 / 2 else i0 * t.s 0) + pos.getD 1 0 * t.s 1 + pos.getD 2 0 * t.s 2 +
    pos.getD 3 0 * t.s 3 + pos.getD 4 0 * t.s 4)

/-- Bytes an element occupies; a nibble of one byte for E2M1. -/
def elemBytes (t : Tensor) : Nat := if t.code == 7 then 1 else t.s 0

/-- The byte of the scale that covers an element (R50). -/
def scaleAddrOf (t : Tensor) (pos : List Nat) : Nat :=
  if t.blockScaled then
    let n := t.e 0 / 32
    t.scaleAddr + n * (pos.getD 1 0 + t.e 1 * (pos.getD 2 0 + t.e 2 * (pos.getD 3 0 + t.e 3 * pos.getD 4 0))) +
      pos.getD 0 0 / 32
  else t.scaleAddr + pos.getD 1 0

/-- Bytes of a scale array (R50). -/
def scaleBytes (t : Tensor) : Nat :=
  if t.blockScaled then t.e 0 / 32 * (t.e 1 * t.e 2 * t.e 3 * t.e 4)
  else if t.channelScaled then t.e 1 else 0

/-- The rows of a tensor along axis 0, as ranges of bytes (first, length); none for an empty tensor. -/
def rowRanges (t : Tensor) : List (Nat × Nat) :=
  if t.size == 0 then []
  else
    let rest := t.ext.drop 1
    (List.range (rest.foldl (· * ·) 1)).map fun i =>
      (elemAddr t (0 :: posOf rest i), if t.code == 7 then ceilDiv (t.e 0) 2 else t.e 0 * t.s 0)

/-- Every range of bytes of a tensor, its scales included. -/
def tensorRanges (t : Tensor) : List (Nat × Nat) :=
  if t.size == 0 then []
  else rowRanges t ++ if t.scaled then [(t.scaleAddr, scaleBytes t)] else []

/-- Two tensors share a byte (R89). -/
def shareByte (a b : Tensor) : Bool :=
  (tensorRanges a).any fun r => (tensorRanges b).any fun q => overlaps r.1 r.2 q.1 q.2

/-- The stored bits of an element. -/
def elemBits (set : Settings) (p : Pkg) (t : Tensor) (pos : List Nat) : Nat :=
  let v := readLe set p (elemAddr t pos) (elemBytes t)
  if t.code == 7 then (if pos.getD 0 0 % 2 == 0 then v % 16 else v / 16) else v

/-- The scale byte that covers an element. -/
def elemScale (set : Settings) (p : Pkg) (t : Tensor) (pos : List Nat) : Option Nat :=
  if t.scaled then some (readByte set p (scaleAddrOf t pos)).toNat else none

/-- An element's exact value, a scaled one decoded under R51. -/
def elemVal (set : Settings) (p : Pkg) (t : Tensor) (pos : List Nat) : Val :=
  decodeScaled t.fmt (elemBits set p t pos) (elemScale set p t pos)

/-- An element as FP32 (R51, R57). -/
def elemF32 (set : Settings) (p : Pkg) (t : Tensor) (pos : List Nat) : W32 := toF32 (elemVal set p t pos)

/-- The fill of a tensor as a value read in place of an element (R591). -/
def fillRead (t : Tensor) : W32 :=
  let c := convert t.fmt t.ieee (ofF32 t.fill)
  if t.code == 7 && isNonFinite t.fill then f32NaN else decodeF32 t.fmt c.bits none

/-- The first byte of a tensor whose read fails (R378). -/
def tensorReadError (set : Settings) (p : Pkg) (t : Tensor) : Option Nat :=
  firstSome (fun r => readError set p r.1 r.2) (tensorRanges t)

end Sys2Proof.Machine
end

