-- ==== Sys2Proof/Machine/Flags.lean ====
section
/-! DEFINITION. What a write does beside storing: the conversion of a value into a tensor (R58, R188, R591), the health
counters it raises (R59, R181 to R184), and the application of a task's writes. -/

namespace Sys2Proof.Machine

/-! ### Health counters (R182) -/

def healthOf (p : Pkg) (slot : Nat) : Health := (p.tasks.health.find? fun h => h.slot == slot).getD { slot }

def countAdd (v n : Nat) : Nat := satAdd 0xFFFFFFFF v n

/-- A slot after a write (R182, R183): counts saturate and set SATURATED, MAXEXP keeps the maximum. -/
def Health.add (h : Health) (t : Tally) : Health :=
  let n := { h with
    zeros := countAdd h.zeros t.zeros, sat := countAdd h.sat t.sat, nonfin := countAdd h.nonfin t.nonfin
    oob := countAdd h.oob t.oob, raised := countAdd h.raised t.raised, elems := countAdd h.elems t.elems
    maxExp := match t.exp with | some e => max h.maxExp e | none => h.maxExp }
  let full := [n.zeros, n.sat, n.nonfin, n.oob, n.raised, n.elems].any (· == 0xFFFFFFFF)
  { n with flags := (if t.empty then setBit n.flags 0 else n.flags) ||| (if full then 2 else 0) }

/-- Add to a slot; 0xFFFF names none (R183). -/
def tally (slot : Nat) (t : Tally) (p : Pkg) : Pkg :=
  if slot == 0xFFFF then p
  else { p with tasks.health := (healthOf p slot).add t :: p.tasks.health.filter fun h => h.slot != slot }

/-- The 32 bytes of a slot (R182). -/
def Health.bytes (h : Health) : List Byte :=
  leBytes 4 h.zeros ++ leBytes 4 h.sat ++ leBytes 4 h.nonfin ++ leBytes 4 h.oob ++ leBytes 4 h.raised ++
    leBytes 2 (unsigned 16 h.maxExp) ++ leBytes 2 h.flags ++ leBytes 8 h.elems

/-! ### Writing an element -/

/-- Counts of a converted element under a scale exponent: MAXEXP takes the value written after scaling (R183). -/
def convTally (f : Fmt) (c : Conv) (k : Int) : Tally :=
  { zeros := b2n c.zero, sat := b2n c.sat, nonfin := b2n c.nonfin, elems := 1
    exp := ((decode f c.bits).scale k).exponent }

/-- Counts of an element written without a conversion: by the value its bits decode to (R183). -/
def storedTally (v : Val) : Tally :=
  { zeros := b2n (match v with | .fin _ m _ => m == 0 | _ => false)
    nonfin := b2n (match v with | .fin _ _ _ => false | _ => true), elems := 1, exp := v.exponent }

/-- Store the bits of an element of `t`. -/
def putElem (t : Tensor) (pos : List Nat) (bits : Nat) (n : Tally) : WOp :=
  if t.code == 7 then .nib t.hslot (elemAddr t pos) (pos.getD 0 0 % 2 == 1) bits n
  else .put t.hslot (elemAddr t pos) (elemBytes t) bits n

/-- An element under the scale 0xFF is stored as zero and counted as non-finite (R64, R188). It is not counted as a zero as
well: R59 and R183 name both counts for a stored ±0.0 and do not say that this one has both (DESIGN CHOICE, log entry
71). -/
def nanElem (t : Tensor) (pos : List Nat) : WOp := putElem t pos 0 { nonfin := 1, elems := 1 }

/-- Write an exact value to an element under the scale byte `sc` (R58, R188): the stores, and the scale byte after. -/
def writeElem (t : Tensor) (pos : List Nat) (v : Val) (sc : Option Nat) : List WOp × Option Nat :=
  match sc with
  | none =>
    let c := convert t.fmt t.ieee v
    ([putElem t pos c.bits (convTally t.fmt c 0)], none)
  | some s =>
    match scaleExp s with
    | none => ([nanElem t pos], some s)
    | some k =>
      let c := convert t.fmt t.ieee (v.scale (-k))
      if c.markBlock then ([.bytes (scaleAddrOf t pos) [0xFF], nanElem t pos], some 0xFF)
      else ([putElem t pos c.bits (convTally t.fmt c k)], some s)

/-- Write a list of values in order with the scales already in the array (R188), `known` holding the scale bytes that
earlier writes changed: the writes of each value. -/
def writeEach (set : Settings) (p : Pkg) (t : Tensor) : List (Nat × Nat) → List (List Nat × Val) → List (List WOp)
  | _, [] => []
  | known, (pos, v) :: rest =>
    let a := scaleAddrOf t pos
    let sc := if t.scaled then
        some (((known.find? fun k => k.1 == a).map (·.2)).getD (readByte set p a).toNat) else none
    let r := writeElem t pos v sc
    let known := match r.2, sc with
      | some s, some old => if s == old then known else (a, s) :: known
      | _, _ => known
    r.1 :: writeEach set p t known rest

/-- The same as one list. -/
def writeElems (set : Settings) (p : Pkg) (t : Tensor) (xs : List (List Nat × Val)) : List WOp :=
  (writeEach set p t [] xs).flatten

/-! ### Applying writes (R371, R378, R379) -/

/-- Add an operand into an element (R371): FP32 once rounded, or rounded again to BF16, with the counts of R183. -/
def accumWrite (set : Settings) (slot a : Nat) (wide : Bool) (v : W32) (p : Pkg) : Pkg :=
  let f : Fmt := if wide then .fp32 else .bf16
  let n := if wide then 4 else 2
  let sum := fadd (decodeF32 f (readLe set p a n) none) v
  let c := convert f true (ofF32 sum)
  tally slot (convTally f c 0) (writeMem set a (leBytes n c.bits) p)

/-- The bytes a write touches, and whether it reads them first. -/
def WOp.range : WOp → Nat × Nat
  | .put _ a n _ _ => (a, n)
  | .nib _ a _ _ _ => (a, 1)
  | .bytes a bs => (a, bs.length)
  | .accum _ a wide _ => (a, if wide then 4 else 2)
  | .tally _ _ => (0, 0)

/-- One write (R183). -/
def applyOp (set : Settings) (o : WOp) (p : Pkg) : Pkg :=
  match o with
  | .put slot a n b t => tally slot t (writeMem set a (leBytes n b) p)
  | .nib slot a hi b t =>
    let old := (readByte set p a).toNat
    let new := if hi then old % 16 + 16 * b else old / 16 * 16 + b
    tally slot t (writeMem set a (leBytes 1 new) p)
  | .bytes a bs => writeMem set a bs p
  | .accum slot a wide v => accumWrite set slot a wide v p
  | .tally slot t => tally slot t p

/-- Blocks of 64 bytes that a list of writes replaces whole are not tested for an error they clear (R379). -/
def coversBlock (ws : List WOp) (a : Nat) : Bool :=
  (List.range 64).all fun i => ws.any fun o => o.range.1 ≤ a + i && a + i < o.range.1 + o.range.2

/-- The first address at which one of the writes meets an uncorrectable error (R378, R379). -/
def opsError (set : Settings) (p : Pkg) (ws : List WOp) : Option Nat :=
  if p.mem.failed == 0 && p.mem.bad == [] then none
  else firstSome (fun o =>
    let a := o.range.1
    let n := o.range.2
    let accum := match o with | .accum _ _ _ _ => true | _ => false
    (failedIn set p a n).or (firstSome (fun b =>
      let x := addrOf set (b * 64)
      if overlaps a n x 64 && (accum || !coversBlock ws x) then some (max a x) else none) p.mem.bad)) ws

/-- Apply writes in order: whole, or none of them with the address of the error they meet. -/
def applyOps (set : Settings) (ws : List WOp) (p : Pkg) : Pkg × Option Nat :=
  match opsError set p ws with
  | some x => (p, some x)
  | none =>
    let q := ws.foldl (fun p o => applyOp set o p) p
    let cleared := q.mem.bad.filter fun b => !coversBlock ws (addrOf set (b * 64))
    ({ q with mem.bad := cleared }, none)

end Sys2Proof.Machine
end

