-- ==== Sys2Proof/Machine/Transc.lean ====
section
/-! DEFINITION. The correctly rounded functions of R162 (EXP, LOG, TANH, SIGMOID, ERF, GELU, SILU). Each is enclosed
in integers scaled by 2^P, at P = 256 and then at P = 1024; where both ends of the enclosure round to the same FP32
pattern, that pattern is the correctly rounded result. -/

namespace Sys2Proof.Machine

/-- An enclosure at scale 2^P: the value lies within `err` of `mid`. -/
structure Encl where
  mid : Int
  err : Nat
  deriving DecidableEq, Repr

/-- ⌊a·b ÷ 2^P⌋. -/
def fxMul (P : Nat) (a b : Int) : Int := (a * b) / (2 ^ P : Nat)

/-- ⌊a·2^P ÷ b⌋. -/
def fxDiv (P : Nat) (a b : Int) : Int := if b == 0 then 0 else (a * (2 ^ P : Nat)) / b

/-- A sum of a power series: `t` is the term, `step k t` the next one; stops when the term is 0. -/
def series (step : Nat → Int → Int) : Nat → Nat → Int → Int → Int
  | 0, _, _, acc => acc
  | n + 1, k, t, acc => if t == 0 then acc else series step n (k + 1) (step k t) (acc + t)

/-- atanh(1/n) at scale 2^P. -/
def atanhInv (P n : Nat) : Int :=
  let rec go : Nat → Nat → Int → Int → Int
    | 0, _, _, acc => acc
    | f + 1, k, p, acc => if p == 0 then acc else go f (k + 2) (p / (n * n : Nat)) (acc + p / (k : Int))
  go P 1 ((2 ^ P : Nat) / (n : Int)) 0

/-- arctan(1/n) at scale 2^P. -/
def atanInv (P n : Nat) : Int :=
  let rec go : Nat → Nat → Bool → Int → Int → Int
    | 0, _, _, _, acc => acc
    | f + 1, k, s, p, acc =>
      if p == 0 then acc
      else go f (k + 2) (!s) (p / (n * n : Nat)) (if s then acc - p / (k : Int) else acc + p / (k : Int))
  go P 1 false ((2 ^ P : Nat) / (n : Int)) 0

def fxLn2 (P : Nat) : Int := 18 * atanhInv P 26 - 2 * atanhInv P 4801 + 8 * atanhInv P 8749
def fxPi (P : Nat) : Int := 16 * atanInv P 5 - 4 * atanInv P 239

/-- e^x at scale 2^P for a scaled x with |x| < 128: Taylor on x ÷ 2^8, then eight squarings. -/
def fxExp (P : Nat) (x : Int) : Encl :=
  let t := x / 256
  let one : Int := (2 ^ P : Nat)
  let v := series (fun k u => fxMul P u t / (k : Int)) P 1 one 0
  let sq (a : Int) := fxMul P a a
  let r := sq (sq (sq (sq (sq (sq (sq (sq v)))))))
  ⟨r, r.toNat / 2 ^ (P - 40) + 2 ^ 40⟩

/-- ln y at scale 2^P for a scaled y in [1, 2): 2·atanh((y − 1) ÷ (y + 1)). -/
def fxLog (P : Nat) (y : Int) : Int :=
  let one : Int := (2 ^ P : Nat)
  let z := fxDiv P (y - one) (y + one)
  let z2 := fxMul P z z
  let rec go : Nat → Nat → Int → Int → Int
    | 0, _, _, acc => acc
    | f + 1, k, p, acc => if p == 0 then acc else go f (k + 2) (fxMul P p z2) (acc + p / (k : Int))
  2 * go P 1 z 0

/-- Σ x^(2n+1) ÷ (2n+1)!! at scale 2^P: e^(x²/2) times the integral of e^(−t²/2) from 0 to x. -/
def fxGauss (P : Nat) (x : Int) : Int :=
  let x2 := fxMul P x x
  series (fun k t => fxMul P t x2 / ((2 * k + 1 : Nat) : Int)) (2 * P) 1 x 0

/-- √(2π) at scale 2^P. -/
def fxSqrt2Pi (P : Nat) : Int := (isqrt ((2 * fxPi P).toNat * 2 ^ P) : Int)

/-- An exact FP32 value at scale 2^P (exact for P at or above 149). -/
def fxOf (P : Nat) (neg : Bool) (m : Nat) (e : Int) : Int :=
  let q : Int := if e + P ≥ 0 then m * up (e + P) else ((m / up (-(e + P)) : Nat) : Int)
  if neg then -q else q

/-- The FP32 pattern that a scaled integer rounds to; a 0 keeps the sign asked for. -/
def fxRound (P : Nat) (sgn : Bool) (v : Int) : W32 :=
  toF32 (.fin (if v == 0 then sgn else v < 0) v.natAbs (-(P : Int)))

/-- Φ(x) as √(2π)-scaled enclosure: 1/2 + φ(x)·G(x). -/
def fxPhi (P : Nat) (x : Int) : Encl :=
  let ex := fxExp P (-(fxMul P x x) / 2)
  let g := fxGauss P x
  let a := fxDiv P (fxMul P ex.mid g) (fxSqrt2Pi P)
  ⟨(2 ^ P : Nat) / 2 + a, ex.err * (g.natAbs / 2 ^ P + 1) + 2 ^ 44⟩

/-- x·e^u ÷ (1 + e^u). -/
def fxTimesSigmoid (P : Nat) (x u : Int) : Encl :=
  let ex := fxExp P u
  let s := fxDiv P ex.mid ((2 ^ P : Nat) + ex.mid)
  ⟨fxMul P x s, (ex.err + 2 ^ 40) * (x.natAbs / 2 ^ P + 1)⟩

/-- The transcendental operations, numbered by their OP (R161); 0x1A01 is GELU in tanh form. -/
def transc (op P : Nat) (neg : Bool) (m : Nat) (e : Int) : Encl :=
  let x := fxOf P neg m e
  let one : Int := (2 ^ P : Nat)
  match op with
  | 0x10 => fxExp P x
  | 0x11 =>
    let k := Nat.log2 m
    let y := fxOf P false m (-(k : Int))
    let c := (k : Int) + e
    ⟨fxLog P y + c * fxLn2 P, 2 ^ 30⟩
  | 0x12 =>
    let ex := fxExp P (2 * x)
    ⟨fxDiv P (ex.mid - one) (ex.mid + one), ex.err + 2 ^ 40⟩
  | 0x13 =>
    let ex := fxExp P x
    ⟨fxDiv P ex.mid (one + ex.mid), ex.err + 2 ^ 40⟩
  | 0x14 =>
    let ex := fxExp P (-(fxMul P x x))
    let rt2 := (isqrt (2 * 2 ^ P * 2 ^ P) : Int)
    let g := fxGauss P (fxMul P x rt2)
    ⟨2 * fxDiv P (fxMul P ex.mid g) (fxSqrt2Pi P), 2 * ex.err * (g.natAbs / 2 ^ P + 1) + 2 ^ 44⟩
  | 0x1A => let p := fxPhi P x; ⟨fxMul P x p.mid, p.err * (x.natAbs / 2 ^ P + 1) + 2 ^ 40⟩
  | 0x1A01 =>
    let x3 := fxMul P x (fxMul P x x)
    let u := 2 * 7978846 * (x + x3 * 44715 / 1000000) / 10000000
    let r := fxTimesSigmoid P x u
    ⟨r.mid, r.err * 2 ^ 12⟩
  | _ => fxTimesSigmoid P x x

/-- The pattern both ends of an enclosure round to, if they agree. -/
def settle (P : Nat) (sgn : Bool) (c : Encl) : Option W32 :=
  let a := fxRound P sgn (c.mid - c.err)
  if a == fxRound P sgn (c.mid + c.err) then some a else none

/-- What the function returns where its argument is so large that no rounding is in doubt (R162): the bound of |x|
above which it holds, and the results above and below. -/
def saturated (op : Nat) (neg : Bool) (x : W32) : Option (Nat × W32) :=
  match op, neg with
  | 0x10, false => some (90, f32Inf false)
  | 0x10, true => some (105, 0)
  | 0x12, n => some (32, if n then 0xBF800000#32 else f32One)
  | 0x13, false => some (40, f32One)
  | 0x13, true => some (105, 0)
  | 0x14, n => some (6, if n then 0xBF800000#32 else f32One)
  | 0x1A, false => some (16, x)
  | 0x1A, true => some (15, f32NegZero)
  | 0x1A01, false => some (16, x)
  | 0x1A01, true => some (11, f32NegZero)
  | 0x1B, false => some (40, x)
  | 0x1B, true => some (110, f32NegZero)
  | _, _ => none

/-- The result at ±0 and ±∞ (R162: the results IEEE 754 recommends, and the limits for GELU and SILU). -/
def atZero (op : Nat) (x : W32) : W32 :=
  match op with
  | 0x10 => f32One | 0x11 => f32Inf true | 0x13 => 0x3F000000#32 | _ => x
def atInf (op : Nat) (neg : Bool) : W32 :=
  match op, neg with
  | 0x10, false => f32Inf false | 0x10, true => 0
  | 0x11, false => f32Inf false | 0x11, true => f32NaN
  | 0x12, n => if n then 0xBF800000#32 else f32One
  | 0x13, false => f32One | 0x13, true => 0
  | 0x14, n => if n then 0xBF800000#32 else f32One
  | _, false => f32Inf false | _, true => f32NegZero

/-- A correctly rounded transcendental operation on one FP32 value (R162). -/
def fmath (op : Nat) (x : W32) : W32 :=
  match ofF32 x with
  | .nan => f32NaN
  | .inf n => atInf op n
  | .fin n m e =>
    if m == 0 then atZero op x
    else if op == 0x11 && n then f32NaN
    else if op == 0x11 && (ofF32 x).cmp (.fin false 1 0) == some .eq then 0
    else
      let far := match saturated op n x with
        | some (b, r) => if (Val.fin false b 0).le (.fin false m e) then some r else none
        | none => none
      match far with
      | some r => r
      | none =>
        (settle 256 n (transc op 256 n m e)).getD
          ((settle 1024 n (transc op 1024 n m e)).getD (Config.mathSettled op x))

/-! ### The slope of DACT (R258) -/

/-- σ(u) and φ(x) at scale 2^P. -/
def fxSigmoid (P : Nat) (u : Int) : Int :=
  let ex := fxExp P u
  fxDiv P ex.mid ((2 ^ P : Nat) + ex.mid)
def fxDensity (P : Nat) (x : Int) : Int := fxDiv P (fxExp P (-(fxMul P x x) / 2)).mid (fxSqrt2Pi P)

/-- The argument of σ in the tanh form of GELU: x·σ(w) = 0.5·x·(1 + tanh(w ÷ 2)); and its derivative. -/
def fxTanhArg (P : Nat) (x : Int) : Int :=
  2 * 7978846 * (x + fxMul P x (fxMul P x x) * 44715 / 1000000) / 10000000
def fxTanhArg' (P : Nat) (x : Int) : Int :=
  2 * 7978846 * ((2 ^ P : Nat) + 3 * fxMul P x x * 44715 / 1000000) / 10000000

/-- The function of DACT MOD 5, 6 or 7 and its derivative, at scale 2^P. -/
def actValue (P mod : Nat) (x : Int) : Int :=
  match mod with
  | 5 => fxMul P x (fxPhi P x).mid
  | 6 => fxMul P x (fxSigmoid P (fxTanhArg P x))
  | _ => fxMul P x (fxSigmoid P x)
def actSlope (P mod : Nat) (x : Int) : Int :=
  let one : Int := (2 ^ P : Nat)
  let chain (s w' : Int) : Int := s + fxMul P (fxMul P x (fxMul P s (one - s))) w'
  match mod with
  | 5 => (fxPhi P x).mid + fxMul P x (fxDensity P x)
  | 6 => chain (fxSigmoid P (fxTanhArg P x)) (fxTanhArg' P x)
  | _ => chain (fxSigmoid P x) one

/-- Halve [lo, hi] `n` times towards the point up to which `below` holds. -/
def bisect (below : Int → Bool) : Nat → Int → Int → Int
  | 0, lo, _ => lo
  | n + 1, lo, hi =>
    let m := (lo + hi) / 2
    if below m then bisect below n m hi else bisect below n lo m

/-- The derivative at the input x* whose function value is y on the branch of the bit (R258), at scale 2^P. From 40 on it
is 1 to within far less than the bound. -/
def exactSlope (P mod : Nat) (y : Int) (up : Bool) : Int :=
  let one : Int := (2 ^ P : Nat)
  let xm : Int := -(one * (if mod == 7 then 127846 else 75179) / 100000)
  if !up && 40 * one ≤ y then one
  else if up then
    let lo : Int := match mod with | 5 => -15 * one | 6 => -11 * one | _ => -110 * one
    actSlope P mod (bisect (fun x => y ≤ actValue P mod x) (P + 8) lo xm)
  else actSlope P mod (bisect (fun x => actValue P mod x ≤ y) (P + 8) xm (max 0 y + one))

/-- The slope the core gives: the fixed function `Config.dactSlope` of y and the bit where it keeps the bound of R258,
2^-20 (which exceeds 4 units in the last place of a slope below 2), else the derivative rounded once, so that the bound
holds whatever that function is (log entry 13). -/
def boundedSlope (mod : Nat) (y : W32) (up : Bool) : W32 :=
  let P := 128
  let at_ (w : W32) : Option Int := match ofF32 w with | .fin n m e => some (fxOf P n m e) | _ => none
  match at_ y with
  | none => f32NaN
  | some v =>
    let s := exactSlope P mod v up
    let c := Config.dactSlope mod y up
    match at_ c with
    | some d => if (d - s).natAbs * 2 ^ 20 ≤ 2 ^ P then c else fxRound P false s
    | none => fxRound P false s

end Sys2Proof.Machine
end

