-- ==== Sys2Proof/Machine/VectorChain.lean ====
section
/-! DEFINITION. Vector chains: the body and its checks (R151 to R163, R196 to R199), element-wise operations, reductions
(R164 to R168), masks, compress, expand and gather (R171 to R176), summaries (R177 to R179), what a chain writes
(R187, R188), branch bits and DACT (R256 to R258). -/

namespace Sys2Proof.Machine

/-! ### The body (R156 to R159) -/

structure Chain where
  nstage : Nat
  flags : Nat
  iter : Nat
  mask : Nat
  out0 : Nat
  out1 : Nat
  summary : Nat
  stages : List Nat
  consts : List W32
  deriving DecidableEq, Repr

def parseChain (b : List Byte) : Chain :=
  { nstage := le b 0 1, flags := le b 1 1, iter := le b 2 1, mask := le b 3 1, out0 := le b 4 1, out1 := le b 5 1
    summary := le b 6 2, stages := (List.range 8).map fun i => le b (8 + 4 * i) 4
    consts := (List.range 6).map fun i => BitVec.ofNat 32 (le b (40 + 4 * i) 4) }

def Chain.strict (c : Chain) : Bool := bit c.flags 7
def Chain.scaleSel (c : Chain) : Bool := bit c.flags 6
def Chain.narrow (c : Chain) : Bool := bit c.flags 5
def Chain.branchBits (c : Chain) : Bool := bit c.flags 4
def Chain.out1Stage (c : Chain) : Nat := bits c.flags 2 0
def Chain.stage (c : Chain) (i : Nat) : Nat := c.stages.getD i 0

def stOp (w : Nat) : Nat := bits w 31 24
def stA (w : Nat) : Nat := bits w 23 19
def stB (w : Nat) : Nat := bits w 18 14
def stC (w : Nat) : Nat := bits w 13 9
def stMod (w : Nat) : Nat := bits w 8 5
def stAxis (w : Nat) : Nat := bits w 4 2

def isReduction (op : Nat) : Bool := 0x30 ≤ op && op ≤ 0x39
def isArg (op : Nat) : Bool := op == 0x36 || op == 0x37

/-- The sources an operation takes, as a mask A 1, B 2, C 4 (R161, R256); `none` for a reserved OP or MOD. -/
def opSources (op mod : Nat) : Option Nat :=
  let plain (m : Nat) : Option Nat := if mod == 0 then some m else none
  if op == 0x01 || op == 0x02 || op == 0x03 || op == 0x05 || op == 0x06 || op == 0x07 || op == 0x19 then plain 3
  else if op == 0x04 then plain 7
  else if (0x08 ≤ op && op ≤ 0x0C) || (0x10 ≤ op && op ≤ 0x14) || op == 0x18 || op == 0x1B then plain 1
  else if op == 0x1A then if mod ≤ 1 then some 1 else none
  else if op == 0x1C then
    if mod == 0 || (2 ≤ mod && mod ≤ 4) then some 5 else if mod == 1 || (5 ≤ mod && mod ≤ 7) then some 7 else none
  else if op == 0x20 then if mod ≤ 5 then some 3 else if mod == 6 then some 1 else none
  else if op == 0x21 then plain 7
  else if op == 0x22 then if 2 ≤ mod && mod ≤ 7 then some 1 else none
  else if isReduction op || op == 0x42 || op == 0x43 then plain 1
  else if op == 0x40 then plain 3
  else none

/-- Operations allowed in NARROW mode (R161). -/
def narrowOp (op : Nat) : Bool :=
  op == 0x01 || op == 0x02 || op == 0x03 || (0x06 ≤ op && op ≤ 0x09) || op == 0x18 || op == 0x20 || op == 0x21

/-- The operation takes an axis, or a source reads the position index along it (R158, R159). -/
def takesAxis (w : Nat) : Bool :=
  isReduction (stOp w) || stOp w == 0x40 || stOp w == 0x42 || stOp w == 0x43 ||
    stA w == 0x1E || stB w == 0x1E || stC w == 0x1E

/-- An AXIS the stage may name: 0 to 4, 7 for a reduction alone; 0 where the operation takes none (R158). -/
def axisOk (w : Nat) : Bool :=
  if !takesAxis w then stAxis w == 0
  else stAxis w ≤ 4 || (stAxis w == 7 && isReduction (stOp w) && stA w != 0x1E && stB w != 0x1E && stC w != 0x1E)

/-- Stage `j` is an arg-reduction named by the source (R168). -/
def argSource (c : Chain) (v : Nat) : Bool := 0x11 ≤ v && v ≤ 0x17 && isArg (stOp (c.stage (v - 0x11)))

/-- A source encoding of stage `i` that R159 or R199 refuses: `takes` says whether the operation takes this source. -/
def sourceBad (i tdescs : Nat) (epilogue takes : Bool) (v : Nat) : Bool :=
  if !takes then v != 0
  else v == 0 || (1 ≤ v && v ≤ 16 && tdescs ≤ v - 1) || (0x11 ≤ v && v ≤ 0x17 && i ≤ v - 0x11) ||
    (v == 0x1F && !epilogue)

/-- A stage word that is refused without any tensor descriptor (R158, R159, R168, R173, R174, R199). -/
def stageBad (c : Chain) (tdescs : Nat) (epilogue : Bool) (i : Nat) : Bool :=
  let w := c.stage i
  match opSources (stOp w) (stMod w) with
  | none => true
  | some m =>
    w % 4 != 0 || !axisOk w || sourceBad i tdescs epilogue (bit m 0) (stA w) ||
      sourceBad i tdescs epilogue (bit m 1) (stB w) || sourceBad i tdescs epilogue (bit m 2) (stC w) ||
      argSource c (stA w) || argSource c (stC w) || (argSource c (stB w) && stOp w != 0x40) ||
      (stOp w == 0x40 && (stA w == 0 || 16 < stA w || !((1 ≤ stB w && stB w ≤ 16) || argSource c (stB w)))) ||
      (stOp w == 0x42 && (stAxis w != 1 || i + 1 != c.nstage || c.out0 == 0xFF)) ||
      (stOp w == 0x43 && (stAxis w != 1 || stA w == 0 || 16 < stA w)) ||
      (stOp w == 0x1C && 5 ≤ stMod w && (stB w == 0 || 16 < stB w)) ||
      (c.narrow && !narrowOp (stOp w))

/-- Stages in use, and whether a later stage reads stage `i`. -/
def Chain.used (c : Chain) : List Nat := List.range (min 8 c.nstage)
def usesStage (w i : Nat) : Bool := stA w == 0x11 + i || stB w == 0x11 + i || stC w == 0x11 + i
def consumed (c : Chain) (i : Nat) : Bool :=
  isReduction (stOp (c.stage i)) && c.used.any fun j => i < j && usesStage (c.stage j) i

/-- Reductions over all axes (R177). -/
def allAxes (c : Chain) : List Nat := c.used.filter fun i => isReduction (stOp (c.stage i)) && stAxis (c.stage i) == 7

def hasOp (c : Chain) (op : Nat) : Bool := c.used.any fun i => stOp (c.stage i) == op

/-- What R78 and R199 refuse at LOAD: everything that needs no tensor descriptor. Package summary slots are for J0
(R179). BRANCHBITS without an OUT1 to receive the bits is refused too: R163 and R257 give that pair no outcome (DESIGN
CHOICE, log entry 71). -/
def chainBad (c : Chain) (tdescs : Nat) (epilogue j1 : Bool) : Bool :=
  let idxBad (v : Nat) : Bool := v != 0xFF && tdescs ≤ v
  c.nstage == 0 || 8 < c.nstage || bit c.flags 3 ||
    (List.range 8).any (fun i => c.nstage ≤ i && c.stage i != 0) ||
    c.used.any (stageBad c tdescs epilogue) ||
    (if epilogue then c.iter != 0 else tdescs ≤ c.iter) || idxBad c.mask || idxBad c.out0 || idxBad c.out1 ||
    (if c.out1 == 0xFF then c.out1Stage != 0 || c.branchBits else c.nstage ≤ c.out1Stage + 1) ||
    3 < (c.used.filter (consumed c)).length ||
    (c.summary != 0xFFFF && ((allAxes c).length != 1 ||
      !(c.summary < 256 || (0x1000 ≤ c.summary && c.summary ≤ 0x10FF && !j1)))) ||
    (c.narrow && (c.out1 != 0xFF || c.out0 == 0xFF)) ||
    (c.branchBits && (c.mask != 0xFF ||
      (stOp (c.stage c.out1Stage) != 0x1A && stOp (c.stage c.out1Stage) != 0x1B))) ||
    ((hasOp c 0x42 || hasOp c 0x43) && c.mask == 0xFF) ||
    (c.scaleSel && (c.out0 == 0xFF || c.mask != 0xFF)) ||
    (epilogue && (c.mask != 0xFF || c.summary != 0xFFFF || c.narrow ||
      c.used.any (fun i => isReduction (stOp (c.stage i)) || stOp (c.stage i) == 0x40 || stOp (c.stage i) == 0x42 ||
        stOp (c.stage i) == 0x43)))

/-! ### Checks that need tensors (R152, R155, R163, R164, R173, R174, R176, R187, R197, R257) -/

/-- R152: each axis has the extent of the iteration space or 1. -/
def fits (t : Tensor) (ext : List Nat) : Bool := (List.range 5).all fun a => t.e a == ext.getD a 1 || t.e a == 1

/-- R152 but for one axis. -/
def fitsBut (t : Tensor) (ext : List Nat) (axis : Nat) : Bool :=
  (List.range 5).all fun a => a == axis || t.e a == ext.getD a 1 || t.e a == 1

/-- The extents of a reduction's result (R164). -/
def reducedExt (ext : List Nat) (axis : Nat) : List Nat :=
  (List.range 5).map fun a => if axis == 7 || a == axis then 1 else ext.getD a 1

/-- The extents of a stage's result. -/
def stageExt (c : Chain) (ext : List Nat) (i : Nat) : List Nat :=
  if isReduction (stOp (c.stage i)) then reducedExt ext (stAxis (c.stage i)) else ext

def sameExt (t : Tensor) (ext : List Nat) : Bool := (List.range 5).all fun a => t.e a == ext.getD a 1

/-- The tensor sources of a stage that are read element-wise at the position. -/
def plainSources (w : Nat) : List Nat :=
  let tens (v : Nat) : List Nat := if 1 ≤ v && v ≤ 16 then [v - 1] else []
  if stOp w == 0x40 then []
  else if stOp w == 0x43 then []
  else if stOp w == 0x1C && 5 ≤ stMod w then tens (stA w) ++ tens (stC w)
  else tens (stA w) ++ tens (stB w) ++ tens (stC w)

/-- Every tensor a chain reads through a stage. -/
def allSources (w : Nat) : List Nat :=
  let tens (v : Nat) : List Nat := if 1 ≤ v && v ≤ 16 then [v - 1] else []
  tens (stA w) ++ tens (stB w) ++ tens (stC w)

/-- Branch bits are unscaled INT8, ⌈e0 ÷ 8⌉ bytes along axis 0, the other axes under R152 (R257). -/
def bitsTensorBad (t : Tensor) (ext : List Nat) : Bool :=
  t.code != 6 || t.scaled || t.s 0 != 1 || t.e 0 != ceilDiv (ext.getD 0 1) 8 || !fitsBut t ext 0

/-- The index range of an arg-reduction is too large (R168): its largest index is compared, not the number of indices
(DESIGN CHOICE, log entry 71). -/
def argTooLong (ext : List Nat) (w : Nat) : Bool :=
  isArg (stOp w) && 0xFFFFFFFE < (if stAxis w == 7 then ext.foldl (· * ·) 1 else ext.getD (stAxis w) 1) - 1

/-- Two descriptors agree in ADDR, FORMAT, extents and strides (R197, R375). -/
def sameTensor (a b : Tensor) : Bool := a.addr == b.addr && a.format == b.format && a.ext == b.ext && a.str == b.str

/-- An output may share bytes with a source or with ITER only in place (R197). -/
def inPlaceBad (c : Chain) (tn : Nat → Tensor) (ext : List Nat) (out src : Nat) : Bool :=
  shareByte (tn out) (tn src) &&
    !(sameTensor (tn out) (tn src) && sameExt (tn src) ext &&
      !(hasOp c 0x40 || hasOp c 0x42 || hasOp c 0x43 || c.used.any (consumed c) ||
        (c.scaleSel && (tn c.out0).channelScaled)))

/-- An output's format and extents. -/
def outBad (c : Chain) (tn : Nat → Tensor) (ext : List Nat) (out stage : Nat) (bitsOut : Bool) : Bool :=
  let t := tn out
  let w := c.stage stage
  t.code == 1 ||
    (if bitsOut then bitsTensorBad t ext
     else if isArg (stOp w) then t.code != 0 || !sameExt t (stageExt c ext stage)
     else if stOp w == 0x42 then
       (List.range 5).any fun a => a != 1 && t.e a != ext.getD a 1
     else !sameExt t (stageExt c ext stage))

/-- A chain that the rules of its tensors refuse (R199); `ext` is the iteration space. -/
def chainTensorsBad (c : Chain) (tn : Nat → Tensor) (ext : List Nat) (epilogue : Bool) : Bool :=
  let last := c.nstage - 1
  let srcs := c.used.flatMap fun i => allSources (c.stage i)
  let mask := tn c.mask
  (c.mask != 0xFF && (mask.code != 6 || mask.scaled || !fits mask ext ||
    ((hasOp c 0x42 || hasOp c 0x43) && mask.e 0 != 1))) ||
  c.used.any (fun i => (plainSources (c.stage i)).any fun k => !fits (tn k) ext) ||
  c.used.any (fun i =>
    let w := c.stage i
    argTooLong ext w ||
    (stOp w == 0x40 && (!fitsBut (tn (stA w - 1)) ext (stAxis w) ||
      (stB w ≤ 16 && ((tn (stB w - 1)).code != 0 || !fits (tn (stB w - 1)) ext)))) ||
    (stOp w == 0x43 && !fitsBut (tn (stA w - 1)) ext 1) ||
    (stOp w == 0x1C && 5 ≤ stMod w && bitsTensorBad (tn (stB w - 1)) ext)) ||
  (c.out0 != 0xFF && outBad c tn ext c.out0 last false) ||
  (c.out1 != 0xFF && outBad c tn ext c.out1 c.out1Stage c.branchBits) ||
  (c.narrow && ((c.out0 == 0xFF) || ((tn c.out0).code != 2 && (tn c.out0).code != 3) ||
    srcs.any fun k => (tn k).code != (tn c.out0).code)) ||
  (c.scaleSel && !(tn c.out0).scaled) ||
  ([c.out0, c.out1].any fun o => o != 0xFF && ((if epilogue then [] else [c.iter]) ++ srcs).any fun k => inPlaceBad c tn ext o k) ||
  ([c.out0, c.out1].any fun o => o != 0xFF && c.mask != 0xFF && shareByte (tn o) mask) ||
  (c.out0 != 0xFF && c.out1 != 0xFF && shareByte (tn c.out0) (tn c.out1))

/-! ### Element-wise operations (R153, R161, R162, R256) -/

/-- CMP (R161): false on NaN, except for A ≠ B. -/
def cmpHolds (mod : Nat) (a b : W32) : Bool :=
  match mod with
  | 0 => flt a b
  | 1 => fle a b
  | 2 => flt b a
  | 3 => fle b a
  | 4 => feq a b
  | 5 => !feq a b
  | _ => isNonFinite a

def posZero : W32 := 0#32

/-- ROUND (R161): what the stored element would decode to, a finite value never passing the largest one; for INT8 that
is 127, or −128 as R58 saturates (DEDUCED: R52 gives INT8 both limits). -/
def roundTo (code : Nat) (a : W32) : W32 :=
  let f := (Fmt.ofCode code).getD .fp32
  let c := convert f false (ofF32 a)
  if c.markBlock then f32NaN
  else if f == .int8 then decodeF32 f c.bits none
  else if !isNonFinite a && (c.sat || c.nonfin) then decodeF32 f (f.maxFinite + f.signBit (isNeg a)) none
  else decodeF32 f c.bits none

/-- x_m of GELU and of SILU as the nearest FP32 value (R258), and −y_m · 10^5. -/
def branchPoint (silu : Bool) : W32 := if silu then 0xBFA3A494#32 else 0xBF40754F#32
def minimumE5 (silu : Bool) : Nat := if silu then 27846 else 16997

/-- The branch bit of a GELU or SILU input (R258). -/
def branchBit (silu : Bool) (x : W32) : Bool := flt x (branchPoint silu)

/-- The slope of DACT (R256, R258); `b` is the leaky slope, `up` the branch bit. -/
def dactSlope (mod : Nat) (y b : W32) (up : Bool) : W32 :=
  match mod with
  | 0 => if flt posZero y then f32One else posZero
  | 1 => if fle posZero y then f32One else b
  | 2 => fmul y (fsub f32One y)
  | 3 => ffma (fneg y) y f32One
  | 4 => y
  | _ =>
    let below := ((ofF32 y).mul (.fin false 100000 0)).lt (.fin true (minimumE5 (mod == 7)) 0)
    if below || (fle posZero y && up) then posZero
    else if isNonFinite y && !up then f32One
    else boundedSlope mod y up

/-- An element-wise operation as an exact value still to be rounded once (R153, R155), `up` being the branch bit read
by DACT. -/
def opVal (op mod : Nat) (a b c : W32) (up : Bool) : Val :=
  let x := ofF32 a
  let y := ofF32 b
  match op with
  | 0x01 => x.add y
  | 0x02 => x.add y.neg
  | 0x03 => x.mul y
  | 0x04 => ofF32 (ffma a b c)
  | 0x05 => ofF32 (fdiv a b)
  | 0x06 => ofF32 (fmax a b)
  | 0x07 => ofF32 (fmin a b)
  | 0x08 => x.abs
  | 0x09 => x.neg
  | 0x0A => ofF32 (fsqrt a)
  | 0x0B => ofF32 (frsqrt a)
  | 0x0C => ofF32 (fdiv f32One a)
  | 0x18 => if isNaN a then .nan else if flt posZero a then x else .fin false 0 0
  | 0x19 => if isNaN a then .nan else if fle posZero a then x else x.mul y
  | 0x1A => ofF32 (fmath (if mod == 1 then 0x1A01 else 0x1A) a)
  | 0x1C => if isNaN a || isNaN c then .nan else ofF32 (fmul (dactSlope mod a b up) c)
  | 0x20 => if cmpHolds mod a b then .fin false 1 0 else .fin false 0 0
  | 0x21 => if isZero c || isNaN c then y else x
  | 0x22 => ofF32 (roundTo mod a)
  | _ => ofF32 (fmath op a)

/-- The one rounding of a stage result: to FP32, or in NARROW mode to the format of OUT0 (R153, R155). -/
def stageRound (narrow : Option Fmt) (v : Val) : W32 :=
  match narrow with
  | none => toF32 v
  | some f => decodeF32 f (convert f true v).bits none

/-! ### Reductions (R164 to R168) -/

/-- The padding value of a reduction (R166). -/
def padding (op : Nat) : W32 :=
  match op with
  | 0x30 => f32NegZero
  | 0x31 => f32NegZero
  | 0x32 => f32One
  | 0x33 => f32Inf true
  | 0x34 => f32Inf false
  | _ => posZero

/-- The empty result (R166). -/
def emptyResult (op : Nat) : W32 :=
  match op with
  | 0x32 => f32One
  | 0x33 => f32Inf true
  | 0x34 => f32Inf false
  | 0x36 => 0xFFFFFFFF#32
  | 0x37 => 0xFFFFFFFF#32
  | _ => posZero

/-- How two values combine (R165, R167). -/
def combine (op : Nat) (a b : W32) : W32 :=
  match op with
  | 0x32 => fmul a b
  | 0x33 => fmax a b
  | 0x34 => fmin a b
  | 0x35 => fmax a b
  | _ => fadd a b

/-- What enters the tree for an included value: a square, a magnitude, or the value (R161). -/
def reduceIn (op : Nat) (v : W32) : W32 :=
  match op with
  | 0x31 => fmul v v
  | 0x35 => fabs v
  | _ => v

/-- Values with whether each is included (R166, R172). -/
abbrev Item := Bool × W32

def itemIn (op : Nat) (x : Item) : W32 := if x.1 then reduceIn op x.2 else padding op

/-- A row along axis 0 (R165). -/
def reduceRow (op : Nat) (l : List Item) : W32 :=
  (rowReduce (combine op) (padding op) (l.map (itemIn op))).getD (padding op)

/-- Ascending combination (R165). -/
def reduceAsc (op : Nat) (l : List W32) : W32 :=
  match l with
  | [] => padding op
  | a :: rest => rest.foldl (combine op) a

/-- One value ranks above another in a RARGMAX: +0.0 above −0.0 (R167). -/
def ranksAbove (a b : W32) : Bool := flt b a || (feq a b && !isNeg a && isNeg b)

/-- The item an arg-reduction chooses: the first NaN, else the best, the lowest index on a tie (R167). -/
def argBest (op : Nat) (l : List (Nat × Item)) : Option (Nat × W32) :=
  let inc := l.filter fun x => x.2.1
  match inc.find? fun x => isNaN x.2.2 with
  | some x => some (x.1, x.2.2)
  | none => inc.foldl (fun best x => match best with
      | none => some (x.1, x.2.2)
      | some b => if (if op == 0x36 then ranksAbove x.2.2 b.2 else ranksAbove b.2 x.2.2) then some (x.1, x.2.2)
        else best) none

/-- The result of one reduction over rows of items, in the order of R165 (`rows` are combined along axis 0 first when
`tree` is set). Indices of arg-reductions count through the rows. -/
def reduceRows (op : Nat) (tree : Bool) (rows : List (List Item)) : W32 :=
  let items := rows.flatten
  if !(items.any (·.1)) then emptyResult op
  else if isArg op then
    match argBest op ((List.range items.length).zip items) with
    | some x => BitVec.ofNat 32 x.1
    | none => emptyResult op
  else if op == 0x38 then f32Nat (items.countP fun x => x.1 && isNonFinite x.2)
  else if op == 0x39 then f32Nat (items.countP fun x => x.1 && !isZero x.2 && !isNaN x.2)
  else if tree then reduceAsc op (rows.map (reduceRow op))
  else reduceAsc op (items.map (itemIn op))

/-! ### Running a chain -/

/-- What a chain runs over: its tensors, the extents of the iteration space, the positions in order, and the tile of an
epilogue (parallel to the positions). -/
structure ChainEnv where
  set : Settings
  p : Pkg
  tn : List Tensor
  ext : List Nat
  ps : List (List Nat)
  tile : List W32
  narrow : Option Fmt
  lo : Nat
  hi : Nat
  whole : Bool

/-- Positions that a strip holds (R154, R155). -/
def ChainEnv.width (v : ChainEnv) : Nat := if v.narrow.isSome then 128 else 64

/-- A stage's result: extents, values in linear order, raw indices or not, and branch bits. -/
structure StageRes where
  ext : List Nat
  full : Bool
  vals : List W32
  empties : List Bool
  bits : List Bool
  oob : List Bool
  deriving DecidableEq, Repr

/-- A tensor of one FP32 element, for an index that no check lets through. -/
def noTensor : Tensor := 
  { addr := 0, format := 0, rank := 1, hslot := 0xFFFF, fill := 0, ext := [1, 1, 1, 1, 1], str := [4, 0, 0, 0, 0], scaleAddr := 0 }

def ChainEnv.t (v : ChainEnv) (i : Nat) : Tensor := v.tn.getD i noTensor

/-- A position clipped to extents: an axis of extent 1 is read at index 0 (R152, R160). -/
def clipPos (ext pos : List Nat) : List Nat :=
  (List.range 5).map fun a => if ext.getD a 1 == 1 then 0 else pos.getD a 0

/-- A stage's result at the `n`-th position `pos`. -/
def resAt (r : StageRes) (n : Nat) (pos : List Nat) : W32 :=
  if r.full then r.vals.getD n 0 else r.vals.getD (linOf r.ext (clipPos r.ext pos)) 0

/-- A constant enters a chain as a value: a NaN is canonical (R54). -/
def canonical (w : W32) : W32 := if isNaN w then f32NaN else w

/-- A source of a stage at a position (R159). -/
def sourceAt (v : ChainEnv) (c : Chain) (res : List StageRes) (axis s n : Nat) (pos : List Nat) : W32 :=
  if s == 0 then posZero
  else if s ≤ 16 then
    let t := v.t (s - 1)
    elemF32 v.set v.p t (clipPos t.ext pos)
  else if s ≤ 0x17 then
    match res[s - 0x11]? with
    | some r => resAt r n pos
    | none => posZero
  else if s ≤ 0x1D then canonical (c.consts.getD (s - 0x18) 0)
  else if s == 0x1E then f32Nat (pos.getD axis 0)
  else v.tile.getD n 0

/-- A branch bit at a position (R257). -/
def bitAt (v : ChainEnv) (k : Nat) (pos : List Nat) : Bool :=
  let t := v.t k
  let i0 := pos.getD 0 0
  bit (readByte v.set v.p (elemAddr t ((i0 / 8) :: (clipPos t.ext pos).drop 1))).toNat (i0 % 8)

/-- A position is active (R171). -/
def active (v : ChainEnv) (c : Chain) (pos : List Nat) : Bool :=
  if c.mask == 0xFF then true
  else
    let t := v.t c.mask
    readByte v.set v.p (elemAddr t (clipPos t.ext pos)) != 0

/-- Active items below index `i1` of axis 1 with the same indices on axes 2 to 4 (R173, R174). -/
def rankOf (v : ChainEnv) (c : Chain) (pos : List Nat) : Nat :=
  (List.range (pos.getD 1 0)).countP fun i => active v c (0 :: i :: pos.drop 2)

/-- Replace the index on one axis. -/
def setAxis (pos : List Nat) (a i : Nat) : List Nat := pos.set a i

/-- GATHER at a position: the value, or the fill with an out-of-range mark (R176). -/
def gatherAt (v : ChainEnv) (c : Chain) (res : List StageRes) (w n : Nat) (pos : List Nat) : W32 × Bool :=
  let t := v.t (stA w - 1)
  let idx := if stB w ≤ 16 then
      let b := v.t (stB w - 1)
      elemBits v.set v.p b (clipPos b.ext pos)
    else (sourceAt v c res 0 (stB w) n pos).toNat
  if t.e (stAxis w) ≤ idx then (fillRead t, true)
  else (elemF32 v.set v.p t (setAxis (clipPos (t.ext.set (stAxis w) 2) pos) (stAxis w) idx), false)

/-- EXPAND at a position (R174, R175). -/
def expandAt (v : ChainEnv) (c : Chain) (w : Nat) (pos : List Nat) : W32 × Bool :=
  let t := v.t (stA w - 1)
  if !active v c pos then (fillRead t, false)
  else
    let r := rankOf v c pos
    if t.e 1 ≤ r then (fillRead t, true)
    else (elemF32 v.set v.p t (setAxis (clipPos (t.ext.set 1 2) pos) 1 r), false)

/-- The items of a stage's source A over the whole iteration space. -/
def stageItems (v : ChainEnv) (c : Chain) (res : List StageRes) (w : Nat) : List Item :=
  ((List.range v.ps.length).zip v.ps).map fun x =>
    (active v c x.2, sourceAt v c res (stAxis w) (stA w) x.1 x.2)

/-- Rows of `n` items. -/
def rowsOf {α : Type} (n : Nat) : Nat → List α → List (List α)
  | 0, _ => []
  | k + 1, l => l.take n :: rowsOf n k (l.drop n)

/-- The groups of items a reduction combines, one for each position of its result, as rows (R165). -/
def reduceGroups (ext : List Nat) (axis : Nat) (items : List Item) : List (List (List Item)) :=
  let e0 := ext.getD 0 1
  let rest := (ext.drop 1).foldl (· * ·) 1
  if axis == 7 then [rowsOf e0 rest items]
  else if axis == 0 then (rowsOf e0 rest items).map fun r => [r]
  else
    let out := reducedExt ext axis
    (List.range (out.foldl (· * ·) 1)).map fun i =>
      [(List.range (ext.getD axis 1)).map fun k => items.getD (linOf ext (setAxis (posOf out i) axis k)) (false, 0)]

/-- Run one stage over the iteration space. -/
def runStage (v : ChainEnv) (c : Chain) (res : List StageRes) (w : Nat) : StageRes :=
  let op := stOp w
  if isReduction op then
    let gs := reduceGroups v.ext (stAxis w) (stageItems v c res w)
    { ext := reducedExt v.ext (stAxis w), full := false
      vals := gs.map (reduceRows op (stAxis w == 0 || stAxis w == 7))
      empties := gs.map fun g => !(g.flatten.any (·.1)), bits := [], oob := [] }
  else
    let ix := (List.range v.ps.length).zip v.ps
    if op == 0x40 || op == 0x43 then
      let r := ix.map fun x => if op == 0x40 then gatherAt v c res w x.1 x.2 else expandAt v c w x.2
      { ext := v.ext, full := true, vals := r.map (·.1), empties := [], bits := [], oob := r.map (·.2) }
    else if op == 0x42 then
      { ext := v.ext, full := true, vals := ix.map fun x => sourceAt v c res (stAxis w) (stA w) x.1 x.2
        empties := [], bits := [], oob := [] }
    else
      let a (x : Nat × List Nat) : W32 := sourceAt v c res (stAxis w) (stA w) x.1 x.2
      let b (x : Nat × List Nat) : W32 := sourceAt v c res (stAxis w) (stB w) x.1 x.2
      let d (x : Nat × List Nat) : W32 := sourceAt v c res (stAxis w) (stC w) x.1 x.2
      let withBit := op == 0x1C && 5 ≤ stMod w
      { ext := v.ext, full := true
        vals := ix.map fun x =>
          stageRound v.narrow (opVal op (stMod w) (a x) (if withBit then 0 else b x) (d x)
            (withBit && bitAt v (stB w - 1) x.2))
        empties := []
        bits := if op == 0x1A || op == 0x1B then ix.map fun x => branchBit (op == 0x1B) (a x) else []
        oob := [] }

/-- Run the stages in order. -/
def runStages (v : ChainEnv) (c : Chain) : List Nat → List StageRes → List StageRes
  | [], acc => acc
  | i :: is, acc => runStages v c is (acc ++ [runStage v c acc (c.stage i)])

/-! ### Summaries (R178) -/

/-- The summary of a reduction `w` over all axes with its items in linear order and its result. -/
def summaryFrom (w : Nat) (items : List Item) (result : W32) : List W32 :=
  let inc := (items.filter (·.1)).map (·.2)
  let best := argBest (stOp w) ((List.range items.length).zip items)
  let word0 := if isArg (stOp w) then
      (match best with | some b => b.2 | none => if stOp w == 0x36 then f32Inf true else f32Inf false)
    else result
  let exps := inc.filterMap fun x => (ofF32 x).exponent
  [word0, f32Nat inc.length, f32Nat (inc.countP isNonFinite), f32Nat (inc.countP isZero),
    if inc.isEmpty then f32One else posZero,
    if isArg (stOp w) then (match best with | some b => BitVec.ofNat 32 b.1 | none => 0xFFFFFFFF#32) else posZero,
    match exps with
    | [] => toF32 (.fin true 32768 0)
    | e :: es => let m := es.foldl max e; toF32 (.fin (decide (m < 0)) m.natAbs 0),
    posZero]

def summaryOf (v : ChainEnv) (c : Chain) (res : List StageRes) : List W32 :=
  match allAxes c with
  | [] => []
  | i :: _ =>
    let w := c.stage i
    summaryFrom w (stageItems v c (res.take i) w) ((res.getD i ⟨[], false, [], [], [], []⟩).vals.getD 0 0)

/-! ### What a chain writes (R172, R173, R187, R188, R257) -/

/-- Values chosen scales are formed from: the largest magnitude among finite values (R62, R64). -/
def amaxOf (l : List W32) : W32 := (l.filter fun x => !isNonFinite x).foldl (fun m x => fmax m (fabs x)) posZero

/-- The scale byte of a block (R62, R64). -/
def blockScaleByte (f : Fmt) (l : List W32) : Nat :=
  if l.any isNonFinite then 255 else (chooseExp f (ofF32 (amaxOf l)) + 127).toNat

/-- The scale byte of a channel, over its finite elements (R64). -/
def channelScaleByte (f : Fmt) (l : List W32) : Nat := (chooseExp f (ofF32 (amaxOf l)) + 127).toNat

/-- Distinct values in order of first appearance. -/
def distinct (l : List Nat) : List Nat := l.foldl (fun acc a => if acc.elem a then acc else acc ++ [a]) []

/-- A value to write: the strip pass it comes from (R189), its position in the output tensor, the value. -/
structure Put where
  strip : Nat
  pos : List Nat
  v : W32
  deriving DecidableEq, Repr

/-- Strips of `n` positions along axis 0, numbered in the order of positions (R154, R155). -/
def stripOf (n : Nat) (ext pos : List Nat) : Nat :=
  linOf (ext.drop 1) (pos.drop 1) * ceilDiv (ext.getD 0 1) n + pos.getD 0 0 / n

def stripCount (n : Nat) (ext : List Nat) : Nat := max 1 (ceilDiv (ext.getD 0 1) n * (ext.drop 1).foldl (· * ·) 1)

def ChainEnv.strip (v : ChainEnv) (pos : List Nat) : Nat := stripOf v.width v.ext pos
def ChainEnv.lastStrip (v : ChainEnv) : Nat := stripCount v.width v.ext - 1

/-- A write of a chain: the strip pass it comes from, the scale byte its element lies under (0 without scales), and the
write. -/
structure CWrite where
  strip : Nat
  key : Nat
  op : WOp
  deriving DecidableEq, Repr

def keyUnder (t : Tensor) (pos : List Nat) : Nat := if t.scaled then scaleAddrOf t pos else 0

/-- Write values under scales chosen by the chain (R187): each group's scale, then its elements. -/
def writeChosen (t : Tensor) (xs : List Put) : List CWrite :=
  (distinct (xs.map fun x => scaleAddrOf t x.pos)).flatMap fun k =>
    let g := xs.filter fun x => scaleAddrOf t x.pos == k
    let vals := g.map (·.v)
    let s := if t.blockScaled then blockScaleByte t.fmt vals else channelScaleByte t.fmt vals
    ⟨(g.head?.map (·.strip)).getD 0, k, .bytes k [BitVec.ofNat 8 s]⟩ ::
      g.flatMap fun x => (writeElem t x.pos (ofF32 x.v) (some s)).1.map fun o => ⟨x.strip, k, o⟩

/-- Write raw indices (R168, R184). -/
def writeRaw (t : Tensor) (xs : List Put) : List CWrite :=
  xs.map fun x => ⟨x.strip, 0, .put t.hslot (elemAddr t x.pos) 4 x.v.toNat { elems := 1 }⟩

/-- Write values with the scales already there (R188); a block of 32 lies within one strip. -/
def writePlain (v : ChainEnv) (t : Tensor) (xs : List Put) : List CWrite :=
  (distinct (xs.map (·.strip))).flatMap fun s =>
    let g := xs.filter fun x => x.strip == s
    (g.zip (writeEach v.set v.p t [] (g.map fun x => (x.pos, ofF32 x.v)))).flatMap fun x =>
      x.2.map fun o => ⟨s, keyUnder t x.1.pos, o⟩

/-- The branch bits of one row of positions as bytes (R257): the byte's address, the position of its first bit, its
value. -/
def bitRows (t : Tensor) (bs : List (List Nat × Bool)) : List (Nat × List Nat × Nat) :=
  let start (q : List Nat) : List Nat := (q.getD 0 0 / 8 * 8) :: q.drop 1
  (bs.map fun x => start x.1).eraseDups.map fun q =>
    let g := bs.filter fun x => start x.1 == q
    (elemAddr t ((q.getD 0 0 / 8) :: (clipPos t.ext q).drop 1), q,
      (g.map fun x => if x.2 then 2 ^ (x.1.getD 0 0 % 8) else 0).sum)

/-- OUT1 as branch bits (R257): a byte for each 8 positions of axis 0, an INT8 element stored without conversion (R183).
Where an axis of OUT1 has extent 1 several rows store to one byte, each in its turn; no rule says which is the last, so
the row that stores last is a free value (log entry 77). -/
def writeBits (v : ChainEnv) (t : Tensor) (bs : List (List Nat × Bool)) : List CWrite :=
  let rows := bitRows t bs
  let put (x : Nat × List Nat × Nat) : CWrite :=
    ⟨v.strip x.2.1, 0, .put t.hslot x.1 1 x.2.2 (storedTally (decode .int8 x.2.2))⟩
  (distinct (rows.map (·.1))).flatMap fun a =>
    let g := rows.filter fun x => x.1 == a
    if g.length ≤ 1 then g.map put
    else
      let k := Config.lastWriter v.p.free a % g.length
      (g.take k ++ g.drop (k + 1) ++ (g.drop k).take 1).map put

/-- What COMPRESS writes: packed active items, then fill (R173, R175); out-of-range items count in OOB. Without positions
nothing is written (R198). -/
def writeCompress (v : ChainEnv) (c : Chain) (t : Tensor) (vals : List W32) : List CWrite :=
  if v.ps.isEmpty then []
  else
    let ix := (v.ps.zip vals).filter fun x => active v c x.1
    let ranked := ix.map fun x => (x.1, rankOf v c x.1, x.2)
    let good := ranked.filter fun x => x.2.1 < t.e 1
    let kept := good.map fun x => Put.mk (v.strip x.1) (setAxis x.1 1 x.2.1) x.2.2
    let lost := ranked.length - good.length
    let outs := (List.range t.size).map fun i => posOf t.ext i
    let fills := (outs.filter fun q => !(kept.any fun k => k.pos == q)).map fun q => Put.mk v.lastStrip q t.fill
    writePlain v t (kept ++ fills) ++ if lost == 0 then [] else [⟨v.lastStrip, 0, .tally t.hslot { oob := lost }⟩]

/-- A position lies in the part of the command that runs (R194). -/
def inPart (v : ChainEnv) (pos : List Nat) : Bool := v.whole || (v.lo ≤ pos.getD 1 0 && pos.getD 1 0 < v.hi)

/-- A result of a reduction that this part forms alone: all of a whole chain's; of a part's those along axis 0 of its
rows, and none over all axes (R194). -/
def ownResult (v : ChainEnv) (axis : Nat) (r : StageRes) (i : Nat) : Bool :=
  v.whole || (axis != 7 && inPart v (posOf r.ext i))

/-- Positions and values of a stage's result that OUT0 or OUT1 receives (R172); the result of a reduction comes with
the last strip of its row, or of the whole space. In a chain with EXPAND, R174 lifts R172 for OUT0; the model lifts it
for OUT1 too (DESIGN CHOICE, log entry 71). -/
def resultPuts (v : ChainEnv) (c : Chain) (axis : Nat) (r : StageRes) : List Put :=
  if r.full then
    let every := hasOp c 0x43
    ((v.ps.zip r.vals).filter fun x => inPart v x.1 && (every || active v c x.1)).map fun x =>
      ⟨v.strip x.1, x.1, x.2⟩
  else
    ((List.range r.vals.length).filter (ownResult v axis r)).map fun i =>
      let q := posOf r.ext i
      ⟨if axis == 0 && v.ext.getD 0 1 != 0 then v.strip (q.set 0 (v.ext.getD 0 1 - 1)) else v.lastStrip, q,
        r.vals.getD i 0⟩

/-- The EMPTY mark of an output whose reduction had no item (R166, R198). -/
def emptyMark (v : ChainEnv) (t : Tensor) (axis : Nat) (r : StageRes) : List CWrite :=
  if (List.range r.empties.length).any fun i => r.empties.getD i false && ownResult v axis r i then
    [⟨v.lastStrip, 0, .tally t.hslot { empty := true }⟩]
  else []

/-- The writes of one output with the result of its stage (R153, R164, R168, R187). -/
def writeResult (v : ChainEnv) (c : Chain) (out stage : Nat) (choose : Bool) (r : StageRes) : List CWrite :=
  let w := c.stage stage
  let t := v.t out
  let xs := resultPuts v c (stAxis w) r
  (if isArg (stOp w) then writeRaw t xs
   else if choose then writeChosen t xs
   else writePlain v t xs) ++ emptyMark v t (stAxis w) r

/-- The writes of OUT0 (R153, R164, R168, R173, R187). -/
def writeOut0 (v : ChainEnv) (c : Chain) (res : List StageRes) : List CWrite :=
  if c.out0 == 0xFF then []
  else
    match res[c.nstage - 1]? with
    | none => []
    | some r =>
      if stOp (c.stage (c.nstage - 1)) == 0x42 then writeCompress v c (v.t c.out0) r.vals
      else writeResult v c c.out0 (c.nstage - 1) c.scaleSel r

/-- The writes of OUT1. -/
def writeOut1 (v : ChainEnv) (c : Chain) (res : List StageRes) : List CWrite :=
  if c.out1 == 0xFF then []
  else
    match res[c.out1Stage]? with
    | none => []
    | some r =>
      if c.branchBits then writeBits v (v.t c.out1) ((v.ps.zip r.bits).filter fun x => inPart v x.1)
      else writeResult v c c.out1 c.out1Stage false r

/-- Out-of-range indices at active positions (R175, R176). -/
def oobCount (v : ChainEnv) (c : Chain) (res : List StageRes) : Nat :=
  (res.map fun r => (v.ps.zip r.oob).countP fun x => x.2 && inPart v x.1 && active v c x.1).sum

/-- Items COMPRESS leaves out (R175). -/
def compressLost (v : ChainEnv) (c : Chain) : Nat :=
  if hasOp c 0x42 then v.ps.countP fun q => active v c q && (v.t c.out0).e 1 ≤ rankOf v c q else 0

/-- A row of a reduction over all axes: the stage, the number of the row, and its items (R165, R194). -/
abbrev RedRow := Nat × Nat × List Item

/-- The rows of this part for each reduction over all axes. -/
def redRows (v : ChainEnv) (c : Chain) (res : List StageRes) : List RedRow :=
  (allAxes c).flatMap fun i =>
    let rest := v.ext.drop 1
    let n := rest.foldl (· * ·) 1
    let rows := rowsOf (v.ext.getD 0 1) n (stageItems v c (res.take i) (c.stage i))
    ((List.range rows.length).filter fun k => inPart v (0 :: posOf rest k)).map fun k => (i, k, rows.getD k [])

/-- The outcome of a chain: its writes by strip, its summary, the rows that other parts' rows join, or INDEX_RANGE under
STRICT (R176). -/
structure ChainOut where
  ws : List (Nat × List WOp)
  summary : List W32
  rows : List RedRow
  range : Bool
  deriving DecidableEq, Repr

/-- The writes of each strip, in order. -/
def byStrip (n : Nat) (ws : List CWrite) : List (Nat × List WOp) :=
  ((List.range n).map fun s => (s, (ws.filter fun x => x.strip == s).map (·.op))).filter fun x => !x.2.isEmpty

def isElem : WOp → Bool
  | .put _ _ _ _ _ => true
  | .nib _ _ _ _ _ => true
  | _ => false

/-- The writes of a STRICT task that failed (R176): any subset of its elements, with the scale bytes that the written ones
lie under. -/
def strictWrites (keep : Nat → Bool) (ws : List CWrite) : List CWrite :=
  let ix := (List.range ws.length).zip ws
  let on (x : Nat × CWrite) : Bool := isElem x.2.op && keep x.1
  (ix.filter fun x => match x.2.op with
    | .bytes _ _ => ix.any fun y => on y && y.2.key == x.2.key
    | _ => on x).map (·.2)

/-- Run a chain. Under STRICT with an index out of range, only the writes that `keep` names happen, and no summary
(R176). A part of a command leaves its rows of a reduction over all axes for the end of the command (R194). -/
def runChain (v : ChainEnv) (c : Chain) (keep : Nat → Bool) : ChainOut :=
  let res := runStages v c c.used []
  let oob := oobCount v c res
  let ws := writeOut0 v c res ++ writeOut1 v c res
  let n := stripCount v.width v.ext
  if c.strict && 0 < oob + compressLost v c then
    { ws := byStrip n (strictWrites keep ws), summary := [], rows := [], range := true }
  else
    let extra := if oob == 0 || c.out0 == 0xFF then [] else [⟨n - 1, 0, .tally (v.t c.out0).hslot { oob := oob }⟩]
    { ws := byStrip n (ws ++ extra)
      summary := if c.summary == 0xFFFF || !v.whole then [] else summaryOf v c res
      rows := if v.whole then [] else redRows v c res, range := false }

/-- Items of a reduction over all axes, row by row in ascending order (R165). -/
def joinedRows (rows : List RedRow) (n i : Nat) : List (List Item) :=
  (List.range n).filterMap fun k => (rows.find? fun x => x.1 == i && x.2.1 == k).map (·.2.2)

/-- The end of a divided chain (R194): the results of its reductions over all axes, written once, and its summary. -/
def joinChain (v : ChainEnv) (c : Chain) (rows : List RedRow) : List WOp × List W32 :=
  let n := (v.ext.drop 1).foldl (· * ·) 1
  let res (i : Nat) : StageRes :=
    let g := joinedRows rows n i
    { ext := reducedExt v.ext 7, full := false, vals := [reduceRows (stOp (c.stage i)) true g]
      empties := [!(g.flatten.any (·.1))], bits := [], oob := [] }
  let out (o i : Nat) (choose : Bool) : List CWrite :=
    if o != 0xFF && (allAxes c).elem i then writeResult v c o i choose (res i) else []
  ((out c.out0 (c.nstage - 1) c.scaleSel ++ out c.out1 c.out1Stage false).map (·.op),
   match c.summary == 0xFFFF, allAxes c with
   | false, i :: _ => summaryFrom (c.stage i) (joinedRows rows n i).flatten ((res i).vals.getD 0 0)
   | _, _ => [])

/-- The environment of a chain over the iteration space of ITER: all of it, or the rows [lo, hi) of axis 1 (R194). -/
def chainEnv (set : Settings) (p : Pkg) (tn : List Tensor) (c : Chain) (whole : Bool) (lo hi : Nat) : ChainEnv :=
  let it := tn.getD c.iter noTensor
  { set, p, tn, ext := it.ext, ps := (List.range it.size).map (posOf it.ext), tile := []
    narrow := if c.narrow then some (tn.getD c.out0 it).fmt else none, lo, hi, whole }

/-- The environment of an epilogue on one tile: positions of C and the finished FP32 values (R148, R196). -/
def epilogueEnv (set : Settings) (p : Pkg) (tn : List Tensor) (ext : List Nat) (ps : List (List Nat))
    (tile : List W32) : ChainEnv :=
  { set, p, tn, ext, ps, tile, narrow := none, lo := 0, hi := ext.getD 1 1, whole := true }

/-- A VCHAIN that runs as one core task (R194). -/
def oneTask (c : Chain) : Bool :=
  c.used.any fun i =>
    let w := c.stage i
    stOp w == 0x42 || stOp w == 0x43 || (stOp w == 0x40 && stAxis w != 0) ||
      (isReduction (stOp w) && stAxis w != 0 && (stAxis w != 7 || consumed c i))

/-! ### Passes (R169, R187) -/

/-- Consumed reductions, in order. -/
def consumedStages (c : Chain) : List Nat := c.used.filter (consumed c)

/-- The passes over a strip: one for each consumed reduction and the last, which writes; twice as many when the scales of
channels are chosen first. -/
def chainPasses (c : Chain) (channels : Bool) : Nat :=
  ((consumedStages c).length + 1) * if channels then 2 else 1

/-- Strips before this one were written when a pass of `strip` fails (R191). A pass that writes has written the strip
itself. Before that, what stands before the domain of the reductions still to be passed is written: the row for AXIS 0,
the slice for AXIS 1 to 4, taken to begin at index 0 of its axis (DESIGN CHOICE, log entry 78), nothing for AXIS 7 or while
channel scales are sought. -/
def writtenBefore (c : Chain) (channels : Bool) (n : Nat) (ext : List Nat) (strip pass : Nat) : Nat :=
  let k := (consumedStages c).length + 1
  let last := chainPasses c channels - 1
  if last ≤ pass then strip + 1
  else if channels && pass < k then 0
  else
    let left := (consumedStages c).drop (pass % k)
    let per := ceilDiv (ext.getD 0 1) n
    let outer := posOf (ext.drop 1) (strip / max 1 per)
    let first (a : Nat) : Nat :=
      if a == 7 then 0
      else if a == 0 then strip / max 1 per * per
      else linOf (ext.drop 1) (outer.set (a - 1) 0) * per + strip % max 1 per
    left.foldl (fun m i => min m (first (stAxis (c.stage i)))) strip

end Sys2Proof.Machine
end

