-- ==== Sys2Proof/Machine/Matrix.lean ====
section
/-! DEFINITION. Matrix products: the body and its checks (R117 to R123, R129 to R131), blocks (R127, R135), the tiles of
a task with their FP32 sums (R66 to R74, R120, R126), the ledger (R138 to R144), what a tile writes (R67, R124, R148). -/

namespace Sys2Proof.Machine

/-! ### The body (R121, R129) -/

structure MatBody where
  a : Nat
  b : Nat
  c : Nat
  flags : Nat
  bm : Nat
  bn : Nat
  tau : Nat
  m0 : Nat
  mcount : Nat
  n0 : Nat
  ncount : Nat
  epi : Nat
  table : Nat
  gcount : Nat
  deriving DecidableEq, Repr

def parseMat (grouped : Bool) (b : List Byte) : MatBody :=
  { a := le b 0 1, b := le b 1 1, c := le b 2 1, flags := le b 3 1, bm := le b 4 1, bn := le b 5 1, tau := le b 6 1
    m0 := if grouped then 0 else le b 8 4, mcount := if grouped then 0 else le b 12 4
    n0 := if grouped then 0 else le b 16 4, ncount := if grouped then 0 else le b 20 4
    epi := le b 24 8, table := if grouped then le b 8 8 else 0, gcount := if grouped then le b 16 2 else 0 }

def MatBody.acc (m : MatBody) : Bool := bit m.flags 3
def MatBody.cT (m : MatBody) : Bool := bit m.flags 2
def MatBody.bT (m : MatBody) : Bool := bit m.flags 1
def MatBody.aT (m : MatBody) : Bool := bit m.flags 0

/-- A body that R78 and R123 refuse without a tensor descriptor, an epilogue body or a group table. -/
def matBodyBad (grouped : Bool) (tdescs : Nat) (b : List Byte) : Bool :=
  let m := parseMat grouped b
  tdescs ≤ m.a || tdescs ≤ m.b || tdescs ≤ m.c || 16 ≤ m.flags || 8 < m.bm || 8 < m.bn ||
    !(m.tau == 0 || (12 ≤ m.tau && m.tau ≤ 20)) || !zeros b 7 1 || !zeros b 32 32 ||
    2 ^ 48 ≤ m.epi || m.epi % 64 != 0 || (m.epi != 0 && m.acc) || m.m0 % 64 != 0 || m.n0 % 64 != 0 ||
    (grouped && (2 ^ 48 ≤ m.table || m.table % 64 != 0 || m.gcount == 0 || 4096 < m.gcount || !zeros b 18 6))

/-! ### Shapes (R117, R118, R131) -/

/-- The extents of one product: M, N, K and the batch extents of C. -/
structure MatShape where
  m : Nat
  n : Nat
  k : Nat
  batch : List Nat
  deriving DecidableEq, Repr

def shapeOf (m : MatBody) (a _b c : Tensor) : MatShape :=
  { m := if m.cT then c.e 0 else c.e 1, n := if m.cT then c.e 1 else c.e 0, k := if m.aT then a.e 1 else a.e 0
    batch := [c.e 2, c.e 3, c.e 4] }

def batches (s : MatShape) : Nat := s.batch.foldl (· * ·) 1

/-- A tensor with its place and the logical extents x and y on axes 0 and 1 when its flag is set, y and x when not
(R117). -/
def withLogical (t : Tensor) (flag : Bool) (x y addr scale : Nat) : Tensor :=
  { t with addr, scaleAddr := scale, ext := (if flag then [x, y] else [y, x]) ++ t.ext.drop 2 }

/-- The operands of a grouped product, each a tensor of its own behind the task's descriptors, so that A and B may come
from one descriptor (R130): A at index `tCount`, B at the next one. -/
def operandsApart (m : MatBody) (n : Nat) : MatBody := { m with a := n, b := n + 1 }

/-- The tensors of group g under its table entry (R130, R131): the task's own, then A and B. Where an epilogue reads a
descriptor that carries two of the group's addresses, it finds the last of A, B and C there (DESIGN CHOICE, log entry
72). -/
def groupTensors (m : MatBody) (tn : List Tensor) (e : List Byte) : List Tensor :=
  let mm := le e 32 4
  let nn := le e 36 4
  let kk := le e 40 4
  let a := withLogical (tn.getD m.a noTensor) m.aT mm kk (le e 0 6) (le e 6 6)
  let b := withLogical (tn.getD m.b noTensor) m.bT nn kk (le e 12 6) (le e 18 6)
  let c := withLogical (tn.getD m.c noTensor) m.cT mm nn (le e 24 6) (tn.getD m.c noTensor).scaleAddr
  ((tn.set m.a a).set m.b b).set m.c c ++ [a, b]

/-- An entry with a reserved field that is not 0, or a scale for an unscaled operand (R130, R131). -/
def groupEntryBad (m : MatBody) (tn : List Tensor) (e : List Byte) : Bool :=
  !zeros e 30 2 || !zeros e 44 20 ||
    (!(tn.getD m.a noTensor).scaled && le e 6 6 != 0) || (!(tn.getD m.b noTensor).scaled && le e 18 6 != 0)

/-- R65. -/
def pairOk (a b : Nat) : Bool :=
  (a == 2 && b == 2) || (a == 3 && b == 3) || ((a == 4 || a == 5) && (b == 4 || b == 5)) || (a == 6 && b == 6) ||
    (a == 7 && b == 7)

/-- R119: an orientation flag, and scales that do not go together. -/
def scalesBad (m : MatBody) (a b : Tensor) : Bool :=
  (a.scaled && m.aT) || (b.scaled && m.bT) || (a.channelScaled && b.blockScaled) || (b.channelScaled && a.blockScaled)

/-- R118. -/
def batchBad (t c : Tensor) : Bool := (List.range 3).any fun i => t.e (i + 2) != c.e (i + 2) && t.e (i + 2) != 1

/-- Rows [M0, …) and columns [N0, …) of the task (R121). -/
def rangeOf (m : MatBody) (s : MatShape) : Nat × Nat × Nat × Nat :=
  (m.m0, if m.mcount == 0 then s.m - m.m0 else m.mcount, m.n0, if m.ncount == 0 then s.n - m.n0 else m.ncount)

/-- The epilogue's rules on one tile (R149, R196) beside those of every chain. -/
def epilogueBad (m : MatBody) (tn : Nat → Tensor) (tdescs : Nat) (j1 : Bool) (body : List Byte) : Bool :=
  let c := parseChain body
  chainBad c tdescs true j1 || c.out0 != m.c || (tn m.c).channelScaled ||
    (c.scaleSel && !(tn m.c).blockScaled) || chainTensorsBad c tn (tn m.c).ext true ||
    (c.out1 != 0xFF && (shareByte (tn c.out1) (tn m.a) || shareByte (tn c.out1) (tn m.b)))

/-- What R123 refuses of one product once its tensors are known. -/
def matTensorsBad (m : MatBody) (tn : Nat → Tensor) (tdescs : Nat) (j1 : Bool) (epi : Option (List Byte)) : Bool :=
  let a := tn m.a
  let b := tn m.b
  let c := tn m.c
  let s := shapeOf m a b c
  let (m0, mc, n0, nc) := rangeOf m s
  !pairOk a.code b.code || scalesBad m a b || (if m.bT then b.e 1 else b.e 0) != s.k ||
    (if m.aT then a.e 0 else a.e 1) != s.m || (if m.bT then b.e 0 else b.e 1) != s.n || batchBad a c || batchBad b c ||
    shareByte c a || shareByte c b || s.m < m0 + mc || s.n < n0 + nc ||
    match epi with
    | none => c.code == 1 || c.scaled
    | some e => epilogueBad m tn tdescs j1 e

/-! ### Blocks (R127, R135) -/

/-- Local store that a block of BM × BN tiles needs (R127), in bytes. -/
def blockBytes (a b : Tensor) (epi : Bool) (bm bn : Nat) : Nat :=
  let half := if a.code == 7 then 1 else 2 * a.s 0
  16384 * bm * bn + (bm + bn) * 4096 * half +
    (if a.blockScaled || b.blockScaled then 2 * (bm + bn) * 128 else 0) + if epi then 32768 else 0

/-- The share of local store of a context (R99). -/
def storeShare (filler j1 : Bool) : Nat := if j1 then 524288 else if filler then 1572864 else 2097152

def blockFits (share : Nat) (a b : Tensor) (epi : Bool) (bm bn : Nat) : Bool := blockBytes a b epi bm bn ≤ share

/-- The block of a task of a graph (R127): BM × BN. -/
def taskBlock (share : Nat) (m : MatBody) (a b : Tensor) (tm tn : Nat) : Nat × Nat :=
  let big := (([8, 7, 6, 5, 4, 3, 2, 1].find? fun x => blockFits share a b (m.epi != 0) x x)).getD 1
  (if m.bm == 0 then min big tm else m.bm, if m.bn == 0 then min big tn else m.bn)

/-- Blocks of b × b tiles of an output range, over every batch index (R135). -/
def blocksAt (x tm tn nb : Nat) : Nat := ceilDiv tm x * ceilDiv tn x * nb

/-- The block of a MATMUL or GROUPED_MATMUL (R135); `ranges` holds the tiles along M and N and the batch indices of
each group, `groves` the groves that are not fenced. -/
def commandBlock (share : Nat) (m : MatBody) (a b : Tensor) (ranges : List (Nat × Nat × Nat)) (groves : Nat) : Nat :=
  (([8, 7, 6, 5, 4, 3, 2, 1].find? fun x => blockFits share a b (m.epi != 0) x x &&
    32 * groves ≤ (ranges.map fun r => blocksAt x r.1 r.2.1 r.2.2).sum)).getD 1

/-- The parts of a command's output (R135), for each group and batch index: the whole rectangles of 4 block rows by 8
block columns, each of which the cores of one grove take in turn, and the blocks that lie in none. -/
def commandParts (m : MatBody) (big : Nat) (g : Nat) (s : MatShape) : List Part × List Part :=
  let (m0, mc, n0, nc) := rangeOf m s
  let tm := ceilDiv mc 64
  let tn := ceilDiv nc 64
  let bm := 64 * (if m.bm == 0 then min big (max 1 tm) else m.bm)
  let bn := 64 * (if m.bn == 0 then min big (max 1 tn) else m.bn)
  let rows := ceilDiv mc bm
  let cols := ceilDiv nc bn
  let block (be i j : Nat) : Part :=
    .block g be (m0 + i * bm) (min bm (mc - i * bm)) (n0 + j * bn) (min bn (nc - j * bn))
  if s.m == 0 || s.n == 0 then ([], [])
  else
    ((List.range (batches s)).flatMap fun be => (List.range (rows / 4)).flatMap fun x =>
        (List.range (cols / 8)).flatMap fun y => (List.range 4).flatMap fun i => (List.range 8).map fun j =>
          block be (4 * x + i) (8 * y + j),
     (List.range (batches s)).flatMap fun be => (List.range rows).flatMap fun i =>
        ((List.range cols).filter fun j => rows / 4 ≤ i / 4 || cols / 8 ≤ j / 8).map fun j => block be i j)

/-! ### The product (R66 to R74) -/

/-- The value of an element as it enters a product: under its block scale, not under a channel scale (R66, R67). -/
def factor (set : Settings) (p : Pkg) (t : Tensor) (pos : List Nat) : Val :=
  if t.blockScaled then elemVal set p t pos else decode t.fmt (elemBits set p t pos)

/-- A batch index on an operand (R118). -/
def batchOn (t : Tensor) (be : List Nat) : List Nat :=
  (List.range 3).map fun i => if t.e (i + 2) == 1 then 0 else be.getD i 0

def posA (m : MatBody) (a : Tensor) (i k : Nat) (be : List Nat) : List Nat :=
  (if m.aT then [i, k] else [k, i]) ++ batchOn a be
def posB (m : MatBody) (b : Tensor) (k j : Nat) (be : List Nat) : List Nat :=
  (if m.bT then [j, k] else [k, j]) ++ batchOn b be
def posC (m : MatBody) (i j : Nat) (be : List Nat) : List Nat := (if m.cT then [i, j] else [j, i]) ++ be

/-- Terms added over k in the chunks of R68, the tree of R69 and the order of R70. -/
def accumulate (start : Option W32) (terms : List W32) : W32 :=
  match start, (strips terms.length terms).map (tree64 fadd posZero) with
  | none, [] => posZero
  | none, c :: cs => cs.foldl fadd c
  | some z, cs => cs.foldl fadd z

/-- The six-level tree over exact values, each addition rounded once (R69, R138); `n` levels. -/
def valTree : Nat → List Val → Val
  | 0, l => l.headD (.fin true 0 0)
  | n + 1, l => ofF32 (toF32 ((valTree n (l.take (2 ^ n))).add (valTree n (l.drop (2 ^ n)))))

/-- The tree of R69 over up to 64 rows or columns, −0.0 in the place of those outside the range (R138). -/
def edgeSum (l : List Val) : Val := valTree 6 (l ++ List.replicate (64 - l.length) (.fin true 0 0))

/-! ### Tiles (R120, R126, R138, R142) -/

/-- Rows or columns of one tile that lie in the range [lo, lo + n). -/
def tileLines (t lo n : Nat) : List Nat :=
  ((List.range 64).map fun i => 64 * t + i).filter fun i => lo ≤ i && i < lo + n

/-- Tiles of a range in the order of R126: batch indices, block rows, blocks along N, tiles row by row. -/
def tileOrder (nb m0 mc n0 nc bm bn : Nat) : List (Nat × Nat × Nat) :=
  let tm := ceilDiv mc 64
  let tn := ceilDiv nc 64
  (List.range nb).flatMap fun be => (List.range (ceilDiv tm (max 1 bm))).flatMap fun i =>
    (List.range (ceilDiv tn (max 1 bn))).flatMap fun j =>
      (List.range (min bm (tm - i * bm))).flatMap fun x => (List.range (min bn (tn - j * bn))).map fun y =>
        (be, m0 / 64 + i * bm + x, n0 / 64 + j * bn + y)

/-- The tile's number over the full output, groups before it counted in `base` (R142). -/
def tileNumber (s : MatShape) (base be tm tn : Nat) : Nat := base + (be * ceilDiv s.m 64 + tm) * ceilDiv s.n 64 + tn

/-- Tile `t` is checked (R142). -/
def checkedTile (c1 : Bool) (stepNo x t : Nat) : Bool := !c1 || (t + (5 * stepNo + x) % 8) % 8 == 0

/-- The tile's FP32 sums, and the ledger's values when it is checked (R138). -/
def makeTile (set : Settings) (p : Pkg) (m : MatBody) (tn : List Tensor) (g ord : Nat) (checked : Bool)
    (be : List Nat) (rows cols : List Nat) (k : Nat) : Tile :=
  let a := tn.getD m.a noTensor
  let b := tn.getD m.b noTensor
  let c := tn.getD m.c noTensor
  let ks := List.range k
  let av := rows.map fun i => ks.map fun q => factor set p a (posA m a i q be)
  let bv := cols.map fun j => ks.map fun q => factor set p b (posB m b q j be)
  let c0 := rows.map fun i => cols.map fun j => elemF32 set p c (posC m i j be)
  let start (i j : Nat) : Option W32 := if m.acc then some ((c0.getD i []).getD j 0) else none
  let nr := List.range rows.length
  let nc := List.range cols.length
  let sums := nr.map fun i => nc.map fun j =>
    accumulate (start i j) (((av.getD i []).zip (bv.getD j [])).map fun x => toF32 (x.1.mul x.2))
  let line (f : Val → Val) (lines : List (List Val)) (q : Nat) : Val := edgeSum (lines.map fun l => f (l.getD q .nan))
  let init (f : Val → Val) (l : List W32) : Option W32 :=
    if m.acc then some (toF32 (edgeSum (l.map fun w => f (ofF32 w)))) else none
  let rowL (f : Val → Val) : List W32 :=
    let e := ks.map fun q => line f av q
    nc.map fun j => accumulate (init f (c0.map fun r => r.getD j 0))
      ((e.zip (bv.getD j [])).map fun x => toF32 (x.1.mul (f x.2)))
  let colL (f : Val → Val) : List W32 :=
    let e := ks.map fun q => line f bv q
    nr.map fun i => accumulate (init f (c0.getD i []))
      (((av.getD i []).zip e).map fun x => toF32 ((f x.1).mul x.2))
  { ord, checked, group := g, batch := be, rows, cols, sums, kLen := k
    lr := if checked then rowL id else [], lc := if checked then colL id else []
    lamR := if checked then rowL Val.abs else [], lamC := if checked then colL Val.abs else [] }

/-- A comparison of R139: passed, failed, or not evaluated (R144). -/
inductive Verdict where
  | pass | fail | skip
  deriving DecidableEq, Repr

/-- F of R140 as an exact value. -/
def ledgerF (k : Nat) : Val := .fin false (2 * ceilDiv k 64 + 32) (-24)

/-- τe (R140) for τ = 2^−tau. -/
def tolerance (tau k : Nat) : Val :=
  let t : Val := .fin false 1 (-(tau : Int))
  if t.lt (ledgerF k) then ledgerF k else t

/-- |ℓ − σ| > τe · λ (R139, R144). The difference and the product are compared as exact values: R138 rounds the values
that are formed, and R139 names no rounding of the comparison (DESIGN CHOICE, log entry 71). -/
def compareLedger (te : Val) (l s lam : W32) : Verdict :=
  if isNonFinite l || isNonFinite s || isNonFinite lam then .skip
  else if (te.mul (ofF32 lam)).lt ((ofF32 l).add (ofF32 s).neg).abs then .fail else .pass

/-- The sums as faults of the array left them, and the ledger's values likewise (operands of the command). -/
def faultTile (t : Tile) (fs : List TileFault) : Tile :=
  fs.foldl (fun t f => match f with
    | .cell i j v => { t with sums := modAt t.sums i fun r => r.set j v }
    | .ledger true k v => { t with lr := t.lr.set k v }
    | .ledger false k v => { t with lc := t.lc.set k v }) t

/-- σ over the rows of a column and over the columns of a row (R138). -/
def sigmaCol (t : Tile) (j : Nat) : W32 := toF32 (edgeSum (t.sums.map fun r => ofF32 (r.getD j 0)))
def sigmaRow (t : Tile) (i : Nat) : W32 := toF32 (edgeSum ((t.sums.getD i []).map ofF32))

/-- The comparisons of a tile: those of its columns (row ledger), then those of its rows (column ledger). -/
def rowVerdicts (t : Tile) (te : Val) : List Verdict :=
  (List.range t.cols.length).map fun j => compareLedger te (t.lr.getD j 0) (sigmaCol t j) (t.lamR.getD j 0)
def colVerdicts (t : Tile) (te : Val) : List Verdict :=
  (List.range t.rows.length).map fun i => compareLedger te (t.lc.getD i 0) (sigmaRow t i) (t.lamC.getD i 0)

/-- What a failed tile logs (R145): the row, the column, ℓ, σ, λ. -/
def failItems (t : Tile) (te : Val) : Nat × Nat × W32 × W32 × W32 :=
  let rv := rowVerdicts t te
  let cv := colVerdicts t te
  let j := rv.findIdx fun v => v == .fail
  let i := cv.findIdx fun v => v == .fail
  let row := if cv.elem .fail then t.rows.getD i 0xFFFF else 0xFFFF
  let col := if rv.elem .fail then t.cols.getD j 0xFFFF else 0xFFFF
  if rv.elem .fail then (row, col, t.lr.getD j 0, sigmaCol t j, t.lamR.getD j 0)
  else (row, col, t.lc.getD i 0, sigmaRow t i, t.lamC.getD i 0)

/-! ### What a tile writes (R67, R120, R124, R148) -/

/-- The channel scale of an operand at a row or column (R67); `some 0` without one. -/
def channelExp (set : Settings) (p : Pkg) (t : Tensor) (i : Nat) : Option Int :=
  if t.channelScaled then scaleExp (readByte set p (t.scaleAddr + i)).toNat else some 0

/-- The finished sum of one element: the channel scales applied once (R67); under K = 0 nothing is applied (R120). -/
def finished (set : Settings) (p : Pkg) (m : MatBody) (tn : List Tensor) (k i j : Nat) (v : W32) : W32 :=
  let a := tn.getD m.a noTensor
  let b := tn.getD m.b noTensor
  if (!a.channelScaled && !b.channelScaled) || k == 0 then v
  else
    match channelExp set p a i, channelExp set p b j with
    | some x, some y => fscale v (x + y)
    | _, _ => f32NaN

/-- The valid cells of a tile in the order of C's axis 0: (position of C, index of the row, index of the column). -/
def tileCells (m : MatBody) (t : Tile) : List (List Nat × Nat × Nat) :=
  let nr := List.range t.rows.length
  let nc := List.range t.cols.length
  let cell (i j : Nat) := (posC m (t.rows.getD i 0) (t.cols.getD j 0) t.batch, i, j)
  if m.cT then nc.flatMap fun j => nr.map fun i => cell i j else nr.flatMap fun i => nc.map fun j => cell i j

/-- The write of one element of C under R124. Under K = 0 with ACC an element whose sum is its own value is written back
unchanged (R120), counted by what it holds. -/
def tileElem (set : Settings) (p : Pkg) (m : MatBody) (c : Tensor) (k : Nat) (pos : List Nat) (v : W32) : List WOp :=
  let b := elemBits set p c pos
  if k == 0 && m.acc && v == elemF32 set p c pos then [putElem c pos b (storedTally (decodeScaled c.fmt b none))]
  else (writeElem c pos (ofF32 v) none).1

/-- The writes of a finished tile: strips numbered from 64 times the tile's place in the task. A tile of a product with
K = 0 and ACC = 0 is written as +0.0 and is not handed to the epilogue, so it leaves OUT1 as it is: R120 and R148 do not
say which goes first (DESIGN CHOICE, log entry 71). -/
def tileWork (set : Settings) (p : Pkg) (m : MatBody) (tn : List Tensor) (epi : Option (List Byte)) (t : Tile) :
    List Work :=
  let c := tn.getD m.c noTensor
  let cells := tileCells m t
  let vals := cells.map fun x =>
    finished set p m tn t.kLen (t.rows.getD x.2.1 0) (t.cols.getD x.2.2 0) ((t.sums.getD x.2.1 []).getD x.2.2 0)
  match epi with
  | none =>
    [.strip (64 * t.ord) ((cells.zip vals).flatMap fun x => tileElem set p m c t.kLen x.1.1 x.2)]
  | some e =>
    if t.kLen == 0 && !m.acc then
      [.strip (64 * t.ord) (writeElems set p c (cells.map fun x => (x.1, ofF32 posZero)))]
    else
      let out := runChain (epilogueEnv set p tn c.ext (cells.map (·.1)) vals) (parseChain e) fun _ => true
      ((List.range out.ws.length).zip out.ws).map fun x => .strip (64 * t.ord + x.1) x.2.2

/-! ### Rates (R125, R137) -/

/-- Cycles per chunk of one tile (R125). -/
def chunkCycles (code : Nat) (checked : Bool) : Nat :=
  let u := if code == 2 || code == 3 then 128 else if code == 7 then 32 else 64
  if checked then u + u / 32 else u

end Sys2Proof.Machine
end

