-- ==== Sys2Proof/Machine/Units.lean ====
section
/-! DEFINITION. Operations that several engines share: the failure mask of the step (R201, R211), retraction (R332,
R333), headers of stage-link and collective messages (R277, R325), which versions are live (R265), the regions tasks
may address and the view windows (R262, R275, R360 to R362). -/

namespace Sys2Proof.Machine

/-! ### The step -/

def modStep (f : Step → Step) (p : Pkg) : Pkg := { p with step := f p.step }

def stepCode : StepState → Nat
  | .none => 0 | .opened => 1 | .sealing => 2 | .sealed => 3 | .committing => 4 | .committed => 5 | .aborted => 6

/-- The step is OPEN, SEALING, SEALED or COMMITTING. -/
def stepBusy (p : Pkg) : Bool :=
  p.step.state == .opened || p.step.state == .sealing || p.step.state == .sealed || p.step.state == .committing

/-- The step is SEALING, SEALED or COMMITTING, and no J0 work may be launched (R210); an abort that runs holds it too
(R235). -/
def stepShut (p : Pkg) : Bool :=
  p.step.state == .sealing || p.step.state == .sealed || p.step.state == .committing || p.step.aborting

/-- The step is OPEN or SEALING. -/
def stepLive (p : Pkg) : Bool := p.step.state == .opened || p.step.state == .sealing

/-- The step whose work a J0 launch joins (R210). -/
def openStep (p : Pkg) : Option Nat := if p.step.state == .opened then some p.step.num else none

/-- PKG_STEP_STATE.STATE changes, which fires source 328 (R457). -/
def setStepState (st : StepState) (p : Pkg) : Pkg :=
  if p.step.state == st then p else raise 328 (modStep (fun s => { s with state := st }) p)

/-- A check of the step fails (R211): its bit is set with the fabric time; the earliest failure is kept, a tie going to
the lower bit (R214). A step that is SEALING aborts (R214). -/
def failStep (b status : Nat) (p : Pkg) : Pkg :=
  modStep (fun s => { s with
    failMask := setBit s.failMask b
    first := match s.first with
      | none => some (now p, b, status)
      | some (t, c, st) => if t == now p && b < c then some (now p, b, status) else some (t, c, st)
    abortDue := s.abortDue || s.state == .sealing }) p

/-- Bit `b` is set when the step is OPEN or SEALING. -/
def failLive (b status : Nat) (p : Pkg) : Pkg := if stepLive p then failStep b status p else p

/-- A failure reaches the update of a step that is COMMITTING: the first one tears the commit (R233). -/
def tearCommit (status : Nat) (p : Pkg) : Pkg :=
  if p.step.state == .committing then modStep (fun s => { s with tear := s.tear.or (some status) }) p else p

/-- The step record's count of comparisons not evaluated (R144, R330). -/
def countUnchecked (n : Nat) (p : Pkg) : Pkg := modStep (fun s => { s with unchecked := countAdd s.unchecked n }) p

/-! ### Message headers -/

/-- The 32 bytes of R277. -/
def stageHead (h : StageHdr) : List Byte :=
  leBytes 1 h.kind ++ leBytes 1 h.depth ++ leBytes 2 h.dstStage ++ leBytes 2 h.srcStage ++ leBytes 2 h.gen ++
    leBytes 8 h.step ++ leBytes 2 h.mb ++ leBytes 2 h.epoch ++ leBytes 4 h.length ++ List.replicate 8 0

/-- Header bytes 0 to 55 of R325. -/
def collHead (h : CollHdr) : List Byte :=
  leBytes 1 h.kind ++ leBytes 1 h.type ++ leBytes 1 h.group ++ leBytes 1 h.flags ++ leBytes 4 h.rid ++
    leBytes 8 h.step ++ leBytes 2 h.gen ++ leBytes 2 h.epoch ++ leBytes 2 h.version ++ leBytes 2 h.srcPos ++
    leBytes 2 h.chunk ++ leBytes 1 h.enc ++ [0] ++ leBytes 4 h.piece ++ leBytes 4 h.length ++ leBytes 4 h.cs.toNat ++
    leBytes 4 h.cl.toNat ++ leBytes 4 h.gsq.toNat ++ leBytes 2 h.count ++ List.replicate 6 0

/-- DIGEST of a collective message (R327). -/
def collDigest (h : CollHdr) (payload : List Byte) : Nat := crc64 (collHead h ++ payload)

/-- A whole collective message. -/
def collBytes (h : CollHdr) (payload : List Byte) : List Byte := collHead h ++ leBytes 8 (collDigest h payload) ++ payload

/-- Bytes 0 to 55 of a reshard header (R352). -/
def reshardHead (h : ReshardHdr) : List Byte :=
  leBytes 1 h.kind ++ leBytes 1 h.array ++ leBytes 2 h.newEpoch ++ leBytes 2 h.dstLayer ++ [0, 0] ++ leBytes 8 h.offset ++
    leBytes 4 h.length ++ leBytes 4 h.srcPkg ++ leBytes 1 h.format ++ List.replicate 31 0

def reshardBytes (h : ReshardHdr) (payload : List Byte) : List Byte :=
  reshardHead h ++ leBytes 8 (crc64 (reshardHead h ++ payload)) ++ payload

/-! ### Groups and retraction (R332, R333) -/

def groupOf (p : Pkg) (g : Nat) : CollGroup := p.colls.groups.getD g {}

def modGroup (g : Nat) (f : CollGroup → CollGroup) (p : Pkg) : Pkg :=
  { p with colls.groups := modAt p.colls.groups g f }

/-- The package address of the member at a ring position. -/
def memberAt (c : CollGroup) (pos : Nat) : Nat := c.members.getD pos 0xFFFFFFFF

/-- Send a collective message to the member at a position. -/
def sendColl (g pos : Nat) (h : CollHdr) (payload : List Byte) (p : Pkg) : Pkg :=
  sendMessage (4 + g) (memberAt (groupOf p g) pos) (collBytes h payload) p

/-- The header of a RETRACT (R333). -/
def retractHdr (p : Pkg) (g rid type : Nat) : CollHdr :=
  let c := groupOf p g
  { kind := 3, type, group := g, flags := 0, rid, step := p.step.num, gen := c.gen, epoch := p.reshard.epoch, version := 0
    srcPos := c.pos, chunk := 0, enc := 0, piece := 0, length := 0, cs := 0, cl := 0, gsq := 0, count := 0 }

/-- One RETRACT leaves for the successor, which is nobody in a group of one (R333). -/
def sendRetract (g rid type : Nat) (p : Pkg) : Pkg :=
  let c := groupOf p g
  let p := modGroup g (fun c => { c with sent := satAdd 0xFFFF c.sent 1 }) p
  if c.n ≤ 1 then p else sendColl g ((c.pos + 1) % c.n) (retractHdr p g rid type) [] p

/-- Collectives of the step in course that have sent data and are not retracted: (group, RID, TYPE). -/
def toRetract (p : Pkg) : List (Nat × Nat × Nat) :=
  ((p.colls.past.filter fun c => c.sentData && !c.retracted).map fun c => (c.group, c.rid, c.type)) ++
    ((p.colls.running.filter fun c => c.step == some p.step.num && c.sentData && !c.retracted).map fun c =>
      (c.group, c.rid, c.type))

/-- Mark a collective of the step as retracted: at most once in a step (R333). -/
def markRetracted (g rid : Nat) (p : Pkg) : Pkg :=
  { p with
    colls.past := p.colls.past.map fun c => if c.group == g && c.rid == rid then { c with retracted := true } else c
    colls.running := p.colls.running.map fun c =>
      if c.group == g && c.rid == rid && c.step == some p.step.num then { c with retracted := true } else c }

/-- Retract every collective of the step that has sent data (R332). -/
def retractStep (p : Pkg) : Pkg :=
  (toRetract p).foldl (fun q x => sendRetract x.1 x.2.1 x.2.2 (markRetracted x.1 x.2.1 q)) p

/-! ### Versions (R262 to R269) -/

def ringOf (p : Pkg) (r : Nat) : Option Ring := p.rings.rings.find? fun x => x.id == r

/-- Commits that version `v` lies behind the newest (R269). -/
def behind (p : Pkg) (v : Nat) : Nat := (p.rings.version + 65536 - v % 65536) % 65536

/-- A running task holds version `v` of ring `r`. -/
def heldByTask (p : Pkg) (r v : Nat) : Bool := p.tasks.runs.any fun t => t.holds.elem (r, v)

def stamped (p : Pkg) (v : Nat) : Bool := p.rings.stamps.any fun s => s.version == v

/-- A version is live (R265). -/
def versionLive (p : Pkg) (r : Ring) (v : Version) : Bool :=
  v.num == p.rings.version || behind p v.num ≤ r.retain || heldByTask p r.id v.num || stamped p v.num

/-- Versions that are no longer live retire (R265). -/
def pruneRings (p : Pkg) : Pkg :=
  { p with rings.rings := p.rings.rings.map fun r => { r with versions := r.versions.filter (versionLive p r) } }

/-- The version of a number that has not retired (R269). -/
def liveVersion (r : Ring) (v : Nat) : Option Version := r.versions.find? fun x => x.num == v

/-- The stamp of a micro-batch, once its segment is released (R266). -/
def dropStamp (stage mb : Nat) (p : Pkg) : Pkg :=
  pruneRings { p with rings.stamps := p.rings.stamps.filter fun s => !(s.stage == stage && s.mb == mb) }

/-! ### Regions (R89, R361, R362) -/

/-- A byte range lies where a task of the context may address (R362). -/
def mayAddress (p : Pkg) (j1 : Bool) (a n : Nat) : Bool :=
  if j1 then p.mem.j1Size != 0 && p.mem.j1Base ≤ a && a + n + 0x10000000 ≤ p.mem.j1Base + p.mem.j1Size
  else inStack a n && !overlaps a n p.mem.j1Base p.mem.j1Size

/-- A range of bytes lies in the stack region and apart from the J1 partition: the memory of a structure that a J0
engine uses. -/
def freeOfJ1 (p : Pkg) (a n : Nat) : Bool := inStack a n && !overlaps a n p.mem.j1Base p.mem.j1Size

/-- Where an address lies (R358, R360): the stack region, the aperture of a ring or of a queue (2n + q), or nowhere. -/
inductive Area where
  | stack
  | ring (r off : Nat)
  | queue (i off : Nat)
  | nowhere
  deriving DecidableEq, Repr

def ringAperture : Nat := 0x400000000000
def queueAperture : Nat := 0x800000000000

def areaOf (a : Nat) : Area :=
  if a < regionSize then .stack
  else if ringAperture ≤ a && a < ringAperture + 1024 * 0x1000000000 then
    .ring ((a - ringAperture) / 0x1000000000) ((a - ringAperture) % 0x1000000000)
  else if queueAperture ≤ a && a < queueAperture + 16 * 0x40000000 then
    .queue ((a - queueAperture) / 0x40000000) ((a - queueAperture) % 0x40000000)
  else .nowhere

/-- A range of bytes touches a view window's aperture. -/
def touchesWindow (t : Tensor) : Bool :=
  (tensorRanges t).any fun r => match areaOf r.1, areaOf (r.1 + r.2 - 1) with
    | .stack, .stack => false
    | .nowhere, .nowhere => false
    | _, _ => true

/-- Bytes of the packed elements of a tensor. -/
def packedBytes (t : Tensor) : Nat := if t.code == 7 then ceilDiv t.size 2 else t.size * t.s 0

/-- The packed bytes of the elements of a ring's version, and its scale bytes (R360). -/
def ringBytes (r : Ring) : Nat := r.count * (formatFmt r.format).stride0
def ringScales (r : Ring) : Nat := if formatScale r.format == 1 then r.count / 32 else 0

/-- A range of bytes lies in [lo, lo + n). -/
def rowIn (r : Nat × Nat) (lo n : Nat) : Bool := lo ≤ r.1 && r.1 + r.2 ≤ lo + n

/-- Every range of a tensor's elements lies in [lo, lo + n). -/
def rowsWithin (t : Tensor) (lo n : Nat) : Bool := (rowRanges t).all fun r => rowIn r lo n

/-- The place of a ring's scale part in its aperture (R360). -/
def scalePart : Nat := 0xC00000000

/-- A tensor in the view window of ring r read at a version (R262, R360); none where it leaves the window, whose elements
may lie in either part. -/
def throughRing (r : Ring) (v : Version) (t : Tensor) : Option Tensor :=
  let w := ringAperture + r.id * 0x1000000000
  let sc := w + scalePart
  let slot := r.base + v.slot * r.stride
  let scales := r.scaleBase + v.slot * r.scaleStride
  let okScale := !t.scaled || (sc ≤ t.scaleAddr && t.scaleAddr + scaleBytes t ≤ sc + ringScales r)
  if ((rowRanges t).all fun x => rowIn x w (ringBytes r) || rowIn x sc (ringScales r)) && okScale then
    some { t with
      addr := slot + (t.addr - w), split := slot + scalePart, upper := scales
      scaleAddr := if t.scaled then scales + (t.scaleAddr - sc) else 0 }
  else none

/-- A tensor in a queue's view window read from a slot (R275, R276). -/
def throughQueue (i base size slot : Nat) (t : Tensor) : Option Tensor :=
  let w := queueAperture + i * 0x40000000
  let okScale := !t.scaled || (t.scaleAddr == w + alignUp (packedBytes t) 64 &&
    t.scaleAddr + scaleBytes t ≤ w + size)
  if rowsWithin t w size && okScale then
    some { t with
      addr := base + slot * size + (t.addr - w)
      scaleAddr := if t.scaled then base + slot * size + (t.scaleAddr - w) else 0 }
  else none

/-! ### Hosted stages (R270) -/

def stageAt (p : Pkg) (n : Nat) : Stage := p.pipe.stages.getD n {}
def modStage (n : Nat) (f : Stage → Stage) (p : Pkg) : Pkg := { p with pipe.stages := modAt p.pipe.stages n f }

def Stage.job (s : Stage) : Nat := le s.cfg 2 2
def Stage.upStage (s : Stage) : Nat := le s.cfg 4 2
def Stage.downStage (s : Stage) : Nat := le s.cfg 6 2
def Stage.upPeer (s : Stage) : Nat := le s.cfg 8 4
def Stage.downPeer (s : Stage) : Nat := le s.cfg 12 4
def Stage.actBase (s : Stage) : Nat := le s.cfg 16 8
def Stage.actSlot (s : Stage) : Nat := le s.cfg 24 4
def Stage.actDepth (s : Stage) : Nat := le s.cfg 28 1
def Stage.gradDepth (s : Stage) : Nat := le s.cfg 29 1
def Stage.gradBase (s : Stage) : Nat := le s.cfg 32 8
def Stage.gradSlot (s : Stage) : Nat := le s.cfg 40 4
def Stage.slotNs (s : Stage) : Nat := le s.cfg 44 4
def Stage.slipLimit (s : Stage) : Nat := le s.cfg 48 4
def Stage.catchup (s : Stage) : Nat := le s.cfg 52 4
def Stage.watchMs (s : Stage) : Nat := le s.cfg 56 2
def Stage.records (s : Stage) : Nat := le s.cfg 58 2
def Stage.recordBase (s : Stage) : Nat := le s.cfg 64 8

/-- The neighbour in a direction: upstream (`grad`, where gradients go) or downstream. -/
def Stage.peer (s : Stage) (up : Bool) : Nat := if up then s.upPeer else s.downPeer
def Stage.neighbour (s : Stage) (up : Bool) : Nat := if up then s.upStage else s.downStage
def Stage.depth (s : Stage) (grad : Bool) : Nat := if grad then s.gradDepth else s.actDepth
def Stage.slotSize (s : Stage) (grad : Bool) : Nat := if grad then s.gradSlot else s.actSlot
def Stage.base (s : Stage) (grad : Bool) : Nat := if grad then s.gradBase else s.actBase

/-- Send a stage-link message to a neighbour on VC2 (R277); one on this package goes back to its own engine. -/
def sendStage (peer : Nat) (h : StageHdr) (data : List Byte) (p : Pkg) : Pkg :=
  if peer == 0xFFFFFFFF then { p with out.loop := p.out.loop ++ [(2, stageHead h ++ data)] }
  else sendMessage 2 peer (stageHead h ++ data) p

/-- CREDIT for a freed slot goes to the queue's sender (R278, R281): activations come from upstream. -/
def sendCredit (n : Nat) (grad : Bool) (slot : Nat) (p : Pkg) : Pkg :=
  let s := stageAt p n
  sendStage (s.peer !grad)
    { kind := 2, depth := 0, dstStage := s.neighbour !grad, srcStage := s.job, gen := s.gen, step := 0, mb := slot
      epoch := 0, length := 0 } [] p

end Sys2Proof.Machine
end

