-- ==== Sys2Proof/Machine/Graphs.lean ====
section
/-! DEFINITION. Task descriptors, token tables and their checks at LOAD (R78 to R84, R90, R91, R106), with the body of
each task type (R104, R121, R129, R156, R244, R245, R282, R306, R374). -/

namespace Sys2Proof.Machine

/-! ### The common header (R81) -/

def tType (d : List Byte) : Nat := le d 0 1
def tVmode (d : List Byte) : Nat := bits (le d 1 1) 1 0
def tMask (d : List Byte) : Nat := le d 2 2
def tHint (d : List Byte) : Nat := le d 4 1
def tSub (d : List Byte) : Nat := le d 5 1
def tEpoch (d : List Byte) : Nat := le d 6 2
def tStamp (d : List Byte) : Nat := le d 8 2
def tCount (d : List Byte) : Nat := le d 10 1
def tPrefetch (d : List Byte) : Nat := le d 11 1
def tBase (d : List Byte) : Nat := le d 48 8
def tBody (d : List Byte) : List Byte := (d.drop 64).take 64

/-- A valid edge (R83): the token and the count. -/
structure Edge where
  token : Nat
  count : Nat
  deriving DecidableEq, Repr

def edgeWord (d : List Byte) (out : Bool) (i : Nat) : Nat := le d ((if out then 32 else 16) + 4 * i) 4

def edgeOf (w : Nat) : Option Edge := if bit w 31 then some ⟨bits w 11 0, bits w 30 24⟩ else none

def tIns (d : List Byte) : List Edge := (List.range 4).filterMap fun i => edgeOf (edgeWord d false i)
def tOuts (d : List Byte) : List Edge := (List.range 4).filterMap fun i => edgeOf (edgeWord d true i)

/-! ### The token table (R90) -/

def kDepth (e : List Byte) : Nat := le e 0 1
def kInit (e : List Byte) : Nat := le e 1 1
def kFeeder (e : List Byte) : Nat := le e 2 1
def kGroup (e : List Byte) : Nat := le e 3 1
def kRef (e : List Byte) : Nat := le e 4 4

/-- An entry that R90 refuses; FEEDER_REF of FEEDER 2 names a hosted stage and a queue (R291). -/
def tokenBad (e : List Byte) : Bool :=
  kDepth e == 0 || 64 < kDepth e || kDepth e < kInit e || 3 < kFeeder e ||
    (if kFeeder e == 3 then 3 < kGroup e else kGroup e != 0) ||
    (kFeeder e < 2 && kRef e != 0) || (kFeeder e == 2 && !(kRef e < 8 || (256 ≤ kRef e && kRef e < 264)))

/-! ### Bodies -/

def indexBad (n i : Nat) : Bool := n ≤ i
def indexOrNoneBad (n i : Nat) : Bool := i != 0xFF && n ≤ i

/-- BRANCH (R104); summary slots under R179. -/
def branchBad (b : List Byte) : Bool :=
  let slot := le b 2 2
  let n := le b 4 1
  !zeros b 1 1 || !(slot < 256 || (0x1000 ≤ slot && slot ≤ 0x10FF)) || n == 0 || 16 < n || !zeros b 5 3 ||
    (List.range 16).any (fun i => if i < n then le b (8 + i) 1 == 0 else le b (8 + i) 1 != 0) || !zeros b 24 40

def branchSubs (b : List Byte) : List Nat := (List.range (le b 4 1)).map fun i => le b (8 + i) 1

/-- COPY (R374). -/
def copyBad (n : Nat) (b : List Byte) : Bool :=
  3 < le b 2 1 || indexBad n (le b 1 1) || (if le b 2 1 == 3 then le b 0 1 != 0xFF else indexBad n (le b 0 1)) ||
    !zeros b 3 61

/-- PUSH (R244). -/
def pushBad (n : Nat) (b : List Byte) : Bool :=
  7 < le b 0 1 || 1 < le b 1 1 || indexBad n (le b 2 1) || indexOrNoneBad n (le b 3 1) || !zeros b 6 58

/-- DRAIN (R245). -/
def drainBad (n : Nat) (b : List Byte) : Bool :=
  7 < le b 0 1 || 1 < le b 1 1 || indexBad n (le b 2 1) || indexOrNoneBad n (le b 3 1) ||
    !(le b 6 2 < 256 || le b 6 2 == 0xFFFF) || !zeros b 8 56

/-- RELEASE (R245). -/
def releaseBad (b : List Byte) : Bool := 7 < le b 0 1 || !zeros b 1 63

/-- SEND (R282). -/
def sendBad (n : Nat) (b : List Byte) : Bool := 7 < le b 0 1 || 1 < le b 1 1 || indexBad n (le b 2 1) || !zeros b 3 61

/-! Fields of a collective body (R306). -/

def cGroup (b : List Byte) : Nat := le b 0 1
def cStats (b : List Byte) : Bool := bit (le b 1 1) 0
def cEnc (b : List Byte) : Nat := le b 2 1
def cThin (b : List Byte) : Nat := le b 3 1
def cRid (b : List Byte) : Nat := le b 4 4
def cSrc (b : List Byte) (i : Nat) : Nat := le b (8 + i) 1
def cDst (b : List Byte) : Nat := le b 12 1
def cErr (b : List Byte) : Nat := le b 13 1
def cErr2 (b : List Byte) : Nat := le b 14 1
def cMax (b : List Byte) : Bool := le b 15 1 == 1
def cK (b : List Byte) : Nat := le b 16 2
def cPhase (b : List Byte) : Nat := le b 18 2
def cDestPos (b : List Byte) : Nat := le b 20 2
def cSrcPos (b : List Byte) : Nat := le b 22 2

/-- The local sources in use (R312). -/
def cSources (b : List Byte) : List Nat := ((List.range 4).map (cSrc b)).filter (· != 0xFF)

/-- Fields of a collective body that need no tensor (R306, R308). -/
def collBad (type n : Nat) (b : List Byte) : Bool :=
  let reduces := type == 0x40 || type == 0x42
  let used := (List.range 4).map fun i => cSrc b i != 0xFF
  3 < cGroup b || 1 < le b 1 1 || 5 < cEnc b || 2 < cThin b || 1 < le b 15 1 ||
    (List.range 4).any (fun i => indexOrNoneBad n (cSrc b i)) || indexBad n (cDst b) || indexOrNoneBad n (cErr b) ||
    indexOrNoneBad n (cErr2 b) || !zeros b 24 40 ||
    (if reduces then
      !(used == [true, false, false, false] || used == [true, true, false, false] || used == [true, true, true, true])
     else used != [true, false, false, false] || le b 15 1 != 0 || cEnc b != 0 || cThin b != 0) ||
    (cMax b && (cThin b != 0 || 3 ≤ cEnc b)) ||
    (cThin b == 1 && (cEnc b != 0 || cErr b == 0xFF || (type == 0x42 && cErr2 b == 0xFF))) ||
    (cThin b == 2 && (cErr b == 0xFF || cK b < 2 || cK b ≤ cPhase b)) ||
    (cThin b != 2 && (cK b != 0 || cPhase b != 0)) ||
    (type != 0x43 && (cDestPos b != 0 || cSrcPos b != 0))

/-- Types allowed in J1 (R82). -/
def j1Type (t : Nat) : Bool := t == 0x01 || t == 0x02 || t == 0x10 || t == 0x50 || t == 0x60 || t == 0x70

/-- A body that its chapter refuses without a tensor descriptor; an unassigned TYPE too (R82). -/
def bodyBad (j1 : Bool) (type n : Nat) (b : List Byte) : Bool :=
  match type with
  | 0x01 => matBodyBad false n b
  | 0x02 => matBodyBad true n b
  | 0x10 => chainBad (parseChain b) n false j1
  | 0x20 => pushBad n b
  | 0x21 => drainBad n b
  | 0x22 => releaseBad b
  | 0x30 => sendBad n b
  | 0x40 => collBad type n b
  | 0x41 => collBad type n b
  | 0x42 => collBad type n b
  | 0x43 => collBad type n b
  | 0x50 => copyBad n b
  | 0x60 => !zeros b 0 64
  | 0x70 => branchBad b
  | _ => true

/-! ### The checks of a task (R81 to R84) -/

/-- An edge word that R83 refuses. -/
def edgeBad (tokens w : Nat) : Bool :=
  if bit w 31 then bits w 23 12 != 0 || bits w 30 24 == 0 || 64 < bits w 30 24 || tokens ≤ bits w 11 0 else w != 0

/-- Edges that R84 refuses, with the token table. -/
def edgesBad (toks : List (List Byte)) (d : List Byte) : Bool :=
  let ins := tIns d
  let outs := tOuts d
  !(ins.map (·.token)).Nodup || !(outs.map (·.token)).Nodup || ins.any (fun e => outs.any fun o => o.token == e.token) ||
    (ins ++ outs).any (fun e => kDepth (toks.getD e.token []) < e.count) ||
    outs.any fun e => kFeeder (toks.getD e.token []) != 0

/-- Header fields of any descriptor (R81). -/
def headBad (d : List Byte) : Bool :=
  4 ≤ le d 1 1 || tVmode d == 3 || tMask d == 0 || !(tHint d < 32 || tHint d == 0xFF) ||
    (tVmode d != 2 && tStamp d != 0) || 16 < tCount d || !(tPrefetch d < tCount d || tPrefetch d == 0xFF) ||
    !zeros d 12 4 || !zeros d 56 8 || 2 ^ 48 ≤ tBase d || tBase d % 64 != 0

/-- A task that LOAD refuses by itself (R78, R82 to R84). -/
def taskBad (j1 : Bool) (toks : List (List Byte)) (d : List Byte) : Bool :=
  headBad d || (List.range 4).any (fun i => edgeBad toks.length (edgeWord d false i) || edgeBad toks.length (edgeWord d true i)) ||
    edgesBad toks d || (j1 && !j1Type (tType d)) || bodyBad j1 (tType d) (tCount d) (tBody d)

/-! ### Subgraphs and cycles (R91, R106) -/

/-- Branch tasks of a graph whose SUB list holds a subgraph. -/
def controllers (tasks : List (List Byte)) (sub : Nat) : Nat :=
  tasks.countP fun d => tType d == 0x70 && (branchSubs (tBody d)).elem sub

/-- A task whose subgraph, or one it controls, is not in exactly one SUB list (R106). -/
def subBad (tasks : List (List Byte)) (d : List Byte) : Bool :=
  (tSub d != 0 && controllers tasks (tSub d) != 1) ||
    (tType d == 0x70 && (branchSubs (tBody d)).any fun s => controllers tasks s != 1)

/-- Tasks that consume a task-fed token that task `i` produces (R91). -/
def successors (tasks toks : List (List Byte)) (i : Nat) : List Nat :=
  let outs := ((tOuts (tasks.getD i [])).map (·.token)).filter fun k => kFeeder (toks.getD k []) == 0
  (List.range tasks.length).filter fun j => (tIns (tasks.getD j [])).any fun e => outs.elem e.token

/-- Tasks that can be reached from a set in at most `n` more edges. -/
def reach (tasks toks : List (List Byte)) : Nat → List Nat → List Nat
  | 0, seen => seen
  | n + 1, seen =>
    let more := (seen.flatMap (successors tasks toks)).filter fun j => !seen.elem j
    if more.isEmpty then seen else reach tasks toks n (seen ++ more.eraseDups)

/-- The lowest task on a cycle (R91). -/
def onCycle (tasks toks : List (List Byte)) : Option Nat :=
  (List.range tasks.length).find? fun i => (reach tasks toks tasks.length (successors tasks toks i)).elem i

/-- The check of a graph (R78, R79): the detail of the refusal, if any. Of several items that fail, a token table comes
before a task and a task before a cycle: DESIGN CHOICE, log entry 71 (R79 and R91 give no order). -/
def graphBad (j1 : Bool) (tasks toks : List (List Byte)) : Option Nat :=
  if toks.any tokenBad then some 0xFFFF
  else
    ((List.range tasks.length).find? fun i => taskBad j1 toks (tasks.getD i []) || subBad tasks (tasks.getD i [])).or
      (onCycle tasks toks)

end Sys2Proof.Machine
end

