-- ==== Sys2Proof/Machine/PowerRegs.lean ====
section
/-! DEFINITION. The power registers (R557, R558) and the envelope that the holds demand (R545). -/

namespace Sys2Proof.Machine

/-- The input-power figure of each envelope, in watts (R544). -/
def envPower (e : Nat) : Nat := match e with | 0 => 4600 | 1 => 3600 | 2 => 2400 | _ => 1200

/-- The LIMIT hold: the highest-clocked envelope within LIMIT × 100 W (R545); no hold when LIMIT is 0. -/
def limitHold (limit : Nat) : Option Nat :=
  if limit == 0 then none else if 46 ≤ limit then some 0 else if 36 ≤ limit then some 1 else some 2

/-- The envelope the active holds demand; a hold never names P3 (R545). -/
def holdEnv (w : Pwr) : Nat :=
  min 2 (max (max (w.thermal.getD 0) (w.current.getD 0))
    (max (w.power.getD 0) (max ((limitHold w.limit).getD 0) (if w.connector then 2 else 0))))

/-- The envelope R545 gives: the lowest-clocked of ENV and every active hold. -/
def envGiven (env : Nat) (w : Pwr) : Nat := max env (holdEnv w)

def supplyCode : Supply → Nat | .normal => 0 | .under => 1 | .over => 2

/-- PWR_STAT (R558). -/
def pwrStat (w : Pwr) : Nat :=
  supplyCode w.supply * 2 ^ 30 + b2n w.thermal.isSome * 2 ^ 29 + b2n w.current.isSome * 2 ^ 28 +
    b2n w.power.isSome * 2 ^ 27 + b2n (w.limit != 0) * 2 ^ 26 + b2n w.connector * 2 ^ 25 + holdEnv w * 2 ^ 23 +
    w.tripFence * 2 ^ 19 + b2n w.aOpen * 2 ^ 18 + b2n w.bOpen * 2 ^ 17 + b2n w.brownoutLast * 2 ^ 16

/-- PWR_TEMP(i).VALID (R558): the sensor's unit is powered, and its stack has not failed. -/
def sensorValid (p : Pkg) (i : Nat) : Bool :=
  !p.boot.off &&
    if i < 40 then 4 ≤ p.boot.phase && !bit p.pwr.railOut (i / 10)
    else if i < 48 then 2 ≤ p.boot.phase
    else 5 ≤ p.boot.phase && bit p.mem.trained (i - 48) && !bit p.mem.failed (i - 48)

/-- PWR_TEMP(i) (R558). -/
def pwrTemp (p : Pkg) (i : Nat) : Nat :=
  if sensorValid p i then 2 ^ 31 + unsigned 16 (p.pwr.temps.getD i 0) else 0

/-- PWR_TEMP_MAX: the hottest valid sensor (R558). -/
def pwrTempMax (p : Pkg) : Nat :=
  let w := p.pwr
  match ((List.range 64).filter (sensorValid p)).foldl (fun (b : Option Nat) i =>
      match b with
      | none => some i
      | some j => if w.temps.getD j 0 < w.temps.getD i 0 then some i else some j) none with
  | none => 0
  | some i => i * 65536 + unsigned 16 (w.temps.getD i 0)

def pwrIin (w : Pwr) : Nat := w.iinB * 65536 + w.iinA
/-- The 10 ms means of the last second. -/
def recentPins (at_ : Nat) (w : Pwr) : List (Nat × Nat) := w.pins.filter fun x => at_ ≤ x.1 + 1000000000

/-- PWR_PIN (R558): PEAK is the largest mean of the last second. -/
def pwrPin (p : Pkg) : Nat :=
  ((recentPins (upNs p) p.pwr).foldl (fun m x => max m x.2) 0) * 65536 + p.pwr.pin

def pwrEvents (w : Pwr) : Nat := w.unders * 2 ^ 24 + w.overs * 65536 + w.trips * 256 + w.holds

/-- What SENSOR_READ returns, 272 bytes (R576). -/
def sensorBlock (p : Pkg) : List Byte :=
  let w := p.pwr
  leBytes 4 (pwrStat w) ++ leBytes 4 w.vin ++ leBytes 4 (pwrIin w) ++ leBytes 4 (pwrPin p) ++
    (List.range 64).flatMap fun i => leBytes 4 (pwrTemp p i)

/-- PKG_STATUS (R488). -/
def pkgStatus (p : Pkg) : Nat :=
  b2n p.boot.ready * 2 ^ 31 + b2n p.boot.degraded * 2 ^ 30 + b2n p.boot.failed * 2 ^ 29 + b2n p.boot.recovery * 2 ^ 28 +
    p.boot.phase

end Sys2Proof.Machine
end

