-- ==== Sys2Proof/Machine/Rings.lean ====
section
/-! DEFINITION. The slots that weight version rings choose for a commit (R263), and the forced retirement. -/

namespace Sys2Proof.Machine

def lRing (e : List Byte) : Nat := le e 30 2
def lFrozen (e : List Byte) : Bool := bit (le e 44 1) 1
def lHasRing (e : List Byte) : Bool := lRing e != 0xFFFF

/-- Rings that the update writes: those that a layer names which is not FROZEN (R263). -/
def writtenRings (p : Pkg) : List Nat := distinct ((p.upd.layers.filter fun e => lHasRing e && !lFrozen e).map lRing)

/-- A ring's slot for the next version (R263): the lowest without a live version. -/
def freeSlot (r : Ring) : Option Nat := (List.range r.slots).find? fun s => r.versions.all fun v => v.slot != s

/-- The version that a forced retirement takes (R263): the oldest that is neither the newest nor held by a task, of those
whose retirement can free a slot (DEDUCED, log entry 79: one that shares its slot with a version that stays frees none). -/
def forcedVersion (p : Pkg) (r : Ring) : Option Version :=
  let stays (v : Version) : Bool := v.num == p.rings.version || heldByTask p r.id v.num
  (r.versions.filter fun v => !stays v && r.versions.all fun x => x.slot != v.slot || !stays x).foldl
    (fun best v => match best with
      | none => some v
      | some b => if behind p b.num < behind p v.num then some v else some b) none

/-- A forced retirement (R263). -/
def forceOut (r : Ring) (v : Version) (p : Pkg) : Pkg :=
  log 0x0401 0 0xFFFF [d2 r.id, d2 v.num] { p with
    rings.forced := satAdd 0xFFFFFFFF p.rings.forced 1
    rings.rings := p.rings.rings.map fun x =>
      if x.id == r.id then { x with versions := x.versions.filter fun y => y.num != v.num } else x }

/-- A ring takes its free slot, after at most `n` forced retirements, or makes the commit wait. -/
def takeSlot (id : Nat) : Nat → Pkg → Pkg
  | n, p => match ringOf p id with
    | none => p
    | some r => match freeSlot r, forcedVersion p r, n with
      | some s, _, _ => modStep (fun t => { t with chosen := t.chosen ++ [(id, s)] }) p
      | none, some v, n + 1 => takeSlot id n (forceOut r v p)
      | none, _, _ => modStep (fun t => { t with commitHeld := true }) p

/-- A ring chooses its next slot, or waits (R263). -/
def chooseSlot (p : Pkg) (id : Nat) : Pkg :=
  if p.step.chosen.any fun x => x.1 == id then p
  else takeSlot id (match ringOf p id with | some r => r.versions.length | none => 0) p

/-- Choose the slots of a commit; it is held while one of its rings has none. -/
def chooseSlots (p : Pkg) : Pkg :=
  (writtenRings p).foldl chooseSlot (modStep (fun s => { s with commitHeld := false }) (pruneRings p))

/-- A commit that waits for a slot looks again, as a task that held one may have completed (R263). -/
def retrySlots (p : Pkg) : Pkg :=
  if p.step.commitHeld && p.step.state == .committing && !p.step.aborting then chooseSlots p else p

end Sys2Proof.Machine
end

