-- ==== Sys2Proof/Machine/Tasks.lean ====
section
/-! DEFINITION. Instances, tokens and readiness (R77, R92 to R94, R106), placement (R96 to R98), the failure of a task
and the end of an instance (R80, R112, R136, R296, R297). -/

namespace Sys2Proof.Machine

/-! ### Access -/

def instOf (p : Pkg) (iid : Nat) : Option Inst := p.tasks.insts.find? fun i => i.iid == iid

def modInst (iid : Nat) (f : Inst → Inst) (p : Pkg) : Pkg :=
  { p with tasks.insts := p.tasks.insts.map fun i => if i.iid == iid then f i else i }

def runOf (p : Pkg) (iid task : Nat) : Option Run := p.tasks.runs.find? fun r => r.iid == iid && r.task == task

def modRun (iid task : Nat) (f : Run → Run) (p : Pkg) : Pkg :=
  { p with tasks.runs := p.tasks.runs.map fun r => if r.iid == iid && r.task == task then f r else r }

def dropRun (iid task : Nat) (p : Pkg) : Pkg :=
  { p with tasks.runs := p.tasks.runs.filter fun r => !(r.iid == iid && r.task == task) }

/-- The descriptor of a task: the blocks of a command share one. -/
def Inst.desc (i : Inst) (task : Nat) : List Byte := i.descs.getD (if i.parts.isEmpty then task else 0) []

def Inst.part (i : Inst) (task : Nat) : Part := i.parts.getD task .whole

def graphOf (p : Pkg) (id : Nat) : Option Graph := p.tasks.graphs.find? fun g => g.id == id

def modCore (c : Nat) (f : Core → Core) (p : Pkg) : Pkg := { p with tasks.cores := modAt p.tasks.cores c f }

/-! ### Units (R96, R523, R531) -/

/-- A unit that a running rung resets (R521, R523). -/
def inRung (p : Pkg) (u : Nat) : Bool :=
  match p.integ.episode with
  | some e => e.units.elem u
  | none => false

/-- A grove takes tasks: it is not fenced, its die is UP, and no rung resets it. -/
def groveUsable (p : Pkg) (g : Nat) : Bool :=
  !bit p.integ.fenced g && (p.dies.getD (g / 4) {}).state == .up && !inRung p (0x0200 + g) && !inRung p (0x0400 + g / 4)

def coreParked (p : Pkg) (c : Nat) : Bool := (p.tasks.cores.getD c {}).parked

/-- Nothing runs on a core, a paused J1 context apart for J0. -/
def coreIdle (p : Pkg) (c : Nat) (j1 : Bool) : Bool :=
  p.tasks.runs.all fun r => r.unit != c || (!j1 && r.j1 && r.paused)

/-- A core may take a task of a context now (R96, R97, R548). -/
def coreFree (set : Settings) (p : Pkg) (c : Nat) (j1 : Bool) : Bool :=
  groveUsable p (c / 32) && !inRung p c && !coreParked p c && set.envAct != 3 && coreIdle p c j1

/-- Cores of a grove in the order R96 tries them. -/
def coreOrder (g hint : Nat) : List Nat :=
  (List.range 32).map fun i => 32 * g + (if hint == 0xFF then i else (hint + i) % 32)

/-- GROVE_MASK without the groves that are fenced (R96). -/
def openGroves (p : Pkg) (mask : Nat) : List Nat := (List.range 16).filter fun g => bit mask g && groveUsable p g

/-- The core R96 places a core task on now. -/
def placeCore (set : Settings) (p : Pkg) (d : List Byte) (j1 : Bool) : Option Nat :=
  firstSome (fun g => (coreOrder g (tHint d)).find? fun c => coreFree set p c j1) (openGroves p (tMask d))

def isCoreTask (t : Nat) : Bool := t == 0x01 || t == 0x02 || t == 0x10

/-- The base-die engine of a task type, as a unit code (R531). -/
def engineOf (t : Nat) : Nat :=
  if t < 0x30 then 0x0300 else if t < 0x40 then 0x0301 else if t < 0x50 then 0x0302 else 0x0303

/-- The unit a task goes to now (R96): `none` while it must wait. Control-core tasks go to the lowest grove. -/
def placeUnit (set : Settings) (p : Pkg) (d : List Byte) (j1 : Bool) : Option Nat :=
  let t := tType d
  if isCoreTask t then placeCore set p d j1
  else if t == 0x60 || t == 0x70 then (openGroves p (tMask d)).head?.map fun g => 0x0200 + g
  else if inRung p (engineOf t) then none else some (engineOf t)

/-- No grove of the mask is left (R96): every grove in it is fenced, its die is, or a rung resets it (R523). -/
def maskEmpty (p : Pkg) (d : List Byte) : Bool := (openGroves p (tMask d)).isEmpty

/-! ### Tokens (R92, R93) -/

def Token.credit (t : Token) : Nat := t.depth - (t.count + t.reserved + t.held)

def tokOf (i : Inst) (k : Nat) : Token := i.toks.getD k ⟨0, 0, 0, 0⟩

/-- R92 holds for every edge of a task. -/
def edgesHold (i : Inst) (d : List Byte) : Bool :=
  (tIns d).all (fun e => e.count ≤ (tokOf i e.token).count) && (tOuts d).all fun e => e.count ≤ (tokOf i e.token).credit

/-- A launch takes all its tokens and credits (R92, R93). -/
def takeTokens (d : List Byte) (ts : List Token) : List Token :=
  let ts := (tIns d).foldl (fun ts e => modAt ts e.token fun t => { t with count := t.count - e.count, held := t.held + e.count }) ts
  (tOuts d).foldl (fun ts e => modAt ts e.token fun t => { t with reserved := t.reserved + e.count }) ts

/-- A completion moves them (R92). -/
def giveTokens (d : List Byte) (ts : List Token) : List Token :=
  let ts := (tIns d).foldl (fun ts e => modAt ts e.token fun t => { t with held := t.held - e.count }) ts
  (tOuts d).foldl (fun ts e => modAt ts e.token fun t =>
    { t with reserved := t.reserved - e.count, count := t.count + e.count }) ts

/-! ### Readiness and skipping (R93, R94, R106) -/

/-- R106 does not hold a task back. -/
def subDecided (i : Inst) (d : List Byte) : Bool := tSub d == 0 || i.chosen.elem (tSub d) || i.unchosen.elem (tSub d)

/-- A task whose subgraph was not chosen. -/
def skipped (i : Inst) (d : List Byte) : Bool := tSub d != 0 && i.unchosen.elem (tSub d)

/-- A skipped task completes at once and produces its tokens; a skipped branch skips every subgraph it controls
(R106). -/
def skipTask (task : Nat) (i : Inst) : Inst :=
  let d := i.desc task
  { i with
    toks := giveTokens d (takeTokens d i.toks)
    tasks := i.tasks.set task .complete
    unchosen := if tType d == 0x70 then i.unchosen ++ branchSubs (tBody d) else i.unchosen }

/-- Two tasks use a common token (R94). -/
def shareToken (a b : List Byte) : Bool :=
  (tIns a ++ tOuts a).any fun e => (tIns b ++ tOuts b).any fun f => e.token == f.token

/-- A task of an instance that has not started. -/
def unstarted (i : Inst) (k : Nat) : Bool :=
  match i.tasks.getD k .complete with | .waiting => true | .ready _ => true | _ => false

/-- R93 holds for a task: its edges, and R106. -/
def mayBeReady (i : Inst) (k : Nat) : Bool :=
  edgesHold i (i.desc k) && subDecided i (i.desc k) && !skipped i (i.desc k)

/-- A task of lower index that uses a token of task `k` and launches at this moment: it is examined, and launched, first
(R94). `may` says which ready tasks a unit takes now. -/
def launchesFirst (may : Inst → Nat → Bool) (i : Inst) (k : Nat) : Bool :=
  (List.range k).any fun j =>
    unstarted i j && shareToken (i.desc j) (i.desc k) && mayBeReady i j && may i j

/-- The waiting or ready task that is skipped next, lowest index first. -/
def nextSkip (may : Inst → Nat → Bool) (i : Inst) : Option Nat :=
  (List.range i.tasks.length).find? fun k =>
    unstarted i k && skipped i (i.desc k) && edgesHold i (i.desc k) && !launchesFirst may i k

/-- Skip until nothing more is skipped (at most once each task). -/
def skipAll (may : Inst → Nat → Bool) : Nat → Inst → Inst
  | 0, i => i
  | n + 1, i => match nextSkip may i with
    | some k => skipAll may n (skipTask k i)
    | none => i

/-- A task's state as R93 gives it at time `t`: ready from then on while its conditions hold. -/
def readiness (t : Nat) (i : Inst) (k : Nat) (s : TaskState) : TaskState :=
  match s with
  | .waiting => if mayBeReady i k then .ready t else .waiting
  | .ready since => if mayBeReady i k then .ready since else .waiting
  | s => s

/-- Bring an instance's tasks to what its tokens allow (R93, R94, R106); a failed instance launches nothing more. -/
def settleInst (may : Inst → Nat → Bool) (t : Nat) (i : Inst) : Inst :=
  if i.noMore then i
  else
    let i := skipAll may i.tasks.length i
    { i with tasks := ((List.range i.tasks.length).zip i.tasks).map fun x => readiness t i x.1 x.2 }

def isReady : TaskState → Option Nat
  | .ready since => some since
  | _ => none

/-! ### Which ready task takes a unit (R94, R96) -/

/-- The place of a ready task in the order of R96: J0 before J1, then the earliest to become ready, the lower GRAPH_ID (a
command comes after the graphs), the earlier instance, the lower index. -/
def rankOfTask (i : Inst) (task since : Nat) : List Nat := [b2n i.j1, since, i.graph.getD 1024, i.iid, task]

def before : List Nat → List Nat → Bool
  | a :: as, b :: bs => a < b || (a == b && before as bs)
  | _, _ => false

/-- Every ready task: its instance, index and place in the order. -/
def readyTasks (p : Pkg) : List (Inst × Nat × List Nat) :=
  p.tasks.insts.flatMap fun i => (List.range i.tasks.length).filterMap fun k =>
    (isReady (i.tasks.getD k .waiting)).map fun since => (i, k, rankOfTask i k since)

/-- J1 launches while FILLER is ON and no J0 task is ready for the core (R37, R97). -/
def j1May (set : Settings) (p : Pkg) (c : Nat) : Bool :=
  set.filler && (readyTasks p).all fun x =>
    x.1.j1 || !isCoreTask (tType (x.1.desc x.2.1)) || !bit (tMask (x.1.desc x.2.1)) (c / 32)

/-- A unit takes a task of an instance at this moment: it is placed, J1 may launch (R97), and no ready task that waits for
the same core is ahead in the order of R96. -/
def takesUnit (set : Settings) (p : Pkg) (i : Inst) (task : Nat) : Bool :=
  let d := i.desc task
  match placeUnit set p d i.j1 with
  | none => false
  | some u =>
    let core := isCoreTask (tType d)
    let rank := rankOfTask i task ((isReady (i.tasks.getD task .waiting)).getD (now p))
    (!i.j1 || (if core then j1May set p u else set.filler)) &&
      !(core && (readyTasks p).any fun x =>
        !(x.1.iid == i.iid && x.2.1 == task) && isCoreTask (tType (x.1.desc x.2.1)) && before x.2.2 rank &&
          placeUnit set p (x.1.desc x.2.1) x.1.j1 == some u)

/-- Examine the tasks of an instance after a change of its tokens (R94). -/
def settleTasks (set : Settings) (iid : Nat) (p : Pkg) : Pkg := modInst iid (settleInst (takesUnit set p) (now p)) p

/-- Another ready task goes first: one of the same instance with a lower index that shares a token and has a unit
(R94), or one that waits for the same core and is ahead in the order of R96. -/
def mustWait (set : Settings) (p : Pkg) (i : Inst) (task unit : Nat) (rank : List Nat) : Bool :=
  (readyTasks p).any fun x =>
    let d := x.1.desc x.2.1
    (x.1.iid == i.iid && x.2.1 < task && shareToken d (i.desc task) && (placeUnit set p d x.1.j1).isSome) ||
      (isCoreTask (tType (i.desc task)) && isCoreTask (tType d) && before x.2.2 rank &&
        placeUnit set p d x.1.j1 == some unit)

/-- A task that may be launched now, as its instance and the unit it goes to; `none` in the unit where the mask is
empty. -/
def launchable (set : Settings) (p : Pkg) (iid task type : Nat) : Option (Inst × Option Nat) :=
  match instOf p iid with
  | none => none
  | some i =>
    let d := i.desc task
    match isReady (i.tasks.getD task .waiting) with
    | none => none
    | some since =>
      if tType d != type || i.noMore then none
      else if maskEmpty p d then some (i, none)
      else
        match placeUnit set p d i.j1 with
        | none => none
        | some u =>
          if (i.j1 && !(if isCoreTask type then j1May set p u else set.filler)) ||
              mustWait set p i task u (rankOfTask i task since) then none
          else some (i, some u)

/-! ### The end of an instance (R80, R112, R136, R296, R297) -/

/-- The fixture of an instance. -/
def fixtureOf (p : Pkg) (entry : Nat) : Option Fixture := p.pipe.fixtures.find? fun f => f.id == entry

/-- The fixture record (R296). -/
def fixtureRecord (f : Fixture) (endAt status : Nat) : List Byte :=
  let e := f.entry
  leBytes 8 (le e 0 8) ++ leBytes 8 (f.l / 65536) ++ leBytes 8 (f.a / 65536) ++ leBytes 8 endAt ++ leBytes 8 (f.slip / 65536) ++ leBytes 4 (le e 16 4) ++
    leBytes 2 (le e 14 2) ++ leBytes 2 (le e 12 2) ++ leBytes 1 status ++ leBytes 1 f.flags ++ leBytes 1 (le e 22 1) ++
    List.replicate 13 0

/-- Write whole 64-byte blocks of an engine's own record; a failed stack is reported under R378. -/
def writeBlock (set : Settings) (a : Nat) (bs : List Byte) (p : Pkg) : Pkg :=
  match failedIn set p a bs.length with
  | some x => memError set x p
  | none => writeMem set a bs p

/-- Free the queue slots that an instance consumed, with CREDIT to the senders (R281). -/
def freeSlots (iid stage : Nat) (p : Pkg) : Pkg :=
  let mine := (stageAt p stage).msgs.filter fun m => m.who == some iid
  let p := modStage stage (fun s => { s with msgs := s.msgs.filter fun m => m.who != some iid }) p
  mine.foldl (fun q m => sendCredit stage m.grad m.slot q) p

/-- The NOTIFY reply (R297) on the ring of the queue that loaded the fixture. -/
def notify (f : Fixture) (status : Nat) (p : Pkg) : Pkg :=
  if bit (le f.entry 21 1) 4 then
    modQueue f.q (fun qu => { qu with due := qu.due ++ [{
      num := none, status, detail := 0, seq := f.seq, tStart := f.l / 65536, tEnd := now p, counter := le f.entry 14 2
      qtag := f.qtag, opcode := 0x0502, replyAddr := f.replyAddr, quiet := false, signal := none }] }) p
  else p

/-- A fixture's instance has completed: record, notice, slots, and its entry is freed (R281, R296, R297). -/
def endFixture (set : Settings) (iid stage entry status : Nat) (p : Pkg) : Pkg :=
  match fixtureOf p entry with
  | none => freeSlots iid stage p
  | some f =>
    let s := stageAt p stage
    let p := if s.records == 0 then p
      else writeBlock set (s.recordBase + (f.k % s.records) * 64) (fixtureRecord f (now p) status) p
    let p := notify f status (freeSlots iid stage p)
    { p with pipe.fixtures := p.pipe.fixtures.filter fun g => g.id != entry }

/-- The counter word of an instance's reply (R79, R136, R195, R309, R376). -/
def instCounter (i : Inst) (op : Nat) : Nat :=
  if op == 0x0320 then i.ran else if op == 0x0301 || op == 0x0302 then i.tiles else i.bytes

/-- Detail of the reply: the core for LEDGER_MISMATCH of a matrix command or a VCHAIN (R136, R195). -/
def instDetail (i : Inst) (op : Nat) : Nat :=
  match i.fail with
  | some f => if (op == 0x0301 || op == 0x0302 || op == 0x0310) && f.status == stLedger then f.unit else 0
  | none => 0

/-- Live instances of a graph (R77). -/
def liveOf (p : Pkg) (g : Nat) : Nat := p.tasks.insts.countP fun i => i.graph == some g

/-- The limits of R77 leave room for one more instance of a graph. -/
def roomFor (p : Pkg) (g : Nat) : Bool :=
  liveOf p g < 64 && p.tasks.insts.countP (fun i => i.graph.isSome) < 4096

/-- Token objects at the start of an instance (R92). -/
def initTokens (toks : List (List Byte)) : List Token := toks.map fun e => ⟨kDepth e, kInit e, 0, 0⟩

/-- An instance starts (R77, R210) with tokens `toks`. -/
def newInst (p : Pkg) (g : Graph) (num : Nat) (origin : Origin) (step : Option Nat) (inStep : Bool) (toks : List Token) :
    Inst :=
  { iid := p.tasks.nextIid, graph := some g.id, num, j1 := g.j1, origin, step, inStep, mode := 0, descs := g.tasks
    parts := [], toks, tasks := g.tasks.map fun _ => .waiting, started := now p }

def addInst (set : Settings) (i : Inst) (p : Pkg) : Pkg :=
  settleTasks set i.iid { p with tasks.insts := p.tasks.insts ++ [i], tasks.nextIid := p.tasks.nextIid + 1 }

/-- Tokens of a fixture's instance: FEEDER 1 tokens take 1, FEEDER 2 tokens take 1 for each consumed queue (R291). -/
def fixtureTokens (stage flags : Nat) (toks : List (List Byte)) : List Token :=
  toks.map fun e =>
    let extra := if kFeeder e == 1 then 1
      else if kFeeder e == 2 then
        b2n (bit flags 2 && kRef e == stage) + b2n (bit flags 3 && kRef e == 256 + stage)
      else 0
    ⟨kDepth e, kInit e + extra, 0, 0⟩

/-- Messages a fixture consumed are held by its instance (R281). -/
def consume (stage mb step flags iid : Nat) (p : Pkg) : Pkg :=
  modStage stage (fun s => { s with msgs := s.msgs.map fun m =>
    if m.who.isNone && m.mb == mb && m.step % 2 ^ 32 == step && ((m.grad && bit flags 3) || (!m.grad && bit flags 2)) then
      { m with who := some iid } else m }) p

/-- Start an instance of a resident graph for its origin. -/
def launchGraph (set : Settings) (g : Graph) (num : Nat) (origin : Origin) (step : Option Nat) (inStep : Bool) (p : Pkg) : Pkg :=
  let toks := match origin with
    | .fixture stage entry => fixtureTokens stage (((fixtureOf p entry).map fun f => le f.entry 21 1).getD 0) g.tokens
    | _ => initTokens g.tokens
  let iid := p.tasks.nextIid
  let p := match origin with
    | .fixture stage entry => match fixtureOf p entry with
      | some f => consume stage (le f.entry 14 2) (le f.entry 16 4) (le f.entry 21 1) iid p
      | none => p
    | _ => p
  addInst set (newInst p g num origin step inStep toks) p

/-- Start the held runs for which there is room, in the order of acceptance (R80). -/
def startHeld (set : Settings) (p : Pkg) : Pkg :=
  p.tasks.held.foldl (fun q h =>
    match graphOf q h.graph with
    | none => q
    | some g =>
      if roomFor q h.graph then
        launchGraph set g h.num h.origin h.step h.inStep
          { q with tasks.held := q.tasks.held.filter fun x => x != h }
      else q) p

/-- An instance completes with a status (R112): its reply, or what its fixture asks for; then held runs may start
(R80). -/
def endInst (set : Settings) (iid status : Nat) (p : Pkg) : Pkg :=
  match instOf p iid with
  | none => p
  | some i =>
    let p := { p with
      tasks.insts := p.tasks.insts.filter fun j => j.iid != iid
      tasks.fetched := p.tasks.fetched.filter fun f => f.iid != iid }
    let p := match i.origin with
      | .packet w op _ => answer w status (instDetail i op) (instCounter i op) p
      | .fixture stage entry => endFixture set iid stage entry status p
    startHeld set p

/-- The status with which an instance ends. -/
def instStatus (i : Inst) : Nat := match i.fail with | some f => f.status | none => stOk

def running (p : Pkg) (iid : Nat) : Bool := p.tasks.runs.any fun r => r.iid == iid

/-- An instance completes once every task is complete, or it has failed and no task of it runs (R112). -/
def checkInst (set : Settings) (iid : Nat) (p : Pkg) : Pkg :=
  match instOf p iid with
  | none => p
  | some i =>
    if (i.noMore && !running p iid) || i.tasks.all (· == .complete) then endInst set iid (instStatus i) p else p

/-! ### Failure (R112) -/

/-- The earlier failure is kept; a tie goes to the lower task index (R112). -/
def keepFailure (old : Option Failure) (f : Failure) : Option Failure :=
  match old with
  | none => some f
  | some o => if o.time == f.time && f.task < o.task then some f else some o

/-- A task of an instance fails (R112): bit 0 of the step for J0 work of the step (R211); an uncorrectable error or an
arithmetic fault in it retracts what was sent (R332). -/
def noteFailure (iid task status unit : Nat) (p : Pkg) : Pkg :=
  match instOf p iid with
  | none => p
  | some i =>
    let p := modInst iid (fun i => { i with fail := keepFailure i.fail ⟨now p, task, status, unit⟩, noMore := true }) p
    if i.j1 || !i.inStep then p
    else
      let p := failStep 0 status p
      if status == stMem then retractStep p else p

/-- A task fails at launch, or before it has started, and its instance ends when nothing of it runs. -/
def failTask (set : Settings) (iid task status unit : Nat) (p : Pkg) : Pkg :=
  checkInst set iid (noteFailure iid task status unit p)

/-! ### Collectives that end (R309, R331, R335, R590) -/

def collAt (p : Pkg) (iid task : Nat) : Option Coll := p.colls.running.find? fun c => c.iid == iid && c.task == task

def modColl (iid task : Nat) (f : Coll → Coll) (p : Pkg) : Pkg :=
  { p with colls.running := p.colls.running.map fun c => if c.iid == iid && c.task == task then f c else c }

def dropColl (iid task : Nat) (p : Pkg) : Pkg :=
  { p with colls.running := p.colls.running.filter fun c => !(c.iid == iid && c.task == task) }

/-- Tokens of FEEDER 3 that a collective feeds in an instance. -/
def fedTokens (p : Pkg) (i : Inst) (g rid : Nat) : List Nat :=
  match i.graph.bind (graphOf p) with
  | some gr => (List.range gr.tokens.length).filter fun k =>
      let e := gr.tokens.getD k []
      kFeeder e == 3 && kGroup e == g && kRef e == rid
  | none => []

/-- The completion feeds the live instances (R590). -/
def feedInst (set : Settings) (g rid status : Nat) (p : Pkg) (iid : Nat) : Pkg :=
  match instOf p iid with
  | none => p
  | some i =>
    let ks := fedTokens p i g rid
    if ks.isEmpty || i.noMore then p
    else if status != stOk then failTask set iid 0xFFFF status 0xFFFF p
    else if ks.any fun k => let t := tokOf i k; t.depth ≤ t.count + t.reserved + t.held then
      failTask set iid 0xFFFF stBadState 0xFFFF p
    else checkInst set iid (settleTasks set iid (modInst iid (fun i => { i with
      toks := ks.foldl (fun ts k => modAt ts k fun t => { t with count := t.count + 1 }) i.toks }) p))

def feed (set : Settings) (g rid status : Nat) (p : Pkg) : Pkg :=
  (p.tasks.insts.map (·.iid)).foldl (feedInst set g rid status) p

/-- A collective of this member is over: its context frees, the pieces it sent count for its instance (R309), and one of
the step is kept for a retraction (R332, R335). -/
def retireColl (c : Coll) (stats : Option (W32 × W32)) (p : Pkg) : Pkg :=
  let p := modGroup c.group (fun g => { g with done := (c.rid, c.step) :: g.done }) (dropColl c.iid c.task p)
  let p := if c.step.isSome then
      { p with colls.past := p.colls.past ++ [⟨c.group, c.rid, c.type, c.sentData, c.retracted, stats⟩] } else p
  modInst c.iid (fun i => { i with bytes := i.bytes + c.pieces }) p

/-- A running task fails and stops; a collective it ran completes with the status and feeds its tokens (R590). -/
def failRun (set : Settings) (iid task status : Nat) (p : Pkg) : Pkg :=
  match runOf p iid task with
  | none => p
  | some r =>
    let c := collAt p iid task
    let p := match c with | some c => retireColl c none p | none => p
    let p := failTask set iid task status r.unit (pruneRings (dropRun iid task p))
    match c with
    | some c => feed set c.group c.rid status p
    | none => p

/-- A running task completes (R92): its tokens move, its versions are let go (R265), and its instance goes on. -/
def endTask (set : Settings) (iid task : Nat) (p : Pkg) : Pkg :=
  match instOf p iid with
  | none => pruneRings (dropRun iid task p)
  | some i =>
    let d := i.desc task
    let p := pruneRings (dropRun iid task p)
    let p := modInst iid (fun i => { i with
      toks := giveTokens d i.toks, tasks := i.tasks.set task .complete, ran := i.ran + 1 }) p
    checkInst set iid (settleTasks set iid p)

/-- Resume the paused J1 task of each core that no J0 task is ready for or runs on (R98). -/
def resumeJ1 (set : Settings) (p : Pkg) : Pkg :=
  { p with tasks.runs := p.tasks.runs.map fun r =>
      if r.j1 && r.paused && set.envAct != 3 && p.tasks.runs.all (fun x => x.unit != r.unit || x.j1) && j1May set p r.unit then
        { r with paused := false } else r }

/-! ### An abort that is due (R235) -/

/-- End an instance of the step with STEP_ABORTED: its running tasks stop. -/
def abortInst (set : Settings) (iid : Nat) (p : Pkg) : Pkg :=
  let p := { p with tasks.runs := p.tasks.runs.filter fun r => r.iid != iid }
  let p := modInst iid (fun i => { i with noMore := true }) p
  endInst set iid stAborted p

/-- Runs held for the step end with it. -/
def abortHeld (set : Settings) (p : Pkg) : Pkg :=
  let mine := p.tasks.held.filter fun h => h.inStep
  let p := { p with tasks.held := p.tasks.held.filter fun h => !h.inStep }
  mine.foldl (fun q h => match h.origin with
    | .packet w _ _ => answer w stAborted 0 0 q
    | .fixture stage entry => endFixture set 0xFFFFFFFF stage entry stAborted q) p

/-- Every configured group enters RESYNC_WAIT (R304, R353). -/
def haltGroups (p : Pkg) : Pkg :=
  { p with colls.groups := p.colls.groups.map fun c => if c.on then { c with resync := true, early := [] } else c }

/-- The abort begins (R235): J0 work of the step stops, its reductions are retracted and end with STEP_ABORTED (R336,
R590), and the groups wait for RESYNC (R304). -/
def beginAbort (set : Settings) (p : Pkg) : Pkg :=
  let p := modStep (fun s => { s with abortDue := false, aborting := true }) p
  let p := haltGroups (retractStep p)
  let p := abortHeld set p
  let ended := p.colls.running.filter fun c => c.step == some p.step.num
  let p := ended.foldl (fun q c => retireColl c none q) p
  let mine := (p.tasks.insts.filter fun i => i.inStep).map (·.iid)
  let p := mine.foldl (fun q iid => abortInst set iid q) p
  let p := ended.foldl (fun q c => feed set c.group c.rid stAborted q) p
  pruneRings { p with
    hollow.pushWait := p.hollow.pushWait.filter fun x => p.tasks.runs.any fun r => r.iid == x.1 && r.task == x.2 }

/-- What ends a command that may have failed the step, freed a core or ended a task: an abort that is due begins, a
commit that waits for a slot looks again, J1 resumes. -/
def finish (set : Settings) (p : Pkg) : Pkg :=
  resumeJ1 set (retrySlots (if p.step.abortDue && !p.step.aborting then beginAbort set p else p))

end Sys2Proof.Machine
end

