-- ==== Sys2Proof/Machine/Launch.lean ====
section
/-! DEFINITION. The launch of a task (R78, R89, R93, R111, R141, R142): its tensor descriptors, the versions and queue
slots its windows read (R262, R266, R275), and how it starts. -/

namespace Sys2Proof.Machine

/-! ### Tensors at launch -/

/-- How a tensor resolves: refused, in the window of a ring whose version has retired, or at its place with the version
it holds. -/
inductive Placed where
  | bad
  | retired
  | ok (t : Tensor) (hold : Option (Nat × Nat))
  deriving DecidableEq, Repr

/-- HSLOT of the context (R181). -/
def hslotBad (j1 : Bool) (t : Tensor) : Bool :=
  t.hslot != 0xFFFF && (if j1 then t.hslot < 6144 || 8192 ≤ t.hslot else 6144 ≤ t.hslot)

/-- The version number a task is given (R111). -/
def versionGiven (p : Pkg) (d : List Byte) : Nat := if tVmode d == 2 then tStamp d else p.rings.version

/-- A tensor in a ring's view window (R262). -/
def placeRing (p : Pkg) (d : List Byte) (r : Nat) (t : Tensor) : Placed :=
  if tVmode d == 0 then .bad
  else
    match ringOf p r with
    | none => .bad
    | some ring =>
      match throughRing ring ⟨0, 0, 0⟩ t with
      | none => .bad
      | some _ =>
        match liveVersion ring (versionGiven p d) with
        | none => .retired
        | some v => match throughRing ring v t with
          | some t => .ok t (some (r, v.num))
          | none => .bad

/-- A tensor in a queue's view window (R275). -/
def placeQueue (p : Pkg) (iid k : Nat) (t : Tensor) : Placed :=
  let n := k / 2
  let grad := k % 2 == 1
  let s := stageAt p n
  match s.msgs.find? fun m => m.grad == grad && m.who == some iid with
  | none => .bad
  | some m =>
    if !s.on then .bad
    else match throughQueue k (s.base grad) (s.slotSize grad) m.slot t with
      | some t => .ok t none
      | none => .bad

/-- Where a tensor's bytes really lie, under R89, R262, R275 and R361. -/
def placeTensor (p : Pkg) (i : Inst) (d : List Byte) (out : Bool) (t : Tensor) : Placed :=
  if !touchesWindow t then
    if (tensorRanges t).all fun r => mayAddress p i.j1 r.1 r.2 then .ok t none else .bad
  else if out || i.j1 then .bad
  else match areaOf t.addr with
    | .ring r _ => placeRing p d r t
    | .queue k _ => placeQueue p i.iid k t
    | _ => .bad

/-- What a launch finds: a failure with its status and the address of an uncorrectable error, or the tensors. -/
inductive Prep where
  | fails (status : Nat) (err : Option Nat)
  | go (tn : List Tensor) (holds : List (Nat × Nat))
  deriving DecidableEq, Repr

/-- A block of memory that a launch reads for its context (R362, R588): BAD_PARAM where the context may not address, an
uncorrectable error (R378). -/
def blockError (set : Settings) (p : Pkg) (j1 : Bool) (a n : Nat) : Option (Nat × Option Nat) :=
  if n == 0 then none
  else if !mayAddress p j1 a n then some (stBadParam, none)
  else (readError set p a n).map fun x => (stMem, some x)

/-- Place every tensor, BAD_PARAM before VERSION_RETIRED. -/
def placeAll (p : Pkg) (i : Inst) (d : List Byte) (outs : List Nat) (tn : List Tensor) : Prep :=
  let rs := ((List.range tn.length).zip tn).map fun x => placeTensor p i d (outs.elem x.1) x.2
  if rs.any (· == .bad) then .fails stBadParam none
  else if rs.any (· == .retired) then .fails stRetired none
  else .go (rs.filterMap fun r => match r with | .ok t _ => some t | _ => none)
    (rs.filterMap fun r => match r with | .ok _ h => h | _ => none)

/-- The descriptors of a task as R89 admits them, read now (R78); the extents and addresses of those that `given` names
come from elsewhere (R131). -/
def readDescs (set : Settings) (p : Pkg) (i : Inst) (d : List Byte) (given : List Nat) : Prep :=
  let n := tCount d
  if tEpoch d != 0xFFFF && tEpoch d != p.reshard.epoch then .fails stBadState none
  else
    match blockError set p i.j1 (tBase d) (64 * n) with
    | some (st, x) => .fails st x
    | none =>
      let bs := chunksOf 64 n (readMem set p (tBase d) (64 * n))
      if bs.any descBad || (bs.map parseTensor).any (hslotBad i.j1) ||
          ((List.range n).zip bs).any (fun x => !given.elem x.1 && geomBad (parseTensor x.2)) then .fails stBadParam none
      else .go (bs.map parseTensor) []

/-- Descriptors read and placed. -/
def prepare (set : Settings) (p : Pkg) (i : Inst) (d : List Byte) (outs : List Nat) : Prep :=
  match readDescs set p i d [] with
  | .fails st x => .fails st x
  | .go tn _ => placeAll p i d outs tn

/-- An output shares a byte with another tensor of the task (R89). -/
def sharesOther (tn : List Tensor) (out : Nat) (named : List Nat) : Bool :=
  named.any fun k => k != out && shareByte (tn.getD out noTensor) (tn.getD k noTensor)

/-! ### The start of a task -/

/-- The stamp of a micro-batch is the version given under VMODE 1 to the first of its tasks that receives one, with the
epoch stored with that version (R266). -/
def stampFirst (i : Inst) (d : List Byte) (holds : List (Nat × Nat)) (p : Pkg) : Pkg :=
  match i.origin, holds with
  | .fixture stage entry, (r, v) :: _ =>
    let mb := ((fixtureOf p entry).map fun f => le f.entry 14 2).getD i.num
    if tVmode d == 1 && !(p.rings.stamps.any fun s => s.stage == stage && s.mb == mb) then
      let epoch := (((ringOf p r).bind fun x => liveVersion x v).map (·.epoch)).getD p.reshard.epoch
      { p with rings.stamps := p.rings.stamps ++ [⟨stage, mb, v, epoch⟩] }
    else p
  | _, _ => p

/-- A task starts on its unit: it takes its tokens and credits (R93) and other tasks are looked at again (R94). -/
def startRun (set : Settings) (i : Inst) (task : Nat) (r : Run) (p : Pkg) : Pkg :=
  let d := i.desc task
  let p := stampFirst i d r.holds p
  let p := { p with tasks.runs := p.tasks.runs ++ [r] }
  settleTasks set i.iid (modInst i.iid (fun i => { i with
    toks := takeTokens d i.toks, tasks := i.tasks.set task .running }) p)

/-- A task fails at launch and does nothing; an uncorrectable error that it read is counted (R378). -/
def failLaunch (set : Settings) (i : Inst) (task unit status : Nat) (err : Option Nat) (p : Pkg) : Pkg :=
  let p := match err with | some x => memError set x p | none => p
  failTask set i.iid task status unit p

/-- Launch a task of a type when it may be launched now (R93 to R97); without a grove it fails (R96). -/
def launchAs (type iid task : Nat) (f : Inst → Nat → Settings → Pkg → Pkg) (set : Settings) (p : Pkg) : Pkg :=
  match launchable set p iid task type with
  | none => p
  | some (_, none) => finish set (failTask set iid task stGroveFenced 0xFFFF p)
  | some (i, some u) => finish set (f i u set p)

/-! ### What a running task has done so far -/

/-- Work up to the first tile that is checked and not yet evaluated: unchecked tiles become strips. -/
def openWork (expand : Tile → List Work) : List Work → List Work
  | [] => []
  | .strip k ws :: rest => .strip k ws :: openWork expand rest
  | .tile t :: rest => if t.checked then .tile t :: rest else expand t ++ openWork expand rest

/-- Bytes that some writes touch, each counted once. -/
def bytesTouched (ws : List WOp) : Nat :=
  ((ws.flatMap fun o => (List.range o.range.2).map fun i => o.range.1 + i).eraseDups).length

/-- Writes of an element of a tensor. -/
def elemsOf (t : Tensor) (ws : List WOp) : Nat :=
  ws.countP fun o => isElem o && (rowRanges t).any fun r => r.1 ≤ o.range.1 && o.range.1 < r.1 + r.2

/-- What a strip adds to the counter of its command: the bytes a copy writes (R376), the elements a chain writes to
OUT0 (R195). -/
def written (d : List Byte) (r : Run) (ws : List WOp) : Nat :=
  if tType d == 0x50 then bytesTouched ws
  else if tType d == 0x10 then
    let o := (parseChain (tBody d)).out0
    if o == 0xFF then 0 else elemsOf (r.tensors.getD o noTensor) ws
  else 0

/-- Apply the strips at the front of the work whose number `upto` admits, with the sum of what `count` says of them; stops
at a tile, or at a write that meets an uncorrectable error, whose address is returned (R378). -/
def applyFront (set : Settings) (upto : Nat → Bool) (count : List WOp → Nat) :
    List Work → Nat → Pkg → Pkg × List Work × Nat × Option Nat
  | [], n, p => (p, [], n, none)
  | .tile t :: rest, n, p => (p, .tile t :: rest, n, none)
  | .strip k ws :: rest, n, p =>
    if upto k then
      match applyOps set ws p with
      | (q, none) => applyFront set upto count rest (n + count ws) q
      | (q, some x) => (q, .strip k ws :: rest, n, some x)
    else (p, .strip k ws :: rest, n, none)

/-- The tensors of a tile's group. -/
def tileTensors (r : Run) (g : Nat) : List Tensor := if r.groups.isEmpty then r.tensors else r.groups.getD g []

/-- The matrix body of a task; the operands of a grouped one stand behind its descriptors. -/
def matOf (d : List Byte) : MatBody :=
  if tType d == 0x02 then operandsApart (parseMat true (tBody d)) (tCount d) else parseMat false (tBody d)

/-- Memory as a task on a core reads it: bytes prefetched there for the task stand as they were (R108). -/
def fetchedView (set : Settings) (iid task core : Nat) (p : Pkg) : Pkg :=
  (p.tasks.fetched.filter fun f => f.iid == iid && f.task == task && f.core == core).foldl
    (fun q f => { q with mem.cells := cellsWrite set f.addr f.bytes q.mem.cells }) p

/-- X of R142: 0 for the blocks of a command. -/
def taskX (i : Inst) (task : Nat) : Nat := if i.parts.isEmpty then task else 0

/-- The groups of a grouped product whose C regions hold the byte at `a`, from the ranges of each group's C. -/
def sharers (cs : List (List (Nat × Nat))) (a : Nat) : List Nat :=
  (List.range cs.length).filter fun h => (cs.getD h []).any fun r => r.1 ≤ a && a < r.1 + r.2

/-- The byte at `a` takes the value of group `g` (R133): `g` alone writes it, or is the one of several whose value it holds, which
the manual leaves open (a free value, log entry 90). -/
def ownsByte (iid task : Nat) (cs : List (List (Nat × Nat))) (g a : Nat) : Bool :=
  let hs := sharers cs a
  hs.length ≤ 1 || hs.getD (Config.groupOwner iid task a % hs.length) g == g

/-- A write cut down to the bytes that `own` admits; its counts stay. -/
def keepBytes (own : Nat → Bool) (o : WOp) : List WOp :=
  let cut (a : Nat) (bs : List Byte) : List WOp :=
    ((List.range bs.length).filter fun i => own (a + i)).map fun i => .bytes (a + i) [bs.getD i 0]
  if (List.range o.range.2).all fun i => own (o.range.1 + i) then [o]
  else match o with
    | .put slot a n b t => .tally slot t :: cut a (leBytes n b)
    | .nib slot _ _ _ t => [.tally slot t]
    | .bytes a bs => cut a bs
    | .accum _ _ _ _ => [o]
    | .tally _ _ => [o]

/-- The work of a tile of group `g` without the bytes that hold another group's value (R133); the parts of one command share
their choices (`x`). -/
def groupWork (r : Run) (x c g : Nat) (ws : List Work) : List Work :=
  let cs := r.groups.map fun tn => tensorRanges (tn.getD c noTensor)
  let mine := cs.getD g []
  if (List.range cs.length).all fun h => h == g || !((cs.getD h []).any fun x => mine.any fun y => overlaps x.1 x.2 y.1 y.2)
  then ws
  else ws.map fun w => match w with
    | .strip k os => .strip k (os.flatMap (keepBytes (ownsByte r.iid x cs g)))
    | .tile t => .tile t

/-- A finished tile of a running task (`x` as in R142), as strips; its epilogue reads prefetched operands as R108 says. -/
def expandTile (set : Settings) (p : Pkg) (d : List Byte) (x : Nat) (r : Run) (t : Tile) : List Work :=
  groupWork r x (matOf d).c t.group
    (tileWork set (fetchedView set r.iid r.task r.unit p) (matOf d) (tileTensors r t.group) r.epi t)

/-- A write of a running task met an uncorrectable error (R378). -/
def failMem (set : Settings) (iid task : Nat) (x : Nat) (p : Pkg) : Pkg :=
  failRun set iid task stMem (memError set x p)

/-- Bring a running task's writes up to the strips that `upto` admits; it fails when one meets an uncorrectable error,
and `none` says so. -/
def advance (set : Settings) (upto : Nat → Bool) (iid task : Nat) (p : Pkg) : Pkg × Bool :=
  match instOf p iid, runOf p iid task with
  | some i, some r =>
    let work := openWork (expandTile set p (i.desc task) (taskX i task) r) r.work
    match applyFront set upto (written (i.desc task) r) work 0 p with
    | (q, rest, n, x) =>
      let q := modInst iid (fun i => { i with bytes := i.bytes + n }) q
      match x with
      | none => (modRun iid task (fun r => { r with work := rest }) q, true)
      | some x => (failMem set iid task x q, false)
  | _, _ => (p, false)

end Sys2Proof.Machine
end

