-- ==== Sys2Proof/Machine/Faults.lean ====
section
/-! DEFINITION. Units that fail: the tasks they lose (R96), fault counts (R516), fencing of groves and dies (R430,
R517). -/

namespace Sys2Proof.Machine

/-- The grove of a core or a control core (R531); base-die engines have none. -/
def groveOfUnit (u : Nat) : Option Nat :=
  if u < 512 then some (u / 32) else if u < 0x0210 then some (u - 0x0200) else none

/-- Every running task that `f` names fails. -/
def failRuns (set : Settings) (f : Run → Bool) (status : Run → Nat) (p : Pkg) : Pkg :=
  (p.tasks.runs.filter f).foldl (fun q r => failRun set r.iid r.task (status r) q) p

/-- Bit 0 of FAIL_MASK for a failure that concerns the open step (R211). -/
def failOpen (status : Nat) (p : Pkg) : Pkg := failLive 0 status p

/-- Fence a grove (R517): its tasks fail, the log and source 384 tell of it. -/
def fenceGrove (set : Settings) (g : Nat) (byHost : Bool) (p : Pkg) : Pkg :=
  if bit p.integ.fenced g then p
  else
    let was := p.boot.degraded
    let p := { p with
      integ.fenced := setBit p.integ.fenced g
      integ.byHost := if byHost then setBit p.integ.byHost g else p.integ.byHost }
    let p := failRuns set (fun r => groveOfUnit r.unit == some g) (fun _ => stGroveFenced) p
    let p := tearCommit stGroveFenced p
    let p := refresh (log 0x0D01 stGroveFenced (0x0200 + g) [] p)
    if p.boot.degraded == was then raise 384 p else p

/-- A core's fault count rises, and fences its grove when it reaches FENCE_AT (R516, R517). -/
def countFault (set : Settings) (c : Nat) (p : Pkg) : Pkg :=
  let p := { p with integ.faults := modAt p.integ.faults c fun v => satAdd 15 v 1 }
  if p.integ.fenceAt != 0 && p.integ.fenceAt ≤ p.integ.faults.getD c 0 then fenceGrove set (c / 32) false p else p

/-- A checker probe of a core, a control core or an accumulate unit fails (R505): bits 0 and 1 of FAIL_MASK, as R501 gives
for class 10; its event-log entry goes under the KIND of a ledger failure (DESIGN CHOICE, log entry 35). -/
def probeFails (set : Settings) (u : Nat) (p : Pkg) : Pkg :=
  let p := { p with integ.probeFails := satAdd 0xFFFF p.integ.probeFails 1 }
  let p := failLive 1 stLedger (failLive 0 stLedger (log 0x0301 stLedger u [] (detect 10 p)))
  if u < 512 then countFault set u p
  else if u < 0x0210 then countFault set (32 * (u - 0x0200)) p
  else if 0x0600 ≤ u && u < 0x0610 then failStack (u - 0x0600) p else p

/-- PKG_WDI_STAT(d) changes; a change of STATE fires source 368 + d (R433, R457). -/
def setDie (d : Nat) (st : DieState) (reason : Nat) (p : Pkg) : Pkg :=
  if (p.dies.getD d {}).state == st then modDie d (fun x => { x with reason := reason }) p
  else raise (368 + d) (modDie d (fun x => { x with state := st, reason := reason }) p)

/-- A unit on a die: its cores and control cores. -/
def onDie (d u : Nat) : Bool := match groveOfUnit u with | some g => g / 4 == d | none => false

/-- The requests that wait on a die complete with DIE_FENCED: those of another die get that response (R430). -/
def endWaiting (d : Nat) (p : Pkg) : Pkg :=
  (p.dies.getD d {}).waiting.foldl (fun q w => completeWait w stDieFenced q) (modDie d (fun x => { x with waiting := [] }) p)

/-- The control cores of a die or of a reset grove service nothing any more (R464, R523; DEDUCED). -/
def endServices (f : Nat → Bool) (p : Pkg) : Pkg :=
  { p with ic.running := (List.range 17).map fun t => if f t then [] else p.ic.running.getD t [] }

/-- Fence a die (R430, R201): no flit is sent to it from then on, what waits on it completes, its tasks fail, and a step
that is OPEN or SEALING aborts at once with bit 7. -/
def fenceDie (set : Settings) (d reason : Nat) (p : Pkg) : Pkg :=
  if (p.dies.getD d {}).state != .up then p
  else
    let p := endServices (fun t => t < 16 && t / 4 == d) (endWaiting d (setDie d .fenced reason p))
    let p := failRuns set (fun r => onDie d r.unit) (fun _ => stDieFenced) p
    let p := if stepLive p then
        modStep (fun s => { s with abortDue := true }) (failStep 7 stDieFenced p)
      else p
    let p := tearCommit stDieFenced p
    refresh (log 0x0D03 stDieFenced (0x0400 + d) [] p)

end Sys2Proof.Machine
end

