-- ==== Sys2Proof/Machine/CoreTasks.lean ====
section
/-! DEFINITION. Core tasks: matrix products (R120 to R133), vector chains (R151 to R199), the completion of a task (R92,
R143), the ledger and the shadow lane (R138 to R145, R189 to R191), J1 tiles and prefetch (R98, R107). -/

namespace Sys2Proof.Machine

/-! ### Prefetched bytes (R107, R108) -/

def dropFetched (iid task : Nat) (p : Pkg) : Pkg :=
  { p with tasks.fetched := p.tasks.fetched.filter fun f => !(f.iid == iid && f.task == task) }

/-- A J0 task waits on peer tokens alone, and names a tensor to prefetch (R107). -/
def prefetchable (p : Pkg) (i : Inst) (task : Nat) : Bool :=
  let d := i.desc task
  let peer (e : Edge) : Bool := match i.graph.bind (graphOf p) with
    | some g => kFeeder (g.tokens.getD e.token []) == 2 || kFeeder (g.tokens.getD e.token []) == 3
    | none => false
  !i.j1 && !i.noMore && isCoreTask (tType d) && tPrefetch d != 0xFF && (tIns d).any peer &&
    i.tasks.getD task .complete == .waiting && (tIns d).all fun e => peer e || e.count ≤ (tokOf i e.token).count

/-- No task is ahead of one that is not ready yet for core `c` (R96, R107): a ready task that goes there, or, of those
that wait on peer tokens alone, one with the lower GRAPH_ID, the earlier instance or the lower index (DEDUCED, log entry
74: none of them has become ready, so the tie-breaks of R96 remain). -/
def nextOnCore (set : Settings) (p : Pkg) (i : Inst) (task c : Nat) : Bool :=
  let ready := (readyTasks p).any fun x =>
    isCoreTask (tType (x.1.desc x.2.1)) && !x.1.j1 && placeUnit set p (x.1.desc x.2.1) false == some c
  let rival := p.tasks.insts.any fun j => (List.range j.tasks.length).any fun k =>
    prefetchable p j k && before (rankOfTask j k 0) (rankOfTask i task 0) && placeCore set p (j.desc k) false == some c
  !ready && !rival

/-- A core reads the start of the tensor that PREFETCH names, row by row, for a J0 task whose other edges hold and that is
the next to take the core (R107). Nothing is copied where a read fails. -/
def prefetch (set : Settings) (iid task : Nat) (p : Pkg) : Pkg :=
  match instOf p iid with
  | none => p
  | some i =>
    let d := i.desc task
    match placeCore set p d false, readDescs set p i d [] with
    | some c, .go tn _ =>
      if !prefetchable p i task || !nextOnCore set p i task c then p
      else match placeTensor p i d false (tn.getD (tPrefetch d) noTensor) with
        | .ok t _ =>
          let rows := (rowRanges t).foldl (fun (acc : Nat × List (Nat × Nat)) r =>
            let n := min r.2 (0x100000 - acc.1)
            (acc.1 + n, if n == 0 then acc.2 else acc.2 ++ [(r.1, n)])) (0, [])
          if rows.2.any fun r => (readError set p r.1 r.2).isSome then p
          else
            let p := dropFetched iid task p
            { p with tasks.fetched := p.tasks.fetched ++ rows.2.map fun r => ⟨iid, task, c, r.1, readMem set p r.1 r.2⟩ }
        | _ => p
    | _, _ => p

def execPrefetch (inst task : Nat) (s : State) : Host.Outcome State Fault Refusal :=
  onP (fun set p => prefetch set inst task p) s

/-! ### Errors met by reads (R378) -/

def healthy (p : Pkg) : Bool := p.mem.failed == 0 && p.mem.bad.isEmpty

/-- The first byte of an element, or its scale, whose read fails. -/
def elemError (set : Settings) (p : Pkg) (t : Tensor) (pos : List Nat) : Option Nat :=
  (readError set p (elemAddr t pos) (elemBytes t)).or
    (if t.scaled then readError set p (scaleAddrOf t pos) 1 else none)

/-- The first failing read of a tile's operands. -/
def tileError (set : Settings) (p : Pkg) (m : MatBody) (tn : List Tensor) (t : Tile) : Option Nat :=
  if healthy p then none
  else
    let ks := List.range t.kLen
    (firstSome (fun i => firstSome (fun k => elemError set p (tn.getD m.a noTensor) (posA m (tn.getD m.a noTensor) i k t.batch)) ks)
      t.rows).or
    ((firstSome (fun j => firstSome (fun k => elemError set p (tn.getD m.b noTensor) (posB m (tn.getD m.b noTensor) k j t.batch)) ks)
      t.cols).or
    (if m.acc then firstSome (fun i => firstSome (fun j =>
      elemError set p (tn.getD m.c noTensor) (posC m i j t.batch)) t.cols) t.rows else none))

/-- The first failing read of a chain at one position. -/
def posError (v : ChainEnv) (c : Chain) (res : List StageRes) (n : Nat) (pos : List Nat) : Option Nat :=
  let elem (k : Nat) (q : List Nat) : Option Nat := elemError v.set v.p (v.t k) q
  let plain (k : Nat) : Option Nat := elem k (clipPos (v.t k).ext pos)
  let stage (w : Nat) : Option Nat :=
    (firstSome plain (plainSources w)).or
      (if stOp w == 0x40 then
        let t := v.t (stA w - 1)
        let idx := if stB w ≤ 16 then elemBits v.set v.p (v.t (stB w - 1)) (clipPos (v.t (stB w - 1)).ext pos)
          else (sourceAt v c res 0 (stB w) n pos).toNat
        (if stB w ≤ 16 then plain (stB w - 1) else none).or
          (if idx < t.e (stAxis w) then
            elem (stA w - 1) (setAxis (clipPos (t.ext.set (stAxis w) 2) pos) (stAxis w) idx) else none)
      else if stOp w == 0x43 then
        let t := v.t (stA w - 1)
        if active v c pos && rankOf v c pos < t.e 1 then
          elem (stA w - 1) (setAxis (clipPos (t.ext.set 1 2) pos) 1 (rankOf v c pos)) else none
      else if stOp w == 0x1C && 5 ≤ stMod w then
        let t := v.t (stB w - 1)
        readError v.set v.p (elemAddr t ((pos.getD 0 0 / 8) :: (clipPos t.ext pos).drop 1)) 1
      else none)
  (if c.mask == 0xFF then none else plain c.mask).or (firstSome stage (c.used.map c.stage))

/-- The first position, with the address, at which a chain's reads fail. -/
def chainError (v : ChainEnv) (c : Chain) : Option (List Nat × Nat) :=
  if healthy v.p then none
  else
    let res := runStages v c c.used []
    firstSome (fun x : Nat × List Nat => if inPart v x.2 then (posError v c res x.1 x.2).map fun a => (x.2, a) else none)
      ((List.range v.ps.length).zip v.ps)

/-! ### Matrix products -/

/-- The tiles of one product in a part (R126), with the numbers of R142. -/
def productTiles (set : Settings) (p : Pkg) (s x : Nat) (m : MatBody) (tn : List Tensor) (g base ord bm bn : Nat)
    (part : Part) : List Tile :=
  let sh := shapeOf m (tn.getD m.a noTensor) (tn.getD m.b noTensor) (tn.getD m.c noTensor)
  let (be0, nb, m0, mc, n0, nc) := match part with
    | .block _ be a b c d => (be, 1, a, b, c, d)
    | _ => (0, batches sh, (rangeOf m sh).1, (rangeOf m sh).2.1, (rangeOf m sh).2.2.1, (rangeOf m sh).2.2.2)
  if sh.m == 0 || sh.n == 0 || batches sh == 0 then []
  else
    let places := tileOrder nb m0 mc n0 nc bm bn
    ((List.range places.length).zip places).map fun y =>
      let be := be0 + y.2.1
      makeTile set p m tn g (ord + y.1)
        (checkedTile set.c1 s x (tileNumber sh base be y.2.2.1 y.2.2.2)) (posOf sh.batch be)
        (tileLines y.2.2.1 m0 mc) (tileLines y.2.2.2 n0 nc) sh.k

/-- S of R142: for J0 work the step that was OPEN when its instance was accepted, which holds for each of its tasks
until the step ends (DESIGN CHOICE, log entry 71: R142's "launch" may also mean the task's); else the number the instance
runs under. -/
def stepOf (i : Inst) : Nat := if i.j1 then i.num else i.step.getD i.num

/-- The block that a task uses, when it fits (R127). -/
def blockOf (set : Settings) (i : Inst) (m : MatBody) (tn : List Tensor) (part : Part) : Option (Nat × Nat) :=
  let a := tn.getD m.a noTensor
  let b := tn.getD m.b noTensor
  let sh := shapeOf m a b (tn.getD m.c noTensor)
  let share := storeShare set.filler i.j1
  match part with
  | .block _ _ _ mc _ nc => some (ceilDiv mc 64, ceilDiv nc 64)
  | _ =>
    let r := rangeOf m sh
    let bl := taskBlock share m a b (ceilDiv r.2.1 64) (ceilDiv r.2.2.2 64)
    if blockFits share a b (m.epi != 0) bl.1 bl.2 then some bl else none

/-- Outputs of a matrix task: C and the epilogue's OUT1. -/
def matOuts (m : MatBody) (epi : Option (List Byte)) : List Nat :=
  m.c :: match epi with
    | some e => let o := (parseChain e).out1; if o == 0xFF then [] else [o]
    | none => []

/-- The epilogue body at EPI_ADDR, read now (R78). -/
def readEpi (set : Settings) (p : Pkg) (j1 : Bool) (m : MatBody) : Except (Nat × Option Nat) (Option (List Byte)) :=
  if m.epi == 0 then .ok none
  else match blockError set p j1 m.epi 64 with
    | some e => .error e
    | none => .ok (some (readMem set p m.epi 64))

/-- The groups a task computes, with their tensors not yet placed, and the tiles before each (R131, R142). -/
def groupList (m : MatBody) (tn : List Tensor) (table : List (List Byte)) : List (Nat × Nat × List Tensor) :=
  let gs := table.map (groupTensors m tn)
  let o := operandsApart m tn.length
  let count (t : List Tensor) : Nat :=
    let sh := shapeOf o (t.getD o.a noTensor) (t.getD o.b noTensor) (t.getD o.c noTensor)
    ceilDiv sh.m 64 * ceilDiv sh.n 64 * batches sh
  ((List.range gs.length).zip gs).map fun x => (x.1, ((gs.take x.1).map count).sum, x.2)

/-- The products of a matrix task: its descriptors, its epilogue and its groups, or how the launch fails. -/
def readProducts (set : Settings) (p : Pkg) (i : Inst) (d : List Byte) :
    Except (Nat × Option Nat) (Option (List Byte) × List (Nat × Nat × List Tensor)) := do
  let grouped := tType d == 0x02
  let m := parseMat grouped (tBody d)
  let tn ← match readDescs set p i d (if grouped then [m.a, m.b, m.c] else []) with
    | .fails st x => .error (st, x)
    | .go tn _ => .ok tn
  let epi ← readEpi set p i.j1 m
  if grouped then
    match blockError set p i.j1 m.table (64 * m.gcount) with
    | some e => .error e
    | none =>
      let table := chunksOf 64 m.gcount (readMem set p m.table (64 * m.gcount))
      if table.any (groupEntryBad m tn) then .error (stBadParam, none)
      else .ok (epi, groupList m tn table)
  else .ok (epi, [(0, 0, tn)])

/-- The checks of R123 on one product once it is placed, with its block. -/
def productBad (set : Settings) (i : Inst) (d : List Byte) (epi : Option (List Byte)) (part : Part) (tn : List Tensor) :
    Bool :=
  let m := matOf d
  matTensorsBad m (fun k => tn.getD k noTensor) (tCount d) i.j1 epi || (blockOf set i m tn part).isNone ||
    [m.a, m.b, m.c].any fun k => geomBad (tn.getD k noTensor)

/-- Place every product; the failure that comes first in R123, or the placed tensors. -/
def placeProducts (set : Settings) (p : Pkg) (i : Inst) (d : List Byte) (part : Part)
    (ps : Option (List Byte) × List (Nat × Nat × List Tensor)) :
    Except (Nat × Option Nat) (List (Nat × Nat × List Tensor) × List (Nat × Nat)) :=
  let m := matOf d
  let rs := ps.2.map fun g => (g, placeAll p i d (matOuts m ps.1) g.2.2)
  let bad := rs.any fun r => match r.2 with
    | .fails st _ => st == stBadParam
    | .go tn _ => productBad set i d ps.1 part tn
  if bad then .error (stBadParam, none)
  else if rs.any fun r => match r.2 with | .fails _ _ => true | .go _ _ => false then .error (stRetired, none)
  else .ok
    (rs.map fun r => (r.1.1, r.1.2.1, match r.2 with | .go tn _ => tn | .fails _ _ => []),
     (rs.flatMap fun r => match r.2 with | .go _ h => h | .fails _ _ => []).eraseDups)

/-- The groups that a part computes. -/
def partGroups (part : Part) (gs : List (Nat × Nat × List Tensor)) : List (Nat × Nat × List Tensor) :=
  match part with
  | .block g _ _ _ _ _ => gs.filter fun x => x.1 == g
  | _ => gs

/-- Tiles of several products in order, numbered through the task. -/
def allTiles (set : Settings) (p : Pkg) (i : Inst) (task : Nat) (m : MatBody) (part : Part) :
    Nat → List (Nat × Nat × List Tensor) → List Tile
  | _, [] => []
  | ord, g :: gs =>
    let bl := (blockOf set i m g.2.2 part).getD (1, 1)
    let ts := productTiles set p (stepOf i) (taskX i task) m g.2.2 g.1 g.2.1 ord bl.1 bl.2 part
    ts ++ allTiles set p i task m part (ord + ts.length) gs

/-- The tensors of the group a tile belongs to. -/
def groupOfTile (gs : List (Nat × Nat × List Tensor)) (g : Nat) : List Tensor :=
  ((gs.find? fun x => x.1 == g).map (·.2.2)).getD []

/-- The run of a matrix task: tiles up to the first that meets an uncorrectable error. -/
def matrixRun (set : Settings) (p : Pkg) (i : Inst) (task u : Nat) (epi : Option (List Byte))
    (gs : List (Nat × Nat × List Tensor)) (holds : List (Nat × Nat)) : Run :=
  let m := matOf (i.desc task)
  let part := i.part task
  let view := fetchedView set i.iid task u p
  let tiles := allTiles set view i task m part 0 (partGroups part gs)
  let err (t : Tile) : Option Nat := tileError set p m (groupOfTile gs t.group) t
  let sound := tiles.takeWhile fun t => (err t).isNone
  let stop := firstSome err tiles
  { iid := i.iid, task, unit := u, j1 := i.j1, began := p.ft.count, tensors := groupOfTile gs 0
    groups := if tType (i.desc task) == 0x02 then
        (List.range gs.length).map (groupOfTile gs) else []
    epi, tau := if m.tau == 0 then p.tasks.tauDef else m.tau, work := sound.map .tile
    fate := if stop.isSome then stMem else 0, holds, err := stop }

/-- A matrix task, plain or grouped, launches on core `u` (R78, R111, R123). -/
def startMatrix (task : Nat) (i : Inst) (u : Nat) (set : Settings) (p : Pkg) : Pkg :=
  let d := i.desc task
  let r := do
    let ps ← readProducts set p i d
    let placed ← placeProducts set p i d (i.part task) ps
    pure (ps.1, placed)
  match r with
  | .error (st, x) => failLaunch set i task u st x p
  | .ok (epi, gs, holds) => startRun set i task (matrixRun set p i task u epi gs holds) p

def execMatrixProduct (inst task : Nat) (s : State) : Host.Outcome State Fault Refusal :=
  onP (launchAs 0x01 inst task (startMatrix task)) s

def execGroupedMatrixProduct (inst task : Nat) (s : State) : Host.Outcome State Fault Refusal :=
  onP (launchAs 0x02 inst task (startMatrix task)) s

/-! ### Vector chains -/

/-- Rows of axis 1 a part covers (R194). -/
def partRows (part : Part) (e1 : Nat) : Nat × Nat :=
  match part with
  | .rows lo hi => (lo, hi)
  | _ => (0, e1)

/-- The outputs of a chain. -/
def chainOuts (c : Chain) : List Nat := [c.out0, c.out1].filter (· != 0xFF)

/-- The run of a vector chain. Strips before the one whose reads fail are written, unless the chain reduces (log entry
30); under STRICT the subset of R176 is free. -/
def chainRun (set : Settings) (p : Pkg) (i : Inst) (task u : Nat) (tn : List Tensor) (holds : List (Nat × Nat)) : Run :=
  let c := parseChain (tBody (i.desc task))
  let view := fetchedView set i.iid task u p
  let rows := partRows (i.part task) ((tn.getD c.iter noTensor).e 1)
  let v := chainEnv set view tn c (i.part task == .whole) rows.1 rows.2
  let base : Run :=
    { iid := i.iid, task, unit := u, j1 := i.j1, began := p.ft.count, tensors := tn, holds }
  let strip (x : Nat × List WOp) : Work := .strip x.1 x.2
  match chainError { v with p := p } c with
  | some (pos, x) =>
    let ws := if c.used.any fun k => isReduction (stOp (c.stage k)) then [] else
        (runChain v c fun e => Config.strictWrote p.free e).ws.filter fun y => y.1 < v.strip pos
    { base with work := ws.map strip, fate := stMem, err := some x }
  | none =>
    let out := runChain v c fun e => Config.strictWrote p.free e
    { base with
      work := out.ws.map strip, rows := out.rows
      fate := if out.range then stIndex else 0
      summary := if out.summary.isEmpty then none else some (c.summary, out.summary) }

/-- A vector chain launches on core `u` (R199). -/
def startChain (task : Nat) (i : Inst) (u : Nat) (set : Settings) (p : Pkg) : Pkg :=
  let d := i.desc task
  let c := parseChain (tBody d)
  match prepare set p i d (chainOuts c) with
  | .fails st x => failLaunch set i task u st x p
  | .go tn holds =>
    if chainTensorsBad c (fun k => tn.getD k noTensor) (tn.getD c.iter noTensor).ext false then
      failLaunch set i task u stBadParam none p
    else
      let r := chainRun set p i task u tn holds
      startRun set i task r (if r.fate == stIndex || c.branchBits then { p with free := p.free + 1 } else p)

def execVectorChain (inst task : Nat) (s : State) : Host.Outcome State Fault Refusal :=
  onP (launchAs 0x10 inst task (startChain task)) s

/-! ### Completion (R92, R143, R180) -/

/-- The summary of a chain, written when it completes (R179, R180). -/
def writeSummary (iid : Nat) (sm : Option (Nat × List W32)) (p : Pkg) : Pkg :=
  match sm with
  | none => p
  | some (slot, ws) =>
    let put (l : List (Nat × List W32)) := (slot, ws) :: l.filter fun x => x.1 != slot
    if slot < 256 then modInst iid (fun i => { i with summ := put i.summ }) p
    else { p with tasks.summ := put p.tasks.summ }

/-- A run's context does nothing: it has stopped at a J1 tile (R98), or its core is parked (R36, R548). -/
def frozen (p : Pkg) (r : Run) : Bool := r.paused || (r.unit < 512 && coreParked p r.unit)

/-- The item at the front of a J1 run's work is the last it does before it stops, when FILLER is OFF (R37): the model
takes each tile or strip pass as one J1 tile (DESIGN CHOICE, log entry 75). -/
def stopsHere (set : Settings) (r : Run) : Bool := r.j1 && !set.filler

/-- A task may end: nothing stops its context, it waits for nobody, and under FILLER = OFF a J1 task has only its
current tile to do. -/
def mayEnd (set : Settings) (p : Pkg) (r : Run) : Bool :=
  !frozen p r && !r.waits && (!stopsHere set r || r.work.length ≤ 1)

/-- The part of a VCHAIN that ends last writes what its reductions over all axes give, and the summary (R194, R195). -/
def lastPart (i : Inst) (task : Nat) : Bool :=
  i.part task != .whole && !i.noMore &&
    (List.range i.tasks.length).all fun k => k == task || i.tasks.getD k .complete == .complete

/-- The end of a divided VCHAIN: the package after it, or the address of an uncorrectable error that its writes meet. -/
def endChain (set : Settings) (i : Inst) (task : Nat) (r : Run) (p : Pkg) : Pkg × Option Nat :=
  let d := i.desc task
  if tType d != 0x10 || !lastPart i task then (p, none)
  else
    let c := parseChain (tBody d)
    let out := joinChain (chainEnv set p r.tensors c true 0 0) c (i.rows ++ r.rows)
    match applyOps set out.1 p with
    | (p, some x) => (p, some x)
    | (p, none) =>
      let p := modInst i.iid (fun i => { i with bytes := i.bytes + written d r out.1 }) p
      (writeSummary i.iid (if out.2.isEmpty then none else some (c.summary, out.2)) p, none)

/-- The end of a task whose writes are done. -/
def finishRun (set : Settings) (iid task : Nat) (r : Run) (p : Pkg) : Pkg :=
  let p := dropFetched iid task p
  let p := modInst iid (fun i => { i with bytes := i.bytes + r.bytes }) p
  if r.fate != 0 then
    failRun set iid task r.fate (match r.err with | some x => memError set x p | none => p)
  else match instOf p iid with
    | none => endTask set iid task p
    | some i => match endChain set i task r p with
      | (p, some x) => failMem set iid task x p
      | (p, none) =>
        endTask set iid task (writeSummary iid r.summary
          (modInst iid (fun i => { i with rows := i.rows ++ r.rows }) p))

/-- A running task completes: the rest of its writes happen; with a checked tile not yet evaluated it does not complete
(R143). A task that met an uncorrectable error in a stack, in SRAM or in its local store fails, and writes nothing more
(R115, R378). -/
def completeTask (iid task : Nat) (errs : List MemErr) (set : Settings) (p : Pkg) : Pkg :=
  match runOf p iid task with
  | none => p
  | some r =>
    if !mayEnd set p r then p
    else if errs.any (·.fatal) then failRun set iid task stMem (meetErrors errs p)
    else match advance set (fun _ => true) iid task (meetErrors errs p) with
      | (p, false) => p
      | (p, true) => match runOf p iid task with
        | none => p
        | some r => if r.work.isEmpty then finishRun set iid task r p else p

def execTaskComplete (inst task : Nat) (s : State) (errs : List MemErr := []) : Host.Outcome State Fault Refusal :=
  onP (fun set p => finish set (completeTask inst task errs set p)) s

/-! ### The ledger (R139 to R145) -/

/-- The log items of a failed tile (R145): the core, the task, the tile's origin, the row and the column, ℓ, σ, λ, τe.
Rows and columns are those of C, an index below 2^16 at its natural size and the origin with 4 bytes; from 65536 on the
low 16 bits of the index stand (DESIGN CHOICE, log entry 71). -/
def ledgerItems (core task : Nat) (t : Tile) (te : Val) : List (List Byte) :=
  let f := failItems t te
  [d2 core, d2 task, d4 (t.rows.headD 0 / 64 * 64), d4 (t.cols.headD 0 / 64 * 64), d2 f.1, d2 f.2.1, d4 f.2.2.1.toNat,
    d4 f.2.2.2.1.toNat, d4 f.2.2.2.2.toNat, d4 (toF32 te).toNat]

/-- What an arithmetic fault of J0 work does to its step (R145, R191, R211, R332). -/
def stepFault (i : Inst) (p : Pkg) : Pkg :=
  if i.inStep && !i.j1 then retractStep (failStep 1 stLedger p) else p

/-- A failed tile is counted and logged (R145). -/
def ledgerMissed (core task : Nat) (t : Tile) (te : Val) (p : Pkg) : Pkg :=
  log 0x0301 stLedger core (ledgerItems core task t te)
    (detect 1 { p with tasks.ledgerMiss := satAdd 0xFFFFFFFF p.tasks.ledgerMiss 1 })

/-- A tile fails (R145). -/
def tileFails (set : Settings) (i : Inst) (task : Nat) (r : Run) (t : Tile) (te : Val) (p : Pkg) : Pkg :=
  countFault set r.unit (stepFault i (failRun set i.iid task stLedger (ledgerMissed r.unit task t te p)))

/-- The tile passes: it is counted, and written when the task goes on. A J1 task that FILLER = OFF stops, and that has
more to do, stops after it (R37). -/
def tilePasses (set : Settings) (i : Inst) (task : Nat) (t : Tile) (rest : List Work) (p : Pkg) : Pkg :=
  modRun i.iid task (fun r => { r with
      work := .tile { t with checked := false } :: rest
      paused := r.paused || (stopsHere set r && !rest.isEmpty) })
    (modInst i.iid (fun i => { i with tiles := i.tiles + 1 }) p)

/-- The step record counts the J0 tiles and comparisons of the step (R144, R236). -/
def countTile (i : Inst) (skips : Nat) (p : Pkg) : Pkg :=
  if i.inStep && !i.j1 then
    countUnchecked skips (modStep (fun s => { s with tiles := satAdd (2 ^ 64 - 1) s.tiles 1 }) p) else p

/-- A checked tile that stands at the front of a run's work is evaluated, with the faults its hardware met. -/
def checkFront (iid task : Nat) (faults : List TileFault) (set : Settings) (p : Pkg) : Pkg :=
  match instOf p iid, runOf p iid task with
  | some i, some r => match r.work with
    | .tile t :: rest =>
      let t := faultTile t faults
      let te := tolerance r.tau t.kLen
      let vs := rowVerdicts t te ++ colVerdicts t te
      let p := countTile i (vs.countP (· == .skip)) p
      if vs.elem .fail then tileFails set i task r t te (modInst iid (fun i => { i with tiles := i.tiles + 1 }) p)
      else tilePasses set i task t rest p
    | _ => p
  | _, _ => p

def atChecked (r : Run) : Bool := match r.work with | .tile t :: _ => t.checked | _ => false

/-- The next checked tile of a task is evaluated once what stands before it is written; a context that is frozen does
nothing, and one that FILLER = OFF stops only ends the tile it is at (R36, R37). -/
def checkTile (iid task : Nat) (faults : List TileFault) (set : Settings) (p : Pkg) : Pkg :=
  match runOf p iid task with
  | none => p
  | some r =>
    if frozen p r || (stopsHere set r && !atChecked r) then p
    else match advance set (fun _ => true) iid task p with
      | (p, false) => p
      | (p, true) => checkFront iid task faults set p

def execTileLedgerCheck (inst task : Nat) (faults : List TileFault) (s : State) : Host.Outcome State Fault Refusal :=
  onP (fun set p => finish set (checkTile inst task faults set p)) s

/-! ### The shadow lane (R189 to R191) -/

/-- A task that passes strips through a vector engine. -/
def hasStrips (i : Inst) (task : Nat) (r : Run) : Bool := tType (i.desc task) == 0x10 || r.epi.isSome

/-- A strip pass of the J1 tile in course, when FILLER = OFF lets no later one begin (R37). -/
def stripInTile (set : Settings) (r : Run) (strip : Nat) : Bool :=
  !stopsHere set r || match r.work with
    | .strip k _ :: _ => strip ≤ k
    | .tile t :: _ => strip < 64 * t.ord + 64
    | [] => true

/-- Strips below this bound are written when pass `pass` of strip `strip` fails: an epilogue has one pass over each. -/
def writtenBound (i : Inst) (task strip pass : Nat) (r : Run) : Nat :=
  let d := i.desc task
  if tType d == 0x10 then
    let c := parseChain (tBody d)
    let channels := c.scaleSel && (r.tensors.getD c.out0 noTensor).channelScaled
    writtenBefore c channels (if c.narrow then 128 else 64) (r.tensors.getD c.iter noTensor).ext strip pass
  else strip + 1

/-- A shadow comparison fails: nothing is written after the failing strip pass (R191). -/
def shadowFails (set : Settings) (i : Inst) (task strip pass stage : Nat) (lane shadow : W32) (r : Run) (p : Pkg) : Pkg :=
  match advance set (fun k => k < writtenBound i task strip pass r) i.iid task p with
  | (p, false) => p
  | (p, true) =>
    let p := { p with tasks.shadowMiss := satAdd 0xFFFFFFFF p.tasks.shadowMiss 1 }
    let idx := (p.tasks.cores.getD r.unit {}).shadow
    let p := log 0x0302 stLedger r.unit [d2 r.unit, d2 task, d2 idx, d2 stage, d4 lane.toNat, d4 shadow.toNat] (detect 2 p)
    countFault set r.unit (stepFault i (failRun set i.iid task stLedger p))

/-- The shadow lane compares pass `pass` of strip `strip` (R189). -/
def shadowCompare (iid task strip pass stage : Nat) (lane shadow : W32) (set : Settings) (p : Pkg) : Pkg :=
  match instOf p iid, runOf p iid task with
  | some i, some r =>
    if frozen p r || !hasStrips i task r || lane == shadow || !stripInTile set r strip then p
    else shadowFails set i task strip pass stage lane shadow r p
  | _, _ => p

def execShadowCompare (inst task strip stage : Nat) (lane shadow : W32) (s : State) (pass : Nat := 0) :
    Host.Outcome State Fault Refusal :=
  onP (fun set p => finish set (shadowCompare inst task strip pass stage lane shadow set p)) s

/-- The shadow index advances at the start of a strip pass once 15.625 µs have passed (R190). -/
def advanceShadow (c : Nat) (p : Pkg) : Pkg :=
  if (p.tasks.cores.getD c {}).shadowAt + 1024000000 ≤ p.ft.count then
    modCore c (fun x => { x with shadow := (x.shadow + 1) % 64, shadowAt := p.ft.count }) p
  else p

def execShadowIndexAdvance (core : Nat) (s : State) : Host.Outcome State Fault Refusal :=
  onP (fun _ p => advanceShadow core p) s

/-! ### J1 tiles (R37, R98) -/

/-- The ready J0 task that takes a core first (R96). -/
def bestFor (set : Settings) (p : Pkg) (c : Nat) : Option (Inst × Nat) :=
  ((readyTasks p).filter fun x =>
    !x.1.j1 && isCoreTask (tType (x.1.desc x.2.1)) && placeUnit set p (x.1.desc x.2.1) false == some c).foldl
    (fun best x => match best with
      | none => some x
      | some b => if before x.2.2 b.2.2 then some x else some b) none |>.map fun x => (x.1, x.2.1)

/-- A core task of either kind launches. -/
def startCore (task : Nat) (i : Inst) (u : Nat) (set : Settings) (p : Pkg) : Pkg :=
  if tType (i.desc task) == 0x10 then startChain task i u set p else startMatrix task i u set p

/-- The J1 context of a core stops at the end of its tile. -/
def pauseJ1 (c : Nat) (p : Pkg) : Pkg :=
  { p with tasks.runs := p.tasks.runs.map fun r => if r.j1 && r.unit == c then { r with paused := true } else r }

/-- A J1 tile ends: the core goes to a J0 task that is ready for it, stops when FILLER is OFF, or goes on. -/
def tileEnd (c : Nat) (set : Settings) (p : Pkg) : Pkg :=
  if p.tasks.runs.any fun r => r.j1 && r.unit == c && !r.paused then
    let q := pauseJ1 c p
    match bestFor set q c with
    | some (i, task) => startCore task i c set q
    | none => if set.filler then p else q
  else p

def execJ1TileEnd (core : Nat) (s : State) : Host.Outcome State Fault Refusal :=
  onP (fun set p => finish set (tileEnd core set p)) s

end Sys2Proof.Machine
end

