-- ==== Sys2Proof/Machine/BaseTasks.lean ====
section
/-! DEFINITION. Tasks of the control cores and of the base die: joins and branches (R102 to R106), copies (R371 to R376),
the hollow (R239 to R253), sends (R282, R283). -/

namespace Sys2Proof.Machine

/-! ### Joins and branches -/

/-- A task that takes no time: it takes its tokens and completes. -/
def passTask (set : Settings) (i : Inst) (task u : Nat) (p : Pkg) : Pkg :=
  endTask set i.iid task (startRun set i task { iid := i.iid, task, unit := u, j1 := i.j1, began := p.ft.count } p)

/-- A join launches: its descriptors and its EPOCH are checked as any task's (R89, R111), and it completes. -/
def startJoin (task : Nat) (i : Inst) (u : Nat) (set : Settings) (p : Pkg) : Pkg :=
  match prepare set p i (i.desc task) [] with
  | .fails st x => failLaunch set i task u st x p
  | .go _ _ => passTask set i task u p

def execJoin (inst task : Nat) (s : State) : Host.Outcome State Fault Refusal :=
  onP (launchAs 0x60 inst task (startJoin task)) s

/-- The eight words of a summary slot; canonical NaN until a chain writes them (R179). -/
def summaryAt (p : Pkg) (i : Inst) (slot : Nat) : List W32 :=
  (((if slot < 256 then i.summ else p.tasks.summ).find? fun x => x.1 == slot).map (·.2)).getD (List.replicate 8 f32NaN)

/-- An entry of a branch table matches (R102, R103): a comparison with a NaN is false, NE true. -/
def branchMatch (e : List Byte) (words : List W32) : Bool :=
  let w := words.getD (le e 0 1) f32NaN
  let t : W32 := BitVec.ofNat 32 (le e 4 4)
  match le e 1 1 with
  | 0 => flt w t
  | 1 => flt w t || feq w t
  | 2 => flt t w
  | 3 => flt t w || feq w t
  | 4 => feq w t
  | 5 => !feq w t
  | 6 => isNonFinite w
  | _ => true

/-- The subgraph a table chooses (R105). -/
def branchChoice (table : List Byte) (words : List W32) : Nat :=
  match ((List.range (le table 1 1)).map fun k => (table.drop (8 + 8 * k)).take 8).find? fun e => branchMatch e words with
  | some e => le e 2 1
  | none => le table 2 1

/-- A branch task (R105, R106). -/
def startBranch (task : Nat) (i : Inst) (u : Nat) (set : Settings) (p : Pkg) : Pkg :=
  let b := tBody (i.desc task)
  match prepare set p i (i.desc task) [], p.tasks.branches.find? fun t => le t 0 1 == le b 0 1 with
  | .fails st x, _ => failLaunch set i task u st x p
  | .go _ _, none => failTask set i.iid task stBadState u p
  | .go _ _, some table =>
    let c := branchChoice table (summaryAt p i (le b 2 2))
    let subs := branchSubs b
    if !subs.elem c then failTask set i.iid task stBadParam u p
    else
      let p := modInst i.iid (fun i => { i with
        chosen := i.chosen ++ [c], unchosen := i.unchosen ++ subs.filter (· != c) }) p
      passTask set i task u p

def execBranch (inst task : Nat) (s : State) : Host.Outcome State Fault Refusal :=
  onP (launchAs 0x70 inst task (startBranch task)) s

/-! ### Packed elements (R247, R276) -/

/-- The elements of a tensor as stored bits, in ascending linear order. -/
def elemList (set : Settings) (p : Pkg) (t : Tensor) : List Nat :=
  (List.range t.size).map fun n => elemBits set p t (posOf t.ext n)

/-- Elements of a format packed without padding. -/
def packElems (code n : Nat) : List Nat → List Byte
  | [] => []
  | [x] => if code == 7 then leBytes 1 x else leBytes n x
  | x :: y :: rest =>
    if code == 7 then leBytes 1 (x + 16 * y) ++ packElems code n rest
    else leBytes n x ++ packElems code n (y :: rest)

/-- The packed elements of a tensor. -/
def packTensor (set : Settings) (p : Pkg) (t : Tensor) : List Byte := packElems t.code (elemBytes t) (elemList set p t)

/-- The scale array of a tensor as bytes. -/
def scaleList (set : Settings) (p : Pkg) (t : Tensor) : List Byte :=
  if t.scaled then readMem set p t.scaleAddr (scaleBytes t) else []

/-- The `n` elements that packed bytes hold. -/
def unpackElems (t : Tensor) (bs : List Byte) : List Nat :=
  (List.range t.size).map fun n =>
    if t.code == 7 then bits (le bs (n / 2) 1) (if n % 2 == 0 then 3 else 7) (if n % 2 == 0 then 0 else 4)
    else le bs (n * elemBytes t) (elemBytes t)

/-- Store raw elements and scales without a conversion, counted by what they decode to (R183): one strip for each row of
axis 0, the scales with the first. -/
def storeRaw (t : Tensor) (elems : List Nat) (scales : List Byte) : List Work :=
  if t.size == 0 then []
  else
    let e0 := t.e 0
    let sc (pos : List Nat) : Option Nat := if t.scaled then some (le scales (scaleAddrOf t pos - t.scaleAddr) 1) else none
    let row (k : Nat) : List WOp := (List.range e0).map fun i =>
      let pos := posOf t.ext (k * e0 + i)
      let b := elems.getD (k * e0 + i) 0
      putElem t pos b (storedTally (decodeScaled t.fmt b (sc pos)))
    (List.range (t.size / e0)).map fun k =>
      .strip k ((if k == 0 && t.scaled then [.bytes t.scaleAddr scales] else []) ++ row k)

/-! ### Copies (R374, R375) -/

/-- The rules of R375 on the tensors of a copy. -/
def copyTensorsBad (op : Nat) (s d : Tensor) : Bool :=
  if op == 3 then d.scaled || d.code == 1
  else
    s.ext != d.ext || (shareByte s d && !sameTensor s d) ||
      match op with
      | 0 => s.format != d.format || d.code == 1
      | 1 => d.scaled || d.code == 1
      | _ => !((s.code == 0 || s.code == 2) && !s.scaled && (d.code == 0 || d.code == 2) && !d.scaled)

/-- The strips of a copy: one for each row of axis 0. -/
def copyWork (set : Settings) (p : Pkg) (op : Nat) (s d : Tensor) : List Work :=
  if d.size == 0 then []
  else if op == 0 then storeRaw d (elemList set p s) (scaleList set p s)
  else
    let e0 := d.e 0
    (List.range (d.size / e0)).map fun k => .strip k ((List.range e0).flatMap fun i =>
      let pos := posOf d.ext (k * e0 + i)
      match op with
      | 1 => (writeElem d pos (elemVal set p s pos) none).1
      | 2 => [.accum d.hslot (elemAddr d pos) (d.code == 0) (elemF32 set p s pos)]
      | _ => (writeElem d pos (ofF32 d.fill) none).1)

/-- The row of axis 0 at which the reads of a tensor first fail, with the address (R378). -/
def rowError (set : Settings) (p : Pkg) (t : Tensor) : Option (Nat × Nat) :=
  let rows := rowRanges t
  let sc := if t.scaled && t.size != 0 then readError set p t.scaleAddr (scaleBytes t) else none
  match sc with
  | some x => some (0, x)
  | none => firstSome (fun k => (readError set p (rows.getD k (0, 0)).1 (rows.getD k (0, 0)).2).map fun x => (k, x))
      (List.range rows.length)

/-- Work up to a failing row, and the failure. -/
def cutWork (ws : List Work) (err : Option (Nat × Nat)) (r : Run) : Run :=
  match err with
  | none => { r with work := ws }
  | some (k, x) =>
    let keep (w : Work) : Bool := match w with | .strip n _ => n < k | .tile _ => false
    { r with work := ws.filter keep, fate := stMem, err := some x }

/-- A copy task launches on the copy engine (R375). -/
def startCopy (task : Nat) (i : Inst) (u : Nat) (set : Settings) (p : Pkg) : Pkg :=
  let d := i.desc task
  let b := tBody d
  let op := le b 2 1
  match prepare set p i d [le b 1 1] with
  | .fails st x => failLaunch set i task u st x p
  | .go tn holds =>
    let dst := tn.getD (le b 1 1) noTensor
    let src := if op == 3 then dst else tn.getD (le b 0 1) noTensor
    if copyTensorsBad op src dst then failLaunch set i task u stBadParam none p
    else
      let r : Run := { iid := i.iid, task, unit := u, j1 := i.j1, began := p.ft.count, tensors := tn, holds }
      startRun set i task (cutWork (copyWork set p op src dst) (if op == 3 then none else rowError set p src) r) p

def execCopyTask (inst task : Nat) (s : State) : Host.Outcome State Fault Refusal :=
  onP (launchAs 0x50 inst task (startCopy task)) s

/-! ### The hollow (R239 to R255) -/

def hollowAt (p : Pkg) (n : Nat) : Hollow := p.hollow.stages.getD n {}
def modHollow (n : Nat) (f : Hollow → Hollow) (p : Pkg) : Pkg := { p with hollow.stages := modAt p.hollow.stages n f }

def hollowUnit : Nat := 65536

def segmentOf (h : Hollow) (mb : Nat) : Option Segment := h.segs.find? fun s => s.mb == mb

/-- Units held by frames. -/
def usedUnits (h : Hollow) : List Nat := h.segs.flatMap fun s => s.frames.flatMap (·.units)

/-- The lowest free units of a hollow (log entry 31). -/
def freeUnits (h : Hollow) (n : Nat) : List Nat :=
  ((List.range (h.size / hollowUnit)).filter fun u => !(usedUnits h).elem u).take n

/-- The byte of a frame at offset `o` lies in its units in order. -/
def frameAddr (h : Hollow) (f : Kept) (o : Nat) : Nat := h.base + f.units.getD (o / hollowUnit) 0 * hollowUnit + o % hollowUnit

/-- Bytes as pieces within the units of a frame. -/
def frameOps (h : Hollow) (f : Kept) (bs : List Byte) : List WOp :=
  (List.range f.units.length).map fun k => .bytes (frameAddr h f (k * hollowUnit)) ((bs.drop (k * hollowUnit)).take hollowUnit)

/-- The bytes of a frame, from the cache or from the stacks (R254). -/
def frameBytesRead (set : Settings) (p : Pkg) (h : Hollow) (f : Kept) : List Byte :=
  f.cached.getD ((List.range f.size).map fun o => readByte set p (frameAddr h f o))

/-- The first failing read of a frame; one in the cache reads no stack. -/
def frameError (set : Settings) (p : Pkg) (h : Hollow) (f : Kept) : Option Nat :=
  if f.cached.isSome then none
  else firstSome (fun k => readError set p (frameAddr h f (k * hollowUnit)) (min hollowUnit (f.size - k * hollowUnit)))
    (List.range f.units.length)

/-! ### The top cache (R254, R255) -/

def mapFrames (f : Kept → Kept) (h : Hollow) : Hollow :=
  { h with segs := h.segs.map fun s => { s with frames := s.frames.map f } }

/-- What a frame holds in the cache is set, or goes. -/
def setCached (order : Nat) (bs : Option (List Byte)) (h : Hollow) : Hollow :=
  mapFrames (fun f => if f.order == order then { f with cached := bs } else f) h

/-- The frame of a place in the order of pushes. -/
def heldFrame (h : Hollow) (order : Nat) : Option Kept := (h.segs.flatMap (·.frames)).find? fun f => f.order == order

/-- Bytes of the share in use; a frame takes its size (DESIGN CHOICE, log entry 80). -/
def cacheUsed (h : Hollow) : Nat :=
  ((h.segs.flatMap (·.frames)).map fun f => if f.cached.isSome then f.size else 0).sum

def cacheShare (h : Hollow) : Nat := h.cache * 2 ^ 20

/-- The frame that leaves a full share: the earliest pushed that is not the top of its segment. -/
def leavesCache (h : Hollow) : Option Kept :=
  ((h.segs.flatMap fun s => s.frames.drop 1).filter fun f => f.cached.isSome).foldl (fun best f => match best with
    | none => some f
    | some b => if f.order < b.order then some f else some b) none

/-- A frame moves to its units in the stacks; a write that fails is reported (R379, R382). -/
def moveOut (set : Settings) (n : Nat) (f : Kept) (p : Pkg) : Pkg :=
  let h := hollowAt p n
  (frameOps h f (f.cached.getD [])).foldl (fun q w => match w with
    | .bytes a ds => (match writeError set q a ds.length with
      | some x => memError set x q
      | none => writeMem set a ds q)
    | _ => q) (modHollow n (setCached f.order none) p)

/-- Make room for `need` bytes, at most `k` frames leaving. -/
def makeRoom (set : Settings) (n need : Nat) : Nat → Pkg → Pkg
  | 0, p => p
  | k + 1, p =>
    let h := hollowAt p n
    if cacheUsed h + need ≤ cacheShare h then p
    else match leavesCache h with
      | some f => makeRoom set n need k (moveOut set n f p)
      | none => p

/-- A stored frame goes into the share, once there is room; one larger than the share stays out (R254), and so does one
for which the tops of segments leave no room (DESIGN CHOICE, log entry 80). -/
def intoCache (set : Settings) (n : Nat) (f : Kept) (bs : List Byte) (p : Pkg) : Pkg :=
  if cacheShare (hollowAt p n) < f.size || f.dropped then p
  else
    let p := makeRoom set n f.size ((hollowAt p n).segs.flatMap (·.frames)).length p
    let h := hollowAt p n
    if cacheUsed h + f.size ≤ cacheShare h then modHollow n (setCached f.order (some bs)) p else p

/-- Fetch the top frame of a segment into the share; one that cannot be read stays in the stacks. -/
def fetchTop (set : Settings) (n : Nat) (s : Option Segment) (p : Pkg) : Pkg :=
  match s.bind fun s => s.frames.head? with
  | some f =>
    let h := hollowAt p n
    if f.cached.isSome || (frameError set p h f).isSome then p
    else intoCache set n f (frameBytesRead set p h f) p
  | none => p

/-- After a drain of a segment (R254): its new top, then the top of the oldest open segment. -/
def refillCache (set : Settings) (n mb : Nat) (p : Pkg) : Pkg :=
  let p := fetchTop set n (segmentOf (hollowAt p n) mb) p
  fetchTop set n (hollowAt p n).segs.head? p

/-- Rung 4 loses what the cache holds (R521): the frames stay, and their bytes are undefined (log entry 80). -/
def loseCache (p : Pkg) : Pkg :=
  { p with
    free := p.free + 1
    hollow.stages := p.hollow.stages.map (mapFrames fun f =>
      { f with cached := f.cached.map fun bs => (List.range bs.length).map (Config.lostByte p.free f.order) }) }

/-- The frame a PUSH makes (R247), without its units. -/
def newFrame (b : List Byte) (tn : List Tensor) : Kept :=
  let t := tn.getD (le b 2 1) noTensor
  let hasBits := le b 3 1 != 0xFF
  let k := tn.getD (le b 3 1) noTensor
  { key := le b 4 2, format := t.format, ext := t.ext, hasBits
    size := packedBytes t + scaleBytes t + if hasBits then packedBytes k else 0, units := [], dropped := false }

/-- How a PUSH is placed (R252): the units, dropped, or exhausted. -/
inductive Placing where
  | stored (units : List Nat)
  | dropped
  | exhausted
  deriving DecidableEq, Repr

def placeFrame (h : Hollow) (checkpoint : Bool) (size : Nat) : Placing :=
  let free := h.size / hollowUnit - (usedUnits h).length
  let need := ceilDiv size hollowUnit
  if checkpoint then if need ≤ free then .stored (freeUnits h need) else .exhausted
  else if h.reserve / hollowUnit + need ≤ free then .stored (freeUnits h need) else .dropped

/-- Put a frame on top of a segment, which is opened when it is not. -/
def putSegment (mb : Nat) (f : Kept) (h : Hollow) : Hollow :=
  let h := { h with pushes := h.pushes + 1 }
  match segmentOf h mb with
  | some _ => { h with segs := h.segs.map fun s => if s.mb == mb then { s with frames := f :: s.frames } else s }
  | none => { h with segs := h.segs ++ [⟨mb, [f]⟩] }

/-- The bytes of a frame: elements, scales, branch bits (R247). -/
def frameData (set : Settings) (p : Pkg) (b : List Byte) (tn : List Tensor) : List Byte :=
  let t := tn.getD (le b 2 1) noTensor
  packTensor set p t ++ scaleList set p t ++ if le b 3 1 == 0xFF then [] else packTensor set p (tn.getD (le b 3 1) noTensor)

/-- The first failing read of what a PUSH saves. -/
def pushError (set : Settings) (p : Pkg) (b : List Byte) (tn : List Tensor) : Option Nat :=
  (tensorReadError set p (tn.getD (le b 2 1) noTensor)).or
    (if le b 3 1 == 0xFF then none else tensorReadError set p (tn.getD (le b 3 1) noTensor))

/-- Place the frame of a PUSH that runs, and give the task its writes or its failure (R246, R252); a frame that goes into
the top cache writes no stack (R254). -/
def placePush (set : Settings) (i : Inst) (task : Nat) (p : Pkg) : Pkg :=
  let b := tBody (i.desc task)
  let n := le b 0 1
  let h := hollowAt p n
  match runOf p i.iid task with
  | none => p
  | some r =>
    let full : Bool := match segmentOf h i.num with | some s => 256 ≤ s.frames.length | none => false
    let f := { newFrame b r.tensors with order := h.pushes }
    let p := modRun i.iid task (fun r => { r with waits := false }) p
    if full then failRun set i.iid task stBadState p
    else match placeFrame h (le b 1 1 == 1) f.size with
      | .exhausted =>
        failRun set i.iid task stStash { p with hollow.exhausted := satAdd 0xFFFFFFFF p.hollow.exhausted 1 }
      | .dropped =>
        let p := modHollow n (putSegment i.num { f with dropped := true }) p
        let p := if i.inStep then modStep (fun s => { s with recomputed := countAdd s.recomputed 1 }) p else p
        { p with hollow.drops := satAdd 0xFFFFFFFF p.hollow.drops 1 }
      | .stored units =>
        match pushError set p b r.tensors with
        | some x => failMem set i.iid task x p
        | none =>
          let f := { f with units := units }
          let bs := frameData set p b r.tensors
          let p := intoCache set n f bs (modHollow n (putSegment i.num f) p)
          let ws := if (heldFrame (hollowAt p n) f.order).any (·.cached.isSome) then [] else frameOps h f bs
          modRun i.iid task (fun r => { r with work := ((List.range ws.length).zip ws).map fun x => .strip x.1 [x.2] }) p

/-- A PUSH may be placed now: its segment is open, or one more may be opened (R246). -/
def pushMay (p : Pkg) (i : Inst) (task : Nat) : Bool :=
  let h := hollowAt p (le (tBody (i.desc task)) 0 1)
  (segmentOf h i.num).isSome || h.segs.length < 64

/-- The waiting PUSH tasks that may now be placed, in the order of acceptance (R246). -/
def pushWaiting (set : Settings) (p : Pkg) : Pkg :=
  p.hollow.pushWait.foldl (fun q x =>
    match instOf q x.1 with
    | none => { q with hollow.pushWait := q.hollow.pushWait.filter fun y => y != x }
    | some i =>
      if pushMay q i x.2 then
        placePush set i x.2 { q with hollow.pushWait := q.hollow.pushWait.filter fun y => y != x }
      else q) p

/-- The branch bits of a stash task have the packed layout of R257 over the saved tensor. -/
def stashBitsBad (b : List Byte) (tn : List Tensor) : Bool :=
  le b 3 1 != 0xFF && bitsTensorBad (tn.getD (le b 3 1) noTensor) (tn.getD (le b 2 1) noTensor).ext

/-- A PUSH task launches on the hollow engine. -/
def startPush (task : Nat) (i : Inst) (u : Nat) (set : Settings) (p : Pkg) : Pkg :=
  let d := i.desc task
  let b := tBody d
  match prepare set p i d [] with
  | .fails st x => failLaunch set i task u st x p
  | .go tn holds =>
    if stashBitsBad b tn then failLaunch set i task u stBadParam none p
    else if !(hollowAt p (le b 0 1)).on then failLaunch set i task u stBadState none p
    else
      let wait := !pushMay p i task
      let p := startRun set i task
        { iid := i.iid, task, unit := u, j1 := i.j1, began := p.ft.count, tensors := tn, holds, waits := wait } p
      if wait then { p with hollow.pushWait := p.hollow.pushWait ++ [(i.iid, task)] } else placePush set i task p

def execPush (inst task : Nat) (s : State) : Host.Outcome State Fault Refusal :=
  onP (launchAs 0x20 inst task (startPush task)) s

/-- Close a segment (R250, R266): its frames go, the stamp of its micro-batch ends, a PUSH that waits may start. -/
def closeSegment (set : Settings) (n mb : Nat) (p : Pkg) : Pkg :=
  if (segmentOf (hollowAt p n) mb).isNone then p
  else pushWaiting set (dropStamp n mb (modHollow n (fun h => { h with segs := h.segs.filter fun s => s.mb != mb }) p))

/-- The frame a DRAIN names (R249), with its place from the top. -/
def drainFrame (s : Segment) (b : List Byte) : Option (Nat × Kept) :=
  let k := s.frames.findIdx fun f => f.key == le b 4 2
  match s.frames[k]? with
  | some f => if le b 1 1 == 1 || k == 0 then some (k, f) else none
  | none => none

/-- A POP takes the top frame; the last one closes the segment (R249). -/
def popFrame (set : Settings) (n mb : Nat) (p : Pkg) : Pkg :=
  match segmentOf (hollowAt p n) mb with
  | some s =>
    if s.frames.length ≤ 1 then closeSegment set n mb p
    else modHollow n (fun h => { h with
      segs := h.segs.map fun s => if s.mb == mb then { s with frames := s.frames.drop 1 } else s }) p
  | none => p

/-- DST or BITS does not fit the frame (R249), or DST is MW40, which only the update engine writes (R40, R41). -/
def drainBadFit (b : List Byte) (tn : List Tensor) (f : Kept) : Bool :=
  let t := tn.getD (le b 2 1) noTensor
  t.code == 1 || t.format != f.format || t.ext != f.ext ||
    (le b 3 1 != 0xFF && (!f.hasBits || packedBytes (tn.getD (le b 3 1) noTensor) + packedBytes t + scaleBytes t != f.size))

/-- What a DRAIN writes: the saved tensor, then the branch bits. -/
def drainWork (b : List Byte) (tn : List Tensor) (bs : List Byte) : List Work :=
  let t := tn.getD (le b 2 1) noTensor
  let k := tn.getD (le b 3 1) noTensor
  let n := packedBytes t
  storeRaw t (unpackElems t bs) ((bs.drop n).take (scaleBytes t)) ++
    if le b 3 1 == 0xFF then [] else storeRaw k (unpackElems k (bs.drop (n + scaleBytes t))) []

/-- The words of R253. -/
def drainSummary (f : Kept) (left : Nat) : List W32 :=
  [if f.dropped then 0x3F800000#32 else posZero, f32Nat (ceilDiv f.size hollowUnit * 64), f32Nat left] ++
    List.replicate 5 posZero

/-- A subset of the writes that is not defined: the part of a frame that a failing DRAIN leaves in DST (R251). -/
def someWork (n : Nat) (ws : List Work) : List Work :=
  (((List.range ws.length).zip ws).filter fun x => Config.strictWrote n x.1).map (·.2)

/-- A DRAIN task launches (R249, R251, R253, R254). -/
def startDrain (task : Nat) (i : Inst) (u : Nat) (set : Settings) (p : Pkg) : Pkg :=
  let d := i.desc task
  let b := tBody d
  let n := le b 0 1
  let outs := le b 2 1 :: if le b 3 1 == 0xFF then [] else [le b 3 1]
  match prepare set p i d outs with
  | .fails st x => failLaunch set i task u st x p
  | .go tn holds =>
    let h := hollowAt p n
    if stashBitsBad b tn || sharesOther tn (le b 2 1) outs then failLaunch set i task u stBadParam none p
    else match h.on, (segmentOf h i.num).bind fun s => (drainFrame s b).map fun f => (s, f) with
    | true, some (s, _, f) =>
      if drainBadFit b tn f then failLaunch set i task u stBadParam none p
      else
        let pop := le b 1 1 == 0
        let left := s.frames.length - b2n pop
        let r : Run :=
          { iid := i.iid, task, unit := u, j1 := i.j1, began := p.ft.count, tensors := tn, holds
            summary := if le b 6 2 == 0xFFFF then none else some (le b 6 2, drainSummary f left) }
        let err := if f.dropped then none else frameError set p h f
        let ws := if f.dropped then [] else drainWork b tn (frameBytesRead set p h f)
        match err with
        | some x => startRun set i task { r with work := someWork p.free ws, fate := stMem, err := some x }
            { p with free := p.free + 1 }
        | none =>
          let p := startRun set i task { r with work := ws } p
          refillCache set n i.num (if pop then popFrame set n i.num p else p)
    | _, _ => failLaunch set i task u stBadState none p

def execDrain (inst task : Nat) (s : State) : Host.Outcome State Fault Refusal :=
  onP (launchAs 0x21 inst task (startDrain task)) s

/-- A RELEASE task (R250). -/
def startRelease (task : Nat) (i : Inst) (u : Nat) (set : Settings) (p : Pkg) : Pkg :=
  let d := i.desc task
  match prepare set p i d [] with
  | .fails st x => failLaunch set i task u st x p
  | .go tn holds =>
    closeSegment set (le (tBody d) 0 1) i.num (startRun set i task
      { iid := i.iid, task, unit := u, j1 := i.j1, began := p.ft.count, tensors := tn, holds } p)

def execSegmentRelease (inst task : Nat) (s : State) : Host.Outcome State Fault Refusal :=
  onP (launchAs 0x22 inst task (startRelease task)) s

/-! ### Sends (R282, R283) -/

/-- A neighbour that is on another package while this one has no address. -/
def noAddress (p : Pkg) (peer : Nat) : Bool := peer != 0xFFFFFFFF && p.links.addr == 0xFFFFFFFF

/-- The data of a message (R276): elements, then the scales at the next multiple of 64. -/
def messageBytes (t : Tensor) : Nat :=
  if t.scaled then alignUp (packedBytes t) 64 + scaleBytes t else packedBytes t

def messageData (set : Settings) (p : Pkg) (t : Tensor) : List Byte :=
  let bs := packTensor set p t
  if t.scaled then padTo (alignUp bs.length 64) bs ++ scaleList set p t else bs

/-- How a SEND fails at launch (R283). -/
def sendFails (p : Pkg) (i : Inst) (b : List Byte) (t : Tensor) : Option Nat :=
  let s := stageAt p (le b 0 1)
  let up := le b 1 1 == 1
  if !i.inStep || !s.on then some stBadState
  else if s.neighbour up == 0xFFFF then some stBadParam
  else if noAddress p (s.peer up) then some stBadState
  else if 0xFFFFFFFF < messageBytes t then some stBadParam
  else none

/-- A SEND launches and waits for its slot. -/
def startSend (task : Nat) (i : Inst) (u : Nat) (set : Settings) (p : Pkg) : Pkg :=
  let d := i.desc task
  let b := tBody d
  match prepare set p i d [] with
  | .fails st x => failLaunch set i task u st x p
  | .go tn holds =>
    match sendFails p i b (tn.getD (le b 2 1) noTensor) with
    | some st => failLaunch set i task u st none p
    | none => startRun set i task
        { iid := i.iid, task, unit := u, j1 := i.j1, began := p.ft.count, tensors := tn, holds, waits := true } p

def execSend (inst task : Nat) (s : State) : Host.Outcome State Fault Refusal :=
  onP (launchAs 0x30 inst task (startSend task)) s

def viewOf (s : Stage) (up : Bool) : View := if up then s.up else s.down

def modView (n : Nat) (up : Bool) (f : View → View) (p : Pkg) : Pkg :=
  modStage n (fun s => if up then { s with up := f s.up } else { s with down := f s.down }) p

/-- The slot of a SEND is free in its credit view: the message leaves, and the task completes (R278, R283). In
RESYNC_WAIT nothing is transmitted (R273). -/
def transmitSend (iid task : Nat) (set : Settings) (p : Pkg) : Pkg :=
  match instOf p iid, runOf p iid task with
  | some i, some r =>
    let b := tBody (i.desc task)
    let n := le b 0 1
    let up := le b 1 1 == 1
    let s := stageAt p n
    let v := viewOf s up
    let slot := i.num % v.depth
    let t := r.tensors.getD (le b 2 1) noTensor
    if tType (i.desc task) != 0x30 || !r.waits || s.resync || !v.free.elem slot then p
    else match tensorReadError set p t with
      | some x => failMem set iid task x p
      | none =>
        let h : StageHdr :=
          { kind := b2n up, depth := 0, dstStage := s.neighbour up, srcStage := s.job, gen := s.gen, step := p.step.num
            mb := i.num, epoch := p.reshard.epoch, length := messageBytes t }
        let p := modView n up (fun v => { v with free := v.free.filter (· != slot) }) p
        endTask set iid task (sendStage (s.peer up) h (messageData set p t) p)
  | _, _ => p

def execSendTransmit (inst task : Nat) (s : State) : Host.Outcome State Fault Refusal :=
  onP (fun set p => finish set (transmitSend inst task set p)) s

end Sys2Proof.Machine
end

