-- ==== Sys2Proof/Machine/Commands.lean ====
section
/-! DEFINITION. Commands that load and run work: task graphs (R76 to R80), branch tables (R102), one task over many cores
(R134 to R136, R193 to R195), copies (R376), and the reading of health and summary slots (R185, R186). -/

namespace Sys2Proof.Machine

/-! ### Task graphs -/

/-- SEQ of the packet that waits for an answer. -/
def seqOf (w : Who) (p : Pkg) : Nat :=
  match w with
  | .queue q num => ((findPacket p q num).map (·.seq)).getD 0
  | _ => 0

def gId (b : List Byte) : Nat := le b 0 2
def gOp (b : List Byte) : Nat := le b 2 1
def gTasks (b : List Byte) : Nat := le b 4 2
def gTokens (b : List Byte) : Nat := le b 6 2
def gArray (b : List Byte) : Nat := le b 8 8
def gTable (b : List Byte) : Nat := le b 16 8
def gInst (b : List Byte) : Nat := le b 24 2

/-- The payload itself breaks R76 or R588. -/
def graphPayloadBad (b : List Byte) : Bool :=
  let loads := gOp b < 2
  !zeros b 26 38 || 3 < gOp b || 1023 < gId b || 1 < le b 3 1 || 2 ^ 48 ≤ gArray b || 2 ^ 48 ≤ gTable b ||
    (if loads then
      gTasks b == 0 || 16384 < gTasks b || 4096 < gTokens b || gArray b % 128 != 0 || gTable b % 8 != 0 ||
        !inStack (gArray b) (128 * gTasks b) || !inStack (gTable b) (8 * gTokens b)
     else le b 3 1 != 0 || gTasks b != 0 || gTokens b != 0) ||
    ((gOp b == 0 || gOp b == 3) && gInst b != 0)

/-- An instance of a graph, held ones included, has a number (R80). -/
def liveNumber (p : Pkg) (g num : Nat) : Bool :=
  p.tasks.insts.any (fun i => i.graph == some g && i.num == num) ||
    p.tasks.held.any fun h => h.graph == g && h.num == num

/-- A graph has an instance, held ones included. -/
def graphLive (p : Pkg) (g : Nat) : Bool :=
  p.tasks.insts.any (fun i => i.graph == some g) || p.tasks.held.any fun h => h.graph == g

/-- A loaded fixture names a graph. -/
def fixtureNames (p : Pkg) (g : Nat) : Bool := p.pipe.fixtures.any fun f => le f.entry 12 2 == g

/-- A run is accepted: it starts, or is held over the limits (R80). J0 work joins the step that is OPEN (R210). -/
def acceptRun (set : Settings) (g : Graph) (num : Nat) (origin : Origin) (p : Pkg) : Pkg :=
  let step := if g.j1 then none else openStep p
  if roomFor p g.id then launchGraph set g num origin step step.isSome p
  else { p with tasks.held := p.tasks.held ++ [⟨g.id, num, origin, step, step.isSome⟩] }

/-- RUN of a resident graph (R79, R210). -/
def runGraph (set : Settings) (w : Who) (b : List Byte) (p : Pkg) : Pkg :=
  match graphOf p (gId b) with
  | none => answer w stBadState 0 0 p
  | some g =>
    if liveNumber p g.id (gInst b) || (!g.j1 && stepShut p) then answer w stBadState 0 0 p
    else acceptRun set g (gInst b) (.packet w 0x0320 (seqOf w p)) p

/-- A new graph would break a limit of R77. -/
def residentFull (p : Pkg) (tasks : Nat) : Bool :=
  1024 ≤ p.tasks.graphs.length || 131072 < (p.tasks.graphs.map fun g => g.tasks.length).sum + tasks

/-- LOAD and LOAD_AND_RUN (R78, R79). -/
def loadGraph (set : Settings) (w : Who) (b : List Byte) (p : Pkg) : Pkg :=
  let run := gOp b == 1
  match (readError set p (gArray b) (128 * gTasks b)).or (readError set p (gTable b) (8 * gTokens b)) with
  | some x => answer w stMem 0 0 (memError set x p)
  | none =>
    let tasks := chunksOf 128 (gTasks b) (readMem set p (gArray b) (128 * gTasks b))
    let toks := chunksOf 8 (gTokens b) (readMem set p (gTable b) (8 * gTokens b))
    let j1 := le b 3 1 == 1
    match graphBad j1 tasks toks with
    | some detail => answer w stBadParam detail 0 p
    | none =>
      if (graphOf p (gId b)).isSome || residentFull p tasks.length || (run && !j1 && stepShut p) then
        answer w stBadState 0 0 p
      else
        let g : Graph := ⟨gId b, j1, tasks, toks⟩
        let p := { p with tasks.graphs := p.tasks.graphs ++ [g] }
        if run then acceptRun set g (gInst b) (.packet w 0x0320 (seqOf w p)) p else answer w stOk 0 0 p

/-- UNLOAD (R79). -/
def unloadGraph (w : Who) (b : List Byte) (p : Pkg) : Pkg :=
  let g := gId b
  if (graphOf p g).isNone || graphLive p g || fixtureNames p g then answer w stBadState 0 0 p
  else answer w stOk 0 0 { p with tasks.graphs := p.tasks.graphs.filter fun x => x.id != g }

def submitGraph (w : Who) (b : List Byte) (set : Settings) (p : Pkg) : Pkg :=
  if graphPayloadBad b then answer w stBadParam 0xFFFF 0 p
  else if gOp b < 2 then finish set (loadGraph set w b p)
  else if gOp b == 2 then finish set (runGraph set w b p)
  else unloadGraph w b p

def execTaskGraphSubmit (q : Nat) (s : State) : Host.Outcome State Fault Refusal := onPacketP q 0x0320 submitGraph s

/-! ### Branch tables (R102) -/

def branchEntryBad (b : List Byte) (i : Nat) : Bool :=
  let e := (b.drop (8 + 8 * i)).take 8
  if i < le b 1 1 then
    7 < le e 0 1 || 7 < le e 1 1 || le e 2 1 == 0 || le e 3 1 != 0 || (6 ≤ le e 1 1 && le e 4 4 != 0)
  else e.any (· != 0)

def branchTableBad (b : List Byte) : Bool :=
  le b 1 1 == 0 || 16 < le b 1 1 || le b 2 1 == 0 || !zeros b 3 5 || !zeros b 136 56 ||
    (List.range 16).any (branchEntryBad b)

def loadBranch (w : Who) (b : List Byte) (p : Pkg) : Pkg :=
  if branchTableBad b then answer w stBadParam 0 0 p
  else answer w stOk 0 0 { p with tasks.branches := b :: p.tasks.branches.filter fun t => le t 0 1 != le b 0 1 }

def execBranchTableLoad (q : Nat) (s : State) : Host.Outcome State Fault Refusal :=
  onPacketP q 0x0330 (fun w b _ p => loadBranch w b p) s

/-! ### Commands that run one task descriptor (R134, R193, R376) -/

/-- The instance of a command over its parts (R135, R194): its tasks are ready at once. -/
def commandInst (w : Who) (op : Nat) (d : List Byte) (parts : List Part) (p : Pkg) : Inst :=
  { iid := p.tasks.nextIid, graph := none, num := seqOf w p, j1 := false, origin := .packet w op (seqOf w p)
    step := openStep p, inStep := (openStep p).isSome, mode := 0, descs := [d], parts, toks := []
    tasks := parts.map fun _ => .ready (now p), started := now p }

/-- A descriptor that R134, R193, R309 or R376 refuses: another TYPE, an edge, a hint, or a field of R78. -/
def commandBad (types : Nat → Bool) (d : List Byte) : Bool :=
  !types (tType d) || headBad d || !zeros d 16 32 || tSub d != 0 || tPrefetch d != 0 || tHint d != 0 ||
    bodyBad false (tType d) (tCount d) (tBody d)

/-- Start a command over its parts; one without any part has done its work. -/
def startCommand (set : Settings) (w : Who) (op : Nat) (d : List Byte) (parts : List Part) (p : Pkg) : Pkg :=
  let i := commandInst w op d parts p
  finish set (checkInst set i.iid (addInst set i p))

/-- A command whose task fails before any part starts. -/
def failCommand (set : Settings) (w : Who) (op : Nat) (d : List Byte) (st : Nat) (x : Option Nat) (p : Pkg) : Pkg :=
  let i := commandInst w op d [.whole] p
  let p := addInst set i p
  let p := match x with | some a => memError set a p | none => p
  finish set (failTask set i.iid 0 st 0xFFFF p)

/-- Groves of a mask that are not fenced (R135). -/
def unfenced (p : Pkg) (mask : Nat) : Nat := (List.range 16).countP fun g => bit mask g && !bit p.integ.fenced g

/-- The parts of a MATMUL or GROUPED_MATMUL (R135). -/
def matrixParts (set : Settings) (p : Pkg) (d : List Byte) (gs : List (Nat × Nat × List Tensor)) : List Part :=
  let m := matOf d
  let shape (tn : List Tensor) := shapeOf m (tn.getD m.a noTensor) (tn.getD m.b noTensor) (tn.getD m.c noTensor)
  let tiles (tn : List Tensor) : Nat × Nat × Nat :=
    let r := rangeOf m (shape tn)
    (ceilDiv r.2.1 64, ceilDiv r.2.2.2 64, batches (shape tn))
  match gs with
  | [] => []
  | g :: _ =>
    let big := commandBlock (storeShare set.filler false) m (g.2.2.getD m.a noTensor) (g.2.2.getD m.b noTensor)
      (gs.map fun x => tiles x.2.2) (unfenced p (tMask d))
    let parts := gs.map fun x => commandParts m big x.1 (shape x.2.2)
    parts.flatMap (·.1) ++ parts.flatMap (·.2)

/-- MATMUL and GROUPED_MATMUL (R134, R135, R36, R210). -/
def matrixCommand (op : Nat) (w : Who) (d : List Byte) (set : Settings) (p : Pkg) : Pkg :=
  if commandBad (· == (if op == 0x0301 then 0x01 else 0x02)) d then answer w stBadParam 0 0 p
  else if stepShut p || set.envAct == 3 then answer w stBadState 0 0 p
  else
    let i := commandInst w op d [.whole] p
    let r := do
      let ps ← readProducts set p i d
      placeProducts set p i d .whole ps
    match r with
    | .error (st, x) => failCommand set w op d st x p
    | .ok (gs, _) => startCommand set w op d (matrixParts set p d gs) p

def execMatmul (q : Nat) (s : State) : Host.Outcome State Fault Refusal := onPacketP q 0x0301 (matrixCommand 0x0301) s

def execGroupedMatmul (q : Nat) (s : State) : Host.Outcome State Fault Refusal :=
  onPacketP q 0x0302 (matrixCommand 0x0302) s

/-- The ranges of axis 1 that the parts of a VCHAIN take (R194): one for each core at most, equal to within one row. -/
def chainParts (p : Pkg) (d : List Byte) (tn : List Tensor) : List Part :=
  let c := parseChain (tBody d)
  let e1 := (tn.getD c.iter noTensor).e 1
  let n := min e1 (32 * unfenced p (tMask d))
  if oneTask c || n ≤ 1 then [.whole] else (List.range n).map fun k => .rows (e1 * k / n) (e1 * (k + 1) / n)

def chainCommand (w : Who) (d : List Byte) (set : Settings) (p : Pkg) : Pkg :=
  if commandBad (· == 0x10) d then answer w stBadParam 0 0 p
  else if stepShut p || set.envAct == 3 then answer w stBadState 0 0 p
  else
    let c := parseChain (tBody d)
    match prepare set p (commandInst w 0x0310 d [.whole] p) d (chainOuts c) with
    | .fails st x => failCommand set w 0x0310 d st x p
    | .go tn _ =>
      if chainTensorsBad c (fun k => tn.getD k noTensor) (tn.getD c.iter noTensor).ext false then
        failCommand set w 0x0310 d stBadParam none p
      else startCommand set w 0x0310 d (chainParts p d tn) p

def execVchain (q : Nat) (s : State) : Host.Outcome State Fault Refusal := onPacketP q 0x0310 chainCommand s

/-- COPY (R376); its one task launches on the copy engine. -/
def copyCommand (w : Who) (d : List Byte) (set : Settings) (p : Pkg) : Pkg :=
  if commandBad (· == 0x50) d then answer w stBadParam 0 0 p
  else if stepShut p then answer w stBadState 0 0 p
  else startCommand set w 0x0201 d [.whole] p

def execCopy (q : Nat) (s : State) : Host.Outcome State Fault Refusal := onPacketP q 0x0201 copyCommand s

/-! ### HEALTH_READ (R185, R186) -/

/-- What HEALTH_READ writes of slots `first` to `first + count - 1` (R185, R186). -/
def healthData (p : Pkg) (kind first count : Nat) : List Byte :=
  ((List.range count).map (first + ·)).flatMap fun k =>
    if kind == 0 then (healthOf p k).bytes
    else (((p.tasks.summ.find? fun x => x.1 == k).map (·.2)).getD (List.replicate 8 f32NaN)).flatMap fun v =>
      leBytes 4 v.toNat

def healthRead (w : Who) (b : List Byte) (set : Settings) (p : Pkg) : Pkg :=
  let kind := le b 0 1
  let clear := bit (le b 1 1) 0
  let first := le b 2 2
  let count := le b 4 2
  let dest := le b 8 8
  let inRange := if kind == 0 then first + count ≤ 8192 else 0x1000 ≤ first && first + count ≤ 0x1100
  if 1 < kind || 1 < le b 1 1 || count == 0 || 256 < count || !zeros b 6 2 || !zeros b 16 48 || !inRange ||
      !addrOk dest 32 (32 * count) || (clear && kind == 1) then answer w stBadParam 0 0 p
  else if clear && first < 6144 && stepBusy p then answer w stBadState 0 0 p
  else
    let data := healthData p kind first count
    match writeError set p dest data.length with
    | some x => answer w stMem 0 0 (memError set x p)
    | none =>
      let p := writeMem set dest data p
      answer w stOk 0 count (if clear then
        { p with tasks.health := p.tasks.health.filter fun h => !(first ≤ h.slot && h.slot < first + count) } else p)

def execHealthRead (q : Nat) (s : State) : Host.Outcome State Fault Refusal := onPacketP q 0x0901 healthRead s

end Sys2Proof.Machine
end

