-- ==== Sys2Proof/Machine/Update.lean ====
section
/-! DEFINITION. The weight update and what surrounds it: the update configuration (R223 to R226), the arithmetic of an
element (R227 to R231), the loss scale, the baseline and the noise averages (R218 to R222, R237, R238), the conversion
of masters (R232), the step record (R236). -/

namespace Sys2Proof.Machine

/-- PKG_MODE (R30). -/
def pkgMode (set : Settings) : Nat :=
  set.env + 4 * b2n set.c1 + 8 * b2n set.arrival + 16 * b2n set.lean + 32 * b2n set.filler + 64 * set.lanes +
    256 * set.envAct + 32768 * b2n set.pend.isSome

/-! ### The configuration (R223, R224) -/

def f32At (b : List Byte) (o : Nat) : W32 := BitVec.ofNat 32 (le b o 4)

/-- Finite and at least +0.0. -/
def finiteNonneg (w : W32) : Bool := !isNeg w && !isNonFinite w

def uAdam (b : List Byte) : Bool := le b 0 1 == 0
def uNesterov (b : List Byte) : Bool := bit (le b 1 1) 0
def uRestore (b : List Byte) : Bool := bit (le b 1 1) 1
def uHalt (b : List Byte) : Bool := bit (le b 1 1) 2
def uStatic (b : List Byte) : Bool := bit (le b 1 1) 3
def uLayers (b : List Byte) : Nat := le b 2 2
def uClip (b : List Byte) : W32 := f32At b 20
def uTable (b : List Byte) : Nat := le b 24 8
def uConst (b : List Byte) : Nat := le b 40 8
def uLsMin (b : List Byte) : Int := signed 8 (le b 49 1)
def uLsMax (b : List Byte) : Int := signed 8 (le b 50 1)
def uSpikeA (b : List Byte) : Nat := le b 51 1
def uGrowth (b : List Byte) : Nat := le b 52 2
def uWarmup (b : List Byte) : Nat := le b 54 2
def uSpikeK (b : List Byte) : W32 := f32At b 56
def uLossSlot (b : List Byte) : Nat := le b 60 2
def uLossHslot (b : List Byte) : Nat := le b 62 2
def uGnorm (b : List Byte) : Nat := le b 64 2
def uNoiseA (b : List Byte) : Nat := le b 66 1

def lMaster (e : List Byte) : Nat := le e 0 6
def lWork (e : List Byte) : Nat := le e 6 6
def lGrad (e : List Byte) : Nat := le e 12 6
def lMom1 (e : List Byte) : Nat := le e 18 6
def lMom2 (e : List Byte) : Nat := le e 24 6
def lCount (e : List Byte) : Nat := le e 32 5
def lFormat (e : List Byte) : Nat := le e 37 1
def lGhslot (e : List Byte) : Nat := le e 38 2
def lNoDecay (e : List Byte) : Bool := bit (le e 44 1) 0
def lScale (e : List Byte) : Nat := le e 46 6
def lBlocks (e : List Byte) : Bool := formatScale (lFormat e) == 1

/-- Bytes of a master: MW40, or BF16 under LEAN. -/
def masterSize (lean : Bool) : Nat := if lean then 2 else 5

/-- A package summary slot, or none. -/
def slotOk (k : Nat) : Bool := k == 0xFFFF || (0x1000 ≤ k && k ≤ 0x10FF)

/-- A layer entry that R224 or R259 refuses. -/
def layerBad (lean adam : Bool) (e : List Byte) : Bool :=
  let n := lCount e
  !zeros e 52 12 || n == 0 || !([0x02, 0x03, 0x14, 0x15].elem (lFormat e)) || 4 ≤ le e 44 1 ||
    (let x := signed 8 (le e 45 1); x < -16 || 16 < x) || !finiteNonneg (f32At e 40) ||
    !(lGhslot e == 0xFFFF || lGhslot e < 6144) || (lFrozen e && lGhslot e != 0xFFFF) ||
    (lHasRing e && (1023 < lRing e || lWork e != 0)) || (!lBlocks e && lScale e != 0) || (!adam && lMom2 e != 0) ||
    (lBlocks e && n % 32 != 0) || !inStack (lMaster e) (masterSize lean * n) || !inStack (lGrad e) (4 * n) ||
    !inStack (lMom1 e) (4 * n) || (adam && !inStack (lMom2 e) (4 * n)) ||
    (!lHasRing e && !inStack (lWork e) ((formatFmt (lFormat e)).stride0 * n)) ||
    (lBlocks e && !inStack (lScale e) (n / 32))

/-- A payload that R223 or R225 refuses; LS_INIT and R_EXP lie between LS_MIN and LS_MAX (R218). -/
def updatePayloadBad (b : List Byte) : Bool :=
  let adam := uAdam b
  let below (w : W32) : Bool := finiteNonneg w && flt w f32One
  let within (x : Int) : Bool := uLsMin b ≤ x && x ≤ uLsMax b
  1 < le b 0 1 || 16 ≤ le b 1 1 || (adam && uNesterov b) || uLayers b == 0 || 4096 < uLayers b || !below (f32At b 4) ||
    (if adam then !below (f32At b 8) || !finiteNonneg (f32At b 12) || isZero (f32At b 12)
     else le b 8 4 != 0 || le b 12 4 != 0) ||
    !finiteNonneg (f32At b 16) || !finiteNonneg (uClip b) || !addrOk (uTable b) 64 (64 * uLayers b) ||
    !addrOk (uConst b) 64 64 || uLsMin b < -32 || 32 < uLsMin b || uLsMax b < uLsMin b || 32 < uLsMax b ||
    !within (signed 8 (le b (if uRestore b then 80 else 48) 1)) || uSpikeA b == 0 || 15 < uSpikeA b ||
    !finiteNonneg (uSpikeK b) || !slotOk (uLossSlot b) || !(uLossHslot b == 0xFFFF || uLossHslot b < 6144) ||
    !slotOk (uGnorm b) || (!isZero (uClip b) && uGnorm b == 0xFFFF) || uNoiseA b == 0 || 15 < uNoiseA b ||
    !zeros b 67 5 || !zeros b 81 1 || (!uRestore b && !zeros b 72 56)

/-- The configuration in force, or an empty payload. -/
def cfgOf (p : Pkg) : List Byte := p.upd.cfg.getD []

/-- GHSLOTs of the table in force, each once. -/
def ghSlots (p : Pkg) : List Nat := distinct ((p.upd.layers.map lGhslot).filter (· != 0xFFFF))

/-- Set the accumulators of the table to +0.0 (R204, R226); a write that fails is reported. -/
def clearGrads (set : Settings) (p : Pkg) : Pkg :=
  p.upd.layers.foldl (fun q e =>
    let q := match writeError set q (lGrad e) (4 * lCount e) with | some x => memError set x q | none => q
    writeMem set (lGrad e) (List.replicate (4 * lCount e) 0) q) p

/-- 1.0 multiplied by β, `n` times, stopping at +0.0 or where the product no longer changes (R226). -/
def powers (b : W32) : Nat → W32 → W32
  | 0, x => x
  | n + 1, x => if isZero x || fmul x b == x then fmul x b else powers b n (fmul x b)

/-- An UPDATE_CONFIG takes effect (R226). -/
def applyConfig (set : Settings) (b : List Byte) (layers : List (List Byte)) (p : Pkg) : Pkg :=
  let p := clearGrads set { p with upd.cfg := some b, upd.layers := layers }
  let r := uRestore b
  let n := le b 72 8
  { p with
    upd.updates := n
    upd.exp := signed 8 (le b (if r then 80 else 48) 1)
    upd.good := if r then le b 82 2 else 0
    upd.mean := if r then f32At b 84 else p.upd.mean
    upd.dev := if r then f32At b 88 else p.upd.dev
    upd.n := if r then le b 92 4 else 0
    upd.emaG2 := (List.range 4).map fun g => if r then f32At b (96 + 8 * g) else f32NaN
    upd.emaS := (List.range 4).map fun g => if r then f32At b (100 + 8 * g) else f32NaN
    upd.p1 := powers (f32At b 4) n f32One
    upd.p2 := powers (f32At b 8) n f32One }

/-! ### The arithmetic (R227 to R231) -/

/-- Word 0 of a package summary slot; canonical NaN until a chain writes it. -/
def summaryWord (p : Pkg) (slot : Nat) : W32 :=
  ((p.tasks.summ.find? fun x => x.1 == slot).bind fun x => x.2.head?).getD f32NaN

/-- The values formed once for a step. -/
structure StepVals where
  k : W32
  p1 : W32
  p2 : W32
  bc1 : W32
  bc2 : W32
  deriving DecidableEq, Repr

def stepVals (p : Pkg) : StepVals :=
  let b := cfgOf p
  let ex := p.upd.exp
  let gn := fscale (fsqrt (summaryWord p (uGnorm b))) (-ex)
  let c := if !isZero (uClip b) && flt (uClip b) gn then fdiv (uClip b) gn else f32One
  let p1 := fmul p.upd.p1 (f32At b 4)
  let p2 := fmul p.upd.p2 (f32At b 8)
  { k := fscale c (-ex), p1, p2, bc1 := fdiv f32One (fsub f32One p1), bc2 := fdiv f32One (fsub f32One p2) }

/-- lr_L of a layer. -/
def layerRate (lean : Bool) (p : Pkg) (e : List Byte) : W32 :=
  let r := fmul p.step.lr (f32At e 40)
  if lean then fscale r (signed 8 (le e 45 1)) else r

/-- The 16 random bits of element `i` of layer `l` (R229). -/
def randomBits (seed step l i : Nat) : Nat :=
  let m := 2 ^ 64
  let x := (seed + step * 0x9E3779B97F4A7C15 + (l * 2 ^ 40 + i) * 0xD1B54A32D192ED03) % m
  let x := (x ^^^ (x >>> 30)) * 0xBF58476D1CE4E5B9 % m
  let x := (x ^^^ (x >>> 27)) * 0x94D049BB133111EB % m
  let x := x ^^^ (x >>> 31)
  bits x 63 48

/-- What the update makes of an element: its master's bits, its moments, and what it counts; `none` for the moments
where it keeps everything (R228). -/
structure Stepped where
  master : Nat
  moments : Option (W32 × W32)
  nonfin : Bool
  vanished : Bool
  sat : Bool
  deriving DecidableEq, Repr

/-- One unit in the last place of a master, as an exponent (R231). -/
def ulpExp (f : Fmt) (v : Val) : Int :=
  match v with
  | .fin _ m e => if m == 0 then gridExp f.layout 1 (-100000) else gridExp f.layout m e
  | _ => 0

/-- One element under R228: `w` the master's bits, `g0` the accumulator, `m1` and `m2` the moments. -/
def stepElement (b e : List Byte) (sv : StepVals) (lr : W32) (f : Fmt) (w : Nat) (g0 m1 m2 : W32) (r : Nat) : Stepped :=
  let wv := decode f w
  let w32 := toF32 wv
  let b1 := f32At b 4
  let b2 := f32At b 8
  let wd := f32At b 16
  let g := fmul g0 sv.k
  let res : W32 × W32 × W32 × Bool :=
    if uAdam b then
      let m := ffma b1 m1 (fmul (fsub f32One b1) g)
      let v := ffma b2 m2 (fmul (fsub f32One b2) (fmul g g))
      let u := fdiv (fmul m sv.bc1) (fadd (fsqrt (fmul v sv.bc2)) (f32At b 12))
      let u := if lNoDecay e then u else ffma wd w32 u
      let s := fmul lr u
      (m, v, s, isNonFinite m || isNonFinite v || isNonFinite s)
    else
      let g := if lNoDecay e then g else ffma wd w32 g
      let x := ffma b1 m1 g
      let d := if uNesterov b then ffma b1 x g else x
      let s := fmul lr d
      (x, m2, s, isNonFinite x || isNonFinite s)
  let s := res.2.2.1
  if res.2.2.2 then { master := w, moments := none, nonfin := true, vanished := false, sat := false }
  else
    let q := stochastic f (wv.add (ofF32 s).neg) r
    { master := q.1, moments := some (res.1, res.2.1), nonfin := false
      vanished := !isZero s && (ofF32 s).abs.lt (.fin false 1 (ulpExp f wv - 16)), sat := q.2 }

/-- The tensor of a layer's working copy: at WORK, or in a slot of its ring (R230). -/
def workTensor (p : Pkg) (chosen : List (Nat × Nat)) (e : List Byte) : Tensor :=
  let ring := if lHasRing e then ringOf p (lRing e) else none
  let slot := ((chosen.find? fun x => x.1 == lRing e).map (·.2)).getD 0
  let size := (formatFmt (lFormat e)).stride0
  { addr := match ring with | some r => r.base + slot * r.stride | none => lWork e
    format := lFormat e, rank := 1, hslot := 0xFFFF, fill := 0
    ext := [lCount e, 1, 1, 1, 1], str := [size, 0, 0, 0, 0]
    scaleAddr := match ring with | some r => r.scaleBase + slot * r.scaleStride | none => lScale e }

/-- The scale byte of a block of masters (R62 to R64). -/
def masterScale (f : Fmt) (vs : List Val) : Nat :=
  let finite (v : Val) : Bool := match v with | .fin _ _ _ => true | _ => false
  if !vs.all finite then 255
  else (chooseExp f (vs.foldl (fun a v => if a.lt v.abs then v.abs else a) (.fin false 0 0)) + 127).toNat

/-- The writes of a working copy from its masters (R230). -/
def workOps (t : Tensor) (vs : List Val) : List WOp :=
  let n := vs.length
  if t.blockScaled then
    (List.range (n / 32)).flatMap fun k =>
      let g := (vs.drop (32 * k)).take 32
      let s := masterScale t.fmt g
      .bytes (t.scaleAddr + k) (leBytes 1 s) ::
        ((List.range 32).zip g).flatMap fun x => (writeElem t [32 * k + x.1, 0, 0, 0, 0] x.2 (some s)).1
  else ((List.range n).zip vs).flatMap fun x => (writeElem t [x.1, 0, 0, 0, 0] x.2 none).1

/-- What the update of one layer writes and counts: UPDATE_NONFIN, VANISHED, SAT_MASTER. -/
structure LayerOut where
  ws : List WOp
  nonfin : Nat
  vanished : Nat
  sat : Nat
  deriving DecidableEq, Repr

def updateLayer (set : Settings) (p : Pkg) (l : Nat) (e : List Byte) : LayerOut :=
  let n := lCount e
  let zero : WOp := .bytes (lGrad e) (List.replicate (4 * n) 0)
  if lFrozen e then { ws := [zero], nonfin := 0, vanished := 0, sat := 0 }
  else
    let b := cfgOf p
    let f : Fmt := if set.lean then .bf16 else .mw40
    let z := masterSize set.lean
    let sv := stepVals p
    let lr := layerRate set.lean p e
    let word (a i : Nat) : W32 := BitVec.ofNat 32 (readLe set p (a + 4 * i) 4)
    let rs := (List.range n).map fun i =>
      stepElement b e sv lr f (readLe set p (lMaster e + z * i) z) (word (lGrad e) i) (word (lMom1 e) i)
        (if uAdam b then word (lMom2 e) i else 0) (randomBits (le b 32 8) p.step.num l i)
    let own := ((List.range n).zip rs).flatMap fun x =>
      match x.2.moments with
      | none => []
      | some (m, v) =>
        [.bytes (lMaster e + z * x.1) (leBytes z x.2.master), .bytes (lMom1 e + 4 * x.1) (leBytes 4 m.toNat)] ++
          if uAdam b then [.bytes (lMom2 e + 4 * x.1) (leBytes 4 v.toNat)] else []
    { ws := own ++ workOps (workTensor p p.step.chosen e) (rs.map fun r => decode f r.master) ++ [zero]
      nonfin := rs.countP (·.nonfin), vanished := rs.countP (·.vanished), sat := rs.countP (·.sat) }

/-- The outcome of every layer, in the table's order. -/
def updateAll (set : Settings) (p : Pkg) : List LayerOut :=
  ((List.range p.upd.layers.length).zip p.upd.layers).map fun x => updateLayer set p x.1 x.2

/-- The first failing access of the update (R233). -/
def updateError (set : Settings) (p : Pkg) : Option Nat :=
  if healthy p then none
  else
    firstSome (fun e =>
      let n := lCount e
      let t := workTensor p p.step.chosen e
      let rw (a m : Nat) : Option Nat := (readError set p a m).or (writeError set p a m)
      if lFrozen e then writeError set p (lGrad e) (4 * n)
      else
        (rw (lMaster e) (masterSize set.lean * n)).or ((rw (lGrad e) (4 * n)).or ((rw (lMom1 e) (4 * n)).or
          ((if uAdam (cfgOf p) then rw (lMom2 e) (4 * n) else none).or
            ((writeError set p t.addr (n * t.s 0)).or
              (if t.scaled then writeError set p t.scaleAddr (n / 32) else none)))))) p.upd.layers

/-- Layers that the update writes. -/
def layersUpdated (p : Pkg) : Nat := p.upd.layers.countP fun e => !lFrozen e

/-! ### Loss scale, baseline, noise (R219 to R222, R237, R238) -/

/-- GOOD and EXP at a commit (R219). -/
def growScale (b : List Byte) (u : Upd) : Upd :=
  let good := min 65535 (u.good + 1)
  if uGrowth b != 0 && uGrowth b ≤ good && u.exp < uLsMax b then { u with good := 0, exp := u.exp + 1 }
  else { u with good := good }

/-- The loss L of the step. -/
def stepLoss (p : Pkg) : W32 := if uLossSlot (cfgOf p) == 0xFFFF then f32NaN else summaryWord p (uLossSlot (cfgOf p))

/-- A loss spike (R221). -/
def isSpike (p : Pkg) : Bool :=
  let b := cfgOf p
  !isZero (uSpikeK b) && uLossSlot b != 0xFFFF && uWarmup b ≤ p.upd.n &&
    flt (ffma (uSpikeK b) p.upd.dev p.upd.mean) (stepLoss p)

/-- 2^−a. -/
def alpha (a : Nat) : W32 := fscale f32One (-(a : Int))

/-- The baseline at a commit (R222). -/
def moveBaseline (b : List Byte) (loss : W32) (u : Upd) : Upd :=
  if uLossSlot b == 0xFFFF then u
  else
    let a := alpha (uSpikeA b)
    let n := satAdd 0xFFFFFFFF u.n 1
    if u.n == 0 then { u with mean := loss, dev := posZero, n := n }
    else
      let d := fsub loss u.mean
      { u with mean := ffma a d u.mean, dev := ffma a (fsub (fabs d) u.dev) u.dev, n := n }

/-- FP32 sum of a list in order. -/
def sumInOrder : List W32 → W32
  | [] => posZero
  | x :: xs => xs.foldl fadd x

/-- The noise block's terms of group `g` at the seal (R237, R238, R340): LOCAL_SQ, GLOBAL_SQ, N, RALLIES, G2, S. -/
def noiseOf (p : Pkg) (g : Nat) : List Nat :=
  let mine := ((p.colls.past.filter fun c => c.group == g && c.stats.isSome).mergeSort fun a b => a.rid ≤ b.rid).filterMap (·.stats)
  let s := sumInOrder (mine.map (·.1))
  let gl := sumInOrder (mine.map (·.2))
  let n := (groupOf p g).n
  let nf := f32Nat n
  let t := fdiv gl (fmul nf nf)
  let n1 := fsub nf f32One
  let ok := 2 ≤ n && !mine.isEmpty
  let g2 := if ok then fdiv (fsub (fmul nf t) s) n1 else f32NaN
  let sn := if ok then fdiv (fmul (fmul (fsub s t) (f32Nat p.step.tokens)) nf) n1 else f32NaN
  [s.toNat, gl.toNat, n, mine.length, g2.toNat, sn.toNat]

/-- An average at a commit (R238). -/
def moveAverage (a : Nat) (x est : W32) : W32 :=
  if isNaN est then x else if isNaN x then est else ffma (alpha a) (fsub est x) x

def noiseWord (p : Pkg) (g k : Nat) : W32 := BitVec.ofNat 32 (((p.step.noise.getD g []).getD k f32NaN.toNat))

def moveNoise (p : Pkg) (u : Upd) : Upd :=
  let a := uNoiseA (cfgOf p)
  { u with
    emaG2 := (List.range 4).map fun g => moveAverage a (u.emaG2.getD g f32NaN) (noiseWord p g 4)
    emaS := (List.range 4).map fun g => moveAverage a (u.emaS.getD g f32NaN) (noiseWord p g 5) }

/-- The non-finite test (R215). -/
def nonfiniteStep (p : Pkg) : Bool :=
  let b := cfgOf p
  (uLossSlot b != 0xFFFF && isNonFinite (summaryWord p (uLossSlot b))) ||
    (uLossHslot b != 0xFFFF && (healthOf p (uLossHslot b)).nonfin != 0) ||
    (ghSlots p).any (fun k => (healthOf p k).nonfin != 0) ||
    (!isZero (uClip b) && isNonFinite (summaryWord p (uGnorm b)))

/-! ### The step record (R236, R237) -/

/-- FLAGS of the record. -/
def stepFlags (s : Step) : Nat := b2n s.spike + 2 * b2n s.torn + 4 * b2n s.late + 8 * b2n s.lsFloor

/-- The noise block of a group in the record (R237): the terms of the seal, or, in a step that aborts before it, those of
the reductions that completed (DESIGN CHOICE, log entry 71: R238 forms the estimates at seal). -/
def noiseBlock (p : Pkg) (g : Nat) : List Byte :=
  let w := p.step.noise.getD g (noiseOf p g)
  let g2 := p.upd.emaG2.getD g f32NaN
  let s := p.upd.emaS.getD g f32NaN
  let bn := if flt posZero g2 then fdiv s g2 else f32NaN
  leBytes 4 (w.getD 0 0) ++ leBytes 4 (w.getD 1 0) ++ leBytes 2 (w.getD 2 0) ++ leBytes 2 (min 0xFFFF (w.getD 3 0)) ++
    leBytes 4 (w.getD 4 0) ++ leBytes 4 (w.getD 5 0) ++ leBytes 4 g2.toNat ++ leBytes 4 s.toNat ++ leBytes 4 bn.toNat

def cursors (p : Pkg) : List Nat := (List.range 8).map fun n => (stageAt p n).cursor

/-- The 320 bytes of the record in a state of the step, with the status of its end. -/
def stepRecord (p : Pkg) (st : StepState) (status : Nat) : List Byte :=
  let s := p.step
  let gh := (ghSlots p).map (healthOf p)
  leBytes 8 s.num ++ leBytes 1 (stepCode st) ++ leBytes 1 status ++ leBytes 2 s.failMask ++ leBytes 2 (stepFlags s) ++
    leBytes 2 s.epoch ++ leBytes 4 s.modeWord ++ leBytes 4 0 ++ leBytes 8 s.tOpen ++ leBytes 8 s.tSeal ++
    leBytes 8 (now p) ++ (s.cursorOpen.flatMap fun c => leBytes 4 c) ++ ((cursors p).flatMap fun c => leBytes 4 c) ++
    leBytes 4 (stepLoss p).toNat ++ leBytes 4 p.upd.mean.toNat ++ leBytes 4 p.upd.dev.toNat ++ leBytes 4 p.upd.n ++
    leBytes 1 (unsigned 8 s.expOpen) ++ leBytes 1 (unsigned 8 p.upd.exp) ++
    leBytes 2 (if st == .committed then p.upd.good else s.goodOpen) ++ leBytes 4 s.unchecked ++ leBytes 8 s.tiles ++
    leBytes 4 s.recomputed ++ leBytes 4 (countAdd 0 (gh.map (·.nonfin)).sum) ++
    leBytes 4 (countAdd 0 (gh.map (·.raised)).sum) ++ leBytes 4 s.updNonfin ++ leBytes 8 s.vanished ++
    leBytes 4 s.satMaster ++ leBytes 4 0 ++ ((List.range 4).flatMap (noiseBlock p)) ++ List.replicate 16 0

def writeRecord (set : Settings) (st : StepState) (status : Nat) (p : Pkg) : Pkg :=
  writeBlock set p.step.record (stepRecord p st status) p

/-! ### Conversion of masters (R232) -/

/-- Convert the masters of one layer; one that meets an uncorrectable error is reported and left (log entry 33). -/
def convertLayer (set : Settings) (toLean : Bool) (e : List Byte) (p : Pkg) : Pkg :=
  let n := lCount e
  let a := lMaster e
  let z := masterSize (!toLean)
  match (readError set p a (z * n)).or (writeError set p a (masterSize toLean * n)) with
  | some x => memError set x p
  | none =>
    let vs := (List.range n).map fun i => readLe set p (a + z * i) z
    let bs := if toLean then vs.flatMap fun v => leBytes 2 (convert .bf16 true (decode .mw40 v)).bits
      else vs.flatMap fun v => leBytes 5 (convert .mw40 true (decode .bf16 v)).bits
    writeMem set a bs p

def convertMasters (set : Settings) (toLean : Bool) (p : Pkg) : Pkg :=
  p.upd.layers.foldl (fun q e => convertLayer set toLean e q) p

end Sys2Proof.Machine
end

