-- ==== Sys2Proof/Machine/Stash.lean ====
section
/-! DEFINITION. The set-up of hollows (R241, R242) and of weight version rings (R260, R261). -/

namespace Sys2Proof.Machine

/-! ### HOLLOW_CONFIG -/

/-- A region that starts in the stack region's bounds on a multiple of `al`. -/
def regionBad (a n al : Nat) : Bool := 2 ^ 48 ≤ a || a % al != 0 || !inStack a n

/-- A field of HOLLOW_CONFIG breaks R241. -/
def hollowFieldsBad (b : List Byte) : Bool :=
  let size := le b 16 8
  let reserve := le b 24 8
  7 < le b 0 1 || 1 < le b 1 1 || !zeros b 4 4 || !zeros b 32 32 ||
    (if le b 1 1 == 1 then !zeros b 2 2 || !zeros b 8 24
     else 256 < le b 2 2 || size == 0 || size % hollowUnit != 0 || reserve % hollowUnit != 0 || size < reserve ||
       regionBad (le b 8 8) size hollowUnit)

/-- The region or the share of the cache does not fit beside the others (R242). -/
def hollowRoomBad (p : Pkg) (b : List Byte) : Bool :=
  let n := le b 0 1
  let others := (List.range 8).filter fun k => k != n && (hollowAt p k).on
  le b 1 1 == 0 &&
    (overlaps (le b 8 8) (le b 16 8) p.mem.j1Base p.mem.j1Size ||
      others.any (fun k => overlaps (le b 8 8) (le b 16 8) (hollowAt p k).base (hollowAt p k).size) ||
      256 < le b 2 2 + (others.map fun k => (hollowAt p k).cache).sum)

/-- A stash task of a stage runs; a PUSH that waits has not started (R246, R250). -/
def stashRuns (p : Pkg) (f : Nat → Bool) : Bool :=
  p.tasks.runs.any fun r => match instOf p r.iid with
    | some i =>
      let t := tType (i.desc r.task)
      !r.waits && 0x20 ≤ t && t ≤ 0x22 && f (le (tBody (i.desc r.task)) 0 1)
    | none => false

def hollowConfig (w : Who) (b : List Byte) (p : Pkg) : Pkg :=
  let n := le b 0 1
  if hollowFieldsBad b || hollowRoomBad p b then answer w stBadParam 0 0 p
  else if stepBusy p || (hollowAt p n).segs != [] || stashRuns p (· == n) then answer w stBadState 0 0 p
  else
    answer w stOk 0 0 (modHollow n (fun _ =>
      if le b 1 1 == 1 then {}
      else { on := true, cache := le b 2 2, base := le b 8 8, size := le b 16 8, reserve := le b 24 8 }) p)

def execHollowConfig (q : Nat) (s : State) : Host.Outcome State Fault Refusal :=
  onPacketP q 0x0401 (fun w b _ p => hollowConfig w b p) s

/-! ### RING_CONFIG -/

/-- A configured ring as a payload of R260 sets it, with slot 0 at the package version (R261). -/
def ringFrom (p : Pkg) (b : List Byte) : Ring :=
  { id := le b 0 2, slots := le b 3 1, format := le b 4 1, retain := le b 5 1, count := le b 8 8, base := le b 16 8
    stride := le b 24 8, scaleBase := le b 32 8, scaleStride := le b 40 8
    versions := [⟨p.rings.version, 0, p.reshard.epoch⟩] }

/-- The slots of a ring and their scales: an address or a size breaks R260 or R360, or a slot leaves the stack region. -/
def ringRoomBad (r : Ring) : Bool :=
  let n := ringBytes r
  let m := ringScales r
  let scaled := formatScale r.format == 1
  let span := (r.slots - 1) * r.stride
  scalePart < n || 2 ^ 48 ≤ r.base || r.base % 64 != 0 || r.stride % 64 != 0 || r.stride < n || !inStack (r.base + span) n ||
    (if scaled then 2 ^ 48 ≤ r.scaleBase ||
        !inStack (r.scaleBase + (r.slots - 1) * r.scaleStride) m
     else r.scaleBase != 0 || r.scaleStride != 0)

/-- A field of RING_CONFIG breaks R260 or R261. -/
def ringFieldsBad (p : Pkg) (b : List Byte) : Bool :=
  let op := le b 2 1
  2 < op || !zeros b 48 16 ||
    (if op == 0 then
      let r := ringFrom p b
      1023 < r.id || r.slots < 2 || 8 < r.slots || !([0x02, 0x03, 0x14, 0x15].elem r.format) || r.slots ≤ r.retain ||
        !zeros b 6 2 || r.count == 0 || 2 ^ 40 ≤ r.count || (formatScale r.format == 1 && r.count % 32 != 0) ||
        ringRoomBad r
     else if op == 1 then 1023 < le b 0 2 || !zeros b 3 45
     else !zeros b 0 2 || !zeros b 3 3 || !zeros b 8 40)

/-- A ring that RELEASE may not take (R261). -/
def ringNeeded (p : Pkg) (id : Nat) : Bool :=
  match ringOf p id with
  | none => false
  | some r =>
    (p.upd.cfg.isSome && p.upd.layers.any fun e => lRing e == id) ||
      r.versions.any fun v => heldByTask p id v.num || stamped p v.num

def ringConfig (w : Who) (b : List Byte) (p : Pkg) : Pkg :=
  let op := le b 2 1
  let id := le b 0 2
  if ringFieldsBad p b then answer w stBadParam 0 0 p
  else if stepBusy p || (op == 0 && (ringOf p id).isSome) || (op == 1 && ringNeeded p id) ||
      (op == 2 && p.rings.rings != []) then answer w stBadState 0 0 p
  else if op == 0 then answer w stOk 0 0 { p with rings.rings := p.rings.rings ++ [ringFrom p b] }
  else if op == 1 then answer w stOk 0 0 { p with rings.rings := p.rings.rings.filter fun r => r.id != id }
  else answer w stOk 0 0 { p with rings.version := le b 6 2 }

def execRingConfig (q : Nat) (s : State) : Host.Outcome State Fault Refusal :=
  onPacketP q 0x0402 (fun w b _ p => ringConfig w b p) s

end Sys2Proof.Machine
end

