-- ==== Sys2Proof/Machine/Pipeline.lean ====
section
/-! DEFINITION. Hosted stages and fixtures (R270 to R297): STAGE_CONFIG, FIXTURE_LOAD, the launch rule, the messages of
VC2. -/

namespace Sys2Proof.Machine

/-! ### STAGE_CONFIG (R270 to R272) -/

/-- One of the two queues of a CONFIGURE breaks R270. -/
def queueFieldsBad (nb base slot depth : Nat) : Bool :=
  if nb == 0xFFFF then base != 0 || slot != 0 || depth != 0
  else depth == 0 || 64 < depth || slot % 4096 != 0 || slot < 4096 || 2 ^ 30 < slot || regionBad base (slot * depth) 4096

/-- A peer's address that R270 with R403 refuses: reserved bits of the encoding of the routing mode in force are set. -/
def peerBad (l : Links) (a : Nat) : Bool := a != 0xFFFFFFFF && (if l.tableMode then 2 ^ 12 else 2 ^ 30) ≤ a

/-- A field of STAGE_CONFIG breaks R270 or the first item of R271. -/
def stageFieldsBad (l : Links) (b : List Byte) : Bool :=
  let op := le b 1 1
  let s : Stage := { cfg := b }
  7 < le b 0 1 || 2 < op || !zeros b 72 56 ||
    (if op == 1 then !zeros b 2 70
     else if op == 2 then !zeros b 2 28 || !zeros b 32 40
     else
      1023 < s.job || (1023 < s.upStage && s.upStage != 0xFFFF) || (1023 < s.downStage && s.downStage != 0xFFFF) ||
        peerBad l s.upPeer || peerBad l s.downPeer || s.job == s.upStage || s.job == s.downStage || (s.upStage == s.downStage && s.upStage != 0xFFFF) ||
        queueFieldsBad s.upStage s.actBase s.actSlot s.actDepth ||
        queueFieldsBad s.downStage s.gradBase s.gradSlot s.gradDepth || s.slotNs == 0 || 4096 < s.records ||
        (s.records == 0 && s.recordBase != 0) || regionBad s.recordBase (64 * s.records) 64)

/-- The bytes a stage's queues and record ring occupy. -/
def stageRanges (s : Stage) : List (Nat × Nat) :=
  [(s.actBase, s.actSlot * s.actDepth), (s.gradBase, s.gradSlot * s.gradDepth), (s.recordBase, 64 * s.records)]

/-- The slots of a ring and their scale arrays. -/
def ringRanges (r : Ring) : List (Nat × Nat) :=
  (List.range r.slots).flatMap fun k =>
    [(r.base + k * r.stride, ringBytes r), (r.scaleBase + k * r.scaleStride, ringScales r)]

/-- What a stage's memory must keep clear of (R271). -/
def takenRanges (p : Pkg) (n : Nat) : List (Nat × Nat) :=
  [(p.mem.j1Base, p.mem.j1Size)] ++ (p.hollow.stages.filter (·.on)).map (fun h => (h.base, h.size)) ++
    p.rings.rings.flatMap ringRanges ++
    ((List.range 8).filter fun k => k != n && (stageAt p k).on).flatMap fun k => stageRanges (stageAt p k)

/-- A queue or the record ring overlaps what R271 names. -/
def stageRoomBad (p : Pkg) (b : List Byte) : Bool :=
  le b 1 1 == 0 &&
    (stageRanges { cfg := b }).any fun r => (takenRanges p (le b 0 1)).any fun t => overlaps r.1 r.2 t.1 t.2

/-- A stage holds a loaded fixture, or a live instance that one of its fixtures launched (R271). -/
def stageUsed (p : Pkg) (n : Nat) : Bool :=
  p.pipe.fixtures.any (fun f => le f.entry 20 1 == n) ||
    p.tasks.insts.any fun i => match i.origin with | .fixture k _ => k == n | _ => false

/-- A credit view under a generation: the RESET kept for it takes effect (R278); else no slot is free. -/
def viewUnder (gen : Nat) (v : View) : View :=
  match v.kept with
  | some (g, depth) => if g == gen then { depth, free := List.range depth } else { v with depth := 0, free := [] }
  | none => {}

/-- What CONFIGURE and RESYNC both do to a stage (R272). -/
def resyncStage (gen : Nat) (s : Stage) : Stage :=
  { s with gen, msgs := [], slip := 0, resync := false, down := viewUnder gen s.down, up := viewUnder gen s.up }

/-- RESET to each neighbour that exists (R272): the depth of the queue that its link feeds. -/
def sendReset (n : Nat) (up : Bool) (p : Pkg) : Pkg :=
  let s := stageAt p n
  if s.neighbour up == 0xFFFF then p
  else sendStage (s.peer up)
    { kind := 3, depth := s.depth (!up), dstStage := s.neighbour up, srcStage := s.job, gen := s.gen, step := 0, mb := 0
      epoch := 0, length := 0 } [] p

/-- SENDs of a stage that wait for credit fail (R283). -/
def failSends (set : Settings) (n : Nat) (p : Pkg) : Pkg :=
  failRuns set (fun r => r.waits && match instOf p r.iid with
    | some i => tType (i.desc r.task) == 0x30 && le (tBody (i.desc r.task)) 0 1 == n
    | none => false) (fun _ => stBadState) p

/-- A stage as CONFIGURE makes it. -/
def configuredStage (b : List Byte) (s : Stage) : Stage :=
  resyncStage (le b 30 2) { on := true, cfg := b, cursor := le b 60 4, down := s.down, up := s.up }

def stageConfig (w : Who) (b : List Byte) (set : Settings) (p : Pkg) : Pkg :=
  let n := le b 0 1
  let op := le b 1 1
  if stageFieldsBad p.links b || stageRoomBad p b then answer w stBadParam 0 0 p
  else if stepBusy p || (op != 2 && stageUsed p n) || (op == 2 && !(stageAt p n).on) then answer w stBadState 0 0 p
  else if op == 2 && le b 30 2 == (stageAt p n).gen then answer w stBadParam 0 0 p
  else
    let p := if op == 2 then p else failSends set n p
    if op == 1 then answer w stOk 0 0 (modStage n (fun _ => {}) p)
    else
      let p := modStage n (fun s => if op == 0 then configuredStage b s else resyncStage (le b 30 2) s) p
      answer w stOk 0 0 (sendReset n false (sendReset n true p))

def execStageConfig (q : Nat) (s : State) : Host.Outcome State Fault Refusal := onPacketP q 0x0501 stageConfig s

/-! ### FIXTURE_LOAD (R284 to R288) -/

def fT (e : List Byte) : Nat := le e 0 8
def fW (e : List Byte) : Nat := le e 8 4
def fGraph (e : List Byte) : Nat := le e 12 2
def fMb (e : List Byte) : Nat := le e 14 2
def fStep (e : List Byte) : Nat := le e 16 4
def fStage (e : List Byte) : Nat := le e 20 1
def fFlags (e : List Byte) : Nat := le e 21 1
def fSpan (e : List Byte) : Nat := le e 22 1

/-- An entry that the first item of R286 refuses. -/
def fixtureBad (p : Pkg) (e : List Byte) : Bool :=
  let s := stageAt p (fStage e)
  fW e == 0 || 7 < fStage e || 32 ≤ fFlags e || fSpan e == 0 || 16 < fSpan e || !zeros e 23 9 || 1023 < fGraph e ||
    (match graphOf p (fGraph e) with | some g => g.j1 | none => false) ||
    (s.on && ((bit (fFlags e) 2 && s.upStage == 0xFFFF) || (bit (fFlags e) 3 && s.downStage == 0xFFFF)))

/-- The launch would carry a token beyond its DEPTH (R286). -/
def fixtureTokenBad (p : Pkg) (e : List Byte) : Bool :=
  match graphOf p (fGraph e) with
  | some g => (fixtureTokens (fStage e) (fFlags e) g.tokens).any fun t => t.depth < t.count
  | none => false

/-- The least T of the fixture that follows one (R287). -/
def nextT (p : Pkg) (e : List Byte) : Nat := fT e + fSpan e * (stageAt p (fStage e)).slotNs

/-- The last fixture of a stage among some, or what the stage launched last. -/
def leastT (p : Pkg) (n : Nat) (es : List (List Byte)) : Option Nat :=
  match (es.filter fun e => fStage e == n).getLast? with
  | some e => some (nextT p e)
  | none => (stageAt p n).tail

/-- Unlaunched entries of the table in the order loaded. -/
def unlaunched (p : Pkg) : List (List Byte) := (p.pipe.fixtures.filter fun f => !f.launched).map (·.entry)

/-- Entry `k` breaks the spacing of R287. -/
def spacingBad (p : Pkg) (es : List (List Byte)) (k : Nat) : Bool :=
  let e := es.getD k []
  match leastT p (fStage e) (unlaunched p ++ es.take k) with
  | some t => fT e < t
  | none => false

/-- The first failing entry of R286 with its status. -/
def fixtureError (p : Pkg) (es : List (List Byte)) : Option (Nat × Nat) :=
  let first (f : Nat → Bool) (st : Nat) : Option (Nat × Nat) := ((List.range es.length).find? f).map fun k => (st, k)
  let at_ (f : List Byte → Bool) (k : Nat) : Bool := f (es.getD k [])
  (first (at_ (fixtureBad p)) stBadParam).or ((first (at_ (fixtureTokenBad p)) stBadParam).or
    ((first (spacingBad p es) stBadParam).or
      (first (at_ fun e => !(stageAt p (fStage e)).on || (graphOf p (fGraph e)).isNone) stBadState)))

/-- The step an entry names is past its opening (R286). -/
def stepPast (p : Pkg) (e : List Byte) : Bool :=
  fStep e == p.step.num % 2 ^ 32 && p.step.state != .none && p.step.state != .opened

def freeFixtures (p : Pkg) : Nat := 4096 - p.pipe.fixtures.length

/-- Place an entry in the table. -/
def placeFixture (w : Who) (p : Pkg) (e : List Byte) : Pkg :=
  let pk : Nat × Nat × Nat × Nat := match w with
    | .queue q num => match findPacket p q num with
      | some k => (q, k.seq, k.qtag, k.replyAddr)
      | none => (0, 0, 0, 0)
    | _ => (0, 0, 0, 0)
  { p with
    pipe.fixtures := p.pipe.fixtures ++ [{ id := p.pipe.nextFix, entry := e, q := pk.1, seq := pk.2.1, qtag := pk.2.2.1
                                           replyAddr := pk.2.2.2 }]
    pipe.nextFix := p.pipe.nextFix + 1 }

def fixtureLoad (w : Who) (b : List Byte) (set : Settings) (p : Pkg) : Pkg :=
  let count := le b 2 2
  match readError set p (le b 8 8) (32 * count) with
  | some x => answer w stMem 0 0 (memError set x p)
  | none =>
    let es := chunksOf 32 count (readMem set p (le b 8 8) (32 * count))
    match fixtureError p es with
    | some (st, k) => answer w st k 0 p
    | none =>
      if es.any (stepPast p) then answer w stBadState 0 0 p
      else if freeFixtures p < count then answer w stBadState (freeFixtures p) 0 p
      else answer w stOk 0 0 (es.foldl (placeFixture w) p)

/-- Remove the unlaunched fixtures of the stages that `f` names. -/
def removeFixtures (f : Nat → Bool) (p : Pkg) : Pkg :=
  { p with pipe.fixtures := p.pipe.fixtures.filter fun x => x.launched || !f (fStage x.entry) }

def fixtureClear (w : Who) (b : List Byte) (p : Pkg) : Pkg :=
  let n := le b 1 1
  let named (k : Nat) : Bool := n == 0xFF || k == n
  if p.step.state == .sealing || p.step.state == .sealed || p.step.state == .committing then answer w stBadState 0 0 p
  else
    let q := removeFixtures named p
    let gone := p.pipe.fixtures.length - q.pipe.fixtures.length
    answer w stOk 0 gone ((((List.range 8).filter named).foldl (fun q k => modStage k (fun s => { s with slip := 0 }) q)) q)

def fixturePacket (w : Who) (b : List Byte) (set : Settings) (p : Pkg) : Pkg :=
  let op := le b 0 1
  let bad :=
    if op == 0 then le b 1 1 != 0 || le b 2 2 == 0 || 4096 < le b 2 2 || !addrOk (le b 8 8) 32 (32 * le b 2 2)
    else 1 < op || (7 < le b 1 1 && le b 1 1 != 0xFF) || !zeros b 2 2 || !zeros b 8 8
  if bad || !zeros b 4 4 || !zeros b 16 48 then answer w stBadParam 0 0 p
  else if op == 0 then fixtureLoad w b set p else fixtureClear w b p

def execFixtureLoad (q : Nat) (s : State) : Host.Outcome State Fault Refusal := onPacketP q 0x0502 fixturePacket s

/-! ### The launch rule (R290 to R294) -/

/-- The next fixture of a stage: the first that has not launched. -/
def nextFixture (p : Pkg) (n : Nat) : Option Fixture := p.pipe.fixtures.find? fun f => !f.launched && fStage f.entry == n

/-- A fixture's step is OPEN (R290). -/
def fixtureOpen (p : Pkg) (e : List Byte) : Bool :=
  p.step.state == .opened && !p.step.aborting && fStep e == p.step.num % 2 ^ 32

/-- The message of a queue that a fixture needs (R290). -/
def neededMsg (p : Pkg) (e : List Byte) (grad : Bool) : Option Held :=
  let s := stageAt p (fStage e)
  s.msgs.find? fun m => m.grad == grad && m.who.isNone && m.mb == fMb e && m.step % 2 ^ 32 == fStep e &&
    m.slot == fMb e % s.depth grad

/-- The messages a fixture needs, activation first; none while one of them has not arrived. -/
def neededMsgs (p : Pkg) (e : List Byte) : Option (List Held) :=
  let want := [(false, bit (fFlags e) 2), (true, bit (fFlags e) 3)].filter (·.2)
  let got := want.filterMap fun x => neededMsg p e x.1
  if got.length == want.length then some got else none

/-- What R290 gives for a launch, in raw counts (R450): L, the slip after it, a, te and e, and the record's flags without
NEAR and SLIP_EVENT. -/
structure Launch where
  l : Nat
  slip : Nat
  a : Nat
  late : Bool
  early : Bool
  held : Bool
  te : Nat
  e : Nat
  deriving DecidableEq, Repr

/-- Whole nanoseconds as a raw count (R434). -/
def nsRaw (ns : Nat) : Nat := ns * 65536

/-- The arithmetic of R290, on raw counts with their fraction (R450). Without a launch before it, or without a message, the
term is minus infinity, which is 0 among times that are never negative. -/
def launchRule (s : Stage) (e : List Byte) (a : Option Nat) (o : Nat) : Launch :=
  let t := nsRaw (fT e)
  let te := t + s.slip
  let ee := te + nsRaw (fW e)
  let prev := s.prev.getD 0
  let earliest := if bit (fFlags e) 0 then prev else max prev (te - min s.slip (nsRaw s.catchup))
  let l := max earliest (max (a.getD 0) o)
  { l, a := a.getD 0, te, e := ee, late := ee ≤ l, early := l < te
    slip := if ee ≤ l then l - t else if l < te then l - t else s.slip
    held := earliest < o && a.getD 0 < o }

/-- The difference of two instants. -/
def apart (a b : Nat) : Nat := max a b - min a b

/-- A fixture that launches takes its place in its stage (R290 to R293, R296). -/
def noteLaunch (f : Fixture) (r : Launch) (near event : Bool) (p : Pkg) : Pkg :=
  let n := fStage f.entry
  let flags := b2n r.late + 2 * b2n near + 4 * b2n r.early + 8 * b2n event + 16 * b2n r.held
  let k := (stageAt p n).launched
  let p := { p with pipe.fixtures := p.pipe.fixtures.map fun x =>
    if x.id == f.id then { x with launched := true, l := r.l, a := r.a, slip := r.slip, flags, k } else x }
  modStage n (fun s => { s with
    slip := r.slip, prev := some r.l, tail := some (nextT p f.entry), launched := s.launched + 1
    slips := satAdd 0xFFFF s.slips (b2n event)
    cursor := if bit (fFlags f.entry) 1 then s.cursor else (s.cursor + 1) % 2 ^ 32 }) p

/-- An instance that fails at once (R280, R291): it consumes its messages and ends with BAD_STATE. -/
def failFixture (set : Settings) (f : Fixture) (p : Pkg) : Pkg :=
  let n := fStage f.entry
  let iid := p.tasks.nextIid
  let p := consume n (fMb f.entry) (fStep f.entry) (fFlags f.entry) iid { p with tasks.nextIid := iid + 1 }
  endFixture set iid n f.id stBadState (failStep 0 stBadState p)

/-- Launch the next fixture of a stage once its instant L has come. -/
def fixtureLaunch (n : Nat) (set : Settings) (p : Pkg) : Pkg :=
  let s := stageAt p n
  match nextFixture p n with
  | none => p
  | some f =>
    match neededMsgs p f.entry, graphOf p (fGraph f.entry) with
    | some ms, some g =>
      let a := (ms.map (·.at_)).foldl (fun (m : Option Nat) x => some (max (m.getD 0) x)) none
      let r := launchRule s f.entry a p.step.openAt
      if !s.on || s.resync || !fixtureOpen p f.entry || p.ft.count < r.l then p
      else
        let u := uncertAt p.ft r.l
        let limit := nsRaw s.slipLimit
        let event := s.slip ≤ limit && limit < r.slip && s.slipLimit != 0xFFFFFFFF
        let near := apart r.l r.e ≤ u || apart r.l r.te ≤ u
        let p := noteLaunch f r near event p
        let p := if event then
            raise (320 + n) (logAt near 0x0501 stSlip 0xFFFF [d2 n, d2 (fMb f.entry), d8 (r.slip / 65536)] p) else p
        if liveNumber p g.id (fMb f.entry) || ms.any (fun m => m.epoch != p.reshard.epoch) then failFixture set f p
        else acceptRun set g (fMb f.entry) (.fixture n f.id) p
    | _, _ => p

def execFixtureLaunch (stage : Nat) (s : State) : Host.Outcome State Fault Refusal :=
  onP (fun set p => finish set (fixtureLaunch stage set p)) s

/-- The end of a fixture's watch: WATCH after its e, as a raw count (R294). -/
def watchEnd (p : Pkg) (e : List Byte) : Nat :=
  let s := stageAt p (fStage e)
  s.slip + nsRaw (fT e + fW e + (if s.watchMs == 0 then p.integ.watchMs else s.watchMs) * 1000000)

/-- A fixture of the open step is hung (R294). -/
def fixtureHung (n : Nat) (p : Pkg) : Pkg :=
  match p.pipe.fixtures.find? fun f => !f.launched && !f.hung && fStage f.entry == n && fixtureOpen p f.entry &&
      watchEnd p f.entry ≤ p.ft.count with
  | none => p
  | some f =>
    let p := { p with pipe.fixtures := p.pipe.fixtures.map fun x => if x.id == f.id then { x with hung := true } else x }
    log 0x0502 stHung 0xFFFF [] (failStep 0 stHung p)

def execFixtureHung (stage : Nat) (s : State) : Host.Outcome State Fault Refusal :=
  onP (fun _ p => fixtureHung stage p) s

/-! ### Messages (R277 to R281) -/

/-- The configured hosted stage with a job stage number. -/
def stageOfJob (p : Pkg) (job : Nat) : Option Nat := (List.range 8).find? fun n => (stageAt p n).on && (stageAt p n).job == job

/-- A message is discarded with what its row of R279 gives: the discard count, an event, a step bit. -/
def discardMsg (n : Nat) (counted event : Bool) (status : Option Nat) (p : Pkg) : Pkg :=
  let p := if counted then modStage n (fun s => { s with discard := satAdd 0xFFFF s.discard 1 }) p else p
  let p := if event then log 0x0503 (status.getD 0) 0xFFFF [] p else p
  match status with
  | some st => failLive 0 st p
  | none => p

/-- STEP of a message is below the current step, or names a step that has committed (R279). -/
def stepDone (p : Pkg) (step : Nat) : Bool := step < p.step.num || (step == p.step.num && p.step.state == .committed)

/-- An ACT or GRAD at its stage (R279, R280). -/
def storeMsg (set : Settings) (n : Nat) (h : StageHdr) (data : List Byte) (p : Pkg) : Pkg :=
  let s := stageAt p n
  let grad := h.kind == 1
  let nb := s.neighbour (!grad)
  if s.resync || h.gen != s.gen then discardMsg n true false none p
  else if nb == 0xFFFF || h.srcStage != nb then discardMsg n true true none p
  else if s.slotSize grad < h.length then discardMsg n false true (some stBadParam) p
  else
    let slot := h.mb % s.depth grad
    let a := s.base grad + slot * s.slotSize grad
    if s.msgs.any fun m => m.grad == grad && m.slot == slot then discardMsg n false true (some stBadState) p
    else if stepDone p h.step then sendCredit n grad slot (discardMsg n true false none p)
    else match writeError set p a data.length with
      | some x => failLive 0 stMem (memError set x p)
      | none =>
        modStage n (fun s => { s with
          msgs := s.msgs ++ [{ grad, slot, mb := h.mb, step := h.step, epoch := h.epoch, at_ := p.ft.count }] })
          (writeMem set a data p)

/-- An ACT or GRAD arrives. -/
def stageMessage (h : StageHdr) (data : List Byte) (set : Settings) (p : Pkg) : Pkg :=
  if 1 < h.kind || data.length != h.length then p
  else match stageOfJob p h.dstStage with
    | none => log 0x0503 0 0xFFFF [] { p with pipe.stray := satAdd 0xFFFF p.pipe.stray 1 }
    | some n => storeMsg set n h data p

def execStageMessageReceive (h : StageHdr) (data : List Byte) (s : State) : Host.Outcome State Fault Refusal :=
  onP (fun set p => finish set (stageMessage h data set p)) s

/-- The link a message of a neighbour concerns: the one on which this stage sends to it. -/
def linkOf (s : Stage) (src : Nat) : Option Bool :=
  if src == 0xFFFF then none
  else if src == s.downStage then some false else if src == s.upStage then some true else none

/-- A CREDIT of the stage's own generation frees its slot in the view (R278). -/
def takeCredit (h : StageHdr) (p : Pkg) : Pkg :=
  match stageOfJob p h.dstStage with
  | none => p
  | some n =>
    let s := stageAt p n
    match linkOf s h.srcStage with
    | none => p
    | some up =>
      let v := viewOf s up
      if h.kind != 2 || s.resync || h.gen != s.gen || v.depth ≤ h.mb || v.free.elem h.mb then p
      else modView n up (fun v => { v with free := v.free ++ [h.mb] }) p

def execStageCreditReceive (h : StageHdr) (s : State) : Host.Outcome State Fault Refusal :=
  onP (fun _ p => takeCredit h p) s

/-- A RESET takes effect, or is kept for the generation it names (R278). -/
def takeReset (h : StageHdr) (p : Pkg) : Pkg :=
  match stageOfJob p h.dstStage with
  | none => p
  | some n =>
    let s := stageAt p n
    match linkOf s h.srcStage with
    | none => p
    | some up =>
      if h.kind != 3 then p
      else if h.gen == s.gen then
        modView n up (fun v => { v with depth := h.depth, free := List.range h.depth }) p
      else modView n up (fun v => { v with kept := some (h.gen, h.depth) }) p

def execStageResetReceive (h : StageHdr) (s : State) : Host.Outcome State Fault Refusal :=
  onP (fun _ p => takeReset h p) s

/-- Every configured stage discards its messages and enters RESYNC_WAIT, and its unlaunched fixtures go (R273, R289,
R353). -/
def haltStages (p : Pkg) : Pkg :=
  let p := removeFixtures (fun _ => true) p
  { p with pipe.stages := p.pipe.stages.map fun s => if s.on then { s with msgs := [], resync := true } else s }

end Sys2Proof.Machine
end

