-- ==== Sys2Proof/Machine/Reshards.lean ====
section
/-! DEFINITION. Resharding (R347 to R355): the checks of a round, its pieces, its end; and what the end of a reshard
and an abort do to stages and groups (R273, R304, R353). -/

namespace Sys2Proof.Machine

def modReshard (f : Reshard → Reshard) (p : Pkg) : Pkg := { p with reshard := f p.reshard }

/-! ### The payload and the moves (R347, R348, R350) -/

def rOp (b : List Byte) : Nat := le b 0 1
def rFinal (b : List Byte) : Bool := bit (le b 1 1) 0
def rEpoch (b : List Byte) : Nat := le b 2 2
def rMoves (b : List Byte) : Nat := le b 4 4
def rMoveAt (b : List Byte) : Nat := le b 8 8
def rIncoming (b : List Byte) : Nat := le b 16 8
def rTable (b : List Byte) : Nat := le b 24 8
def rCount (b : List Byte) : Nat := le b 32 2

/-- A field of a ROUND or a CANCEL breaks R347. -/
def reshardFieldsBad (p : Pkg) (b : List Byte) : Bool :=
  if rOp b == 1 then !zeros b 1 63
  else
    1 < rOp b || 1 < le b 1 1 || rEpoch b == 0xFFFF || rEpoch b == p.reshard.epoch || 65536 < rMoves b ||
      !addrOk (rMoveAt b) 64 (64 * rMoves b) || 2 ^ 41 ≤ rIncoming b || rCount b == 0 || 4096 < rCount b ||
      !addrOk (rTable b) 64 (64 * rCount b) || !zeros b 34 30

/-- A layer entry is not consistent with its ring (R264). -/
def ringMismatch (p : Pkg) (e : List Byte) : Bool :=
  lHasRing e && match ringOf p (lRing e) with
    | some r => r.format != lFormat e || r.count != lCount e
    | none => true

/-- The new table fails the checks of R225 or R264. -/
def tableBad (set : Settings) (p : Pkg) (table : List (List Byte)) : Bool :=
  table.any fun e => layerBad set.lean (uAdam (cfgOf p)) e || ringMismatch p e

def vKind (m : List Byte) : Nat := le m 0 1
def vDest (m : List Byte) : Nat := le m 8 4
def vSrcLayer (m : List Byte) : Nat := le m 12 2
def vDstLayer (m : List Byte) : Nat := le m 14 2
def vSrc (m : List Byte) : Nat := le m 16 8
def vDst (m : List Byte) : Nat := le m 24 8
def vCount (m : List Byte) : Nat := le m 32 8

/-- A move entry that R350 refuses. What stands on another package is not known here: of a destination there only the
ranges of R348 and R349 are checked. -/
def moveBad (p : Pkg) (table : List (List Byte)) (m : List Byte) : Bool :=
  let own := vDest m == 0xFFFFFFFF || vDest m == p.links.addr
  let n := vCount m
  1 < vKind m || !zeros m 1 7 || !zeros m 40 24 ||
    (if vKind m == 1 then
      vSrcLayer m != 0 || vDstLayer m != 0 || 2 ^ 48 ≤ vSrc m || 2 ^ 48 ≤ vDst m || 2 ^ 41 ≤ n || !freeOfJ1 p (vSrc m) n ||
        !(if own then freeOfJ1 p (vDst m) n else inStack (vDst m) n)
    else
      let e := p.upd.layers.getD (vSrcLayer m) []
      let d := table.getD (vDstLayer m) []
      2 ^ 40 ≤ vSrc m || 2 ^ 40 ≤ vDst m || 2 ^ 40 ≤ n || p.upd.layers.length ≤ vSrcLayer m ||
        lCount e < vSrc m + n || (lBlocks e && (vSrc m % 32 != 0 || vDst m % 32 != 0 || n % 32 != 0)) ||
        (own && (table.length ≤ vDstLayer m || lCount d < vDst m + n || lFormat d != lFormat e)))

/-- A ROUND whose reshard is ACTIVE agrees with its first round (R350). -/
def roundDiffers (p : Pkg) (b : List Byte) : Bool :=
  p.reshard.active && (rEpoch b != rEpoch p.reshard.payload || rTable b != rTable p.reshard.payload ||
    rCount b != rCount p.reshard.payload)

/-! ### Pieces (R349, R351, R352) -/

/-- A move that goes to another package. -/
def movesOut (p : Pkg) (m : List Byte) : Bool := vDest m != 0xFFFFFFFF && vDest m != p.links.addr

/-- A run of a move's array: ARRAY, FORMAT, where its elements lie, their size, how many, and OFFSET of the first. -/
structure Span where
  array : Nat
  format : Nat
  addr : Nat
  size : Nat
  count : Nat
  offset : Nat
  deriving DecidableEq, Repr

/-- Where a layer's working copy lies: in the slot of its ring's newest version, or at WORK (R349). -/
def newestSlot (p : Pkg) (e : List Byte) : List (Nat × Nat) :=
  match if lHasRing e then ringOf p (lRing e) else none with
  | some r => [(lRing e, ((liveVersion r p.rings.version).map (·.slot)).getD 0)]
  | none => []

/-- The address of element or block `i` of an array of a layer entry (R349), and the element's size. -/
def arrayPlace (lean : Bool) (p : Pkg) (e : List Byte) (array i : Nat) : Nat × Nat :=
  let t := workTensor p (newestSlot p e) e
  match array with
  | 1 => (lMaster e + masterSize lean * i, masterSize lean)
  | 2 => (t.addr + t.s 0 * i, t.s 0)
  | 3 => (t.scaleAddr + i, 1)
  | 4 => (lMom1 e + 4 * i, 4)
  | _ => (lMom2 e + 4 * i, 4)

/-- The format byte of an array's elements (R352); the scales go under that of their working copy. -/
def arrayFormat (lean : Bool) (e : List Byte) (array : Nat) : Nat :=
  match array with
  | 1 => if lean then 2 else 1
  | 2 => lFormat e
  | 3 => lFormat e
  | _ => 0

/-- The arrays a LAYER move carries, in the order of their ARRAY codes (DESIGN CHOICE, log entry 43). -/
def layerArrays (adam : Bool) (e : List Byte) : List Nat :=
  [1, 2] ++ (if lBlocks e then [3] else []) ++ [4] ++ if adam then [5] else []

def moveSpans (set : Settings) (p : Pkg) (m : List Byte) : List Span :=
  if vKind m == 1 then [⟨0, 0, vSrc m, 1, vCount m, vDst m⟩]
  else
    let e := p.upd.layers.getD (vSrcLayer m) []
    (layerArrays (uAdam (cfgOf p)) e).map fun a =>
      let d := if a == 3 then 32 else 1
      let pl := arrayPlace set.lean p e a (vSrc m / d)
      ⟨a, arrayFormat set.lean e a, pl.1, pl.2, vCount m / d, vDst m / d⟩

/-- A piece to send: its receiver, header, and the bytes' address. -/
structure PieceOut where
  dest : Nat
  h : ReshardHdr
  addr : Nat
  deriving DecidableEq, Repr

/-- The pieces of a span: whole elements up to 1 MiB (DESIGN CHOICE, log entry 43). -/
def spanPieces (p : Pkg) (epoch : Nat) (m : List Byte) (s : Span) : List PieceOut :=
  let per := 0x100000 / max 1 s.size
  (List.range (ceilDiv s.count per)).map fun k =>
    let n := min per (s.count - k * per)
    { dest := if movesOut p m then vDest m else p.links.addr
      addr := s.addr + k * per * s.size
      h := { kind := 0, array := s.array, newEpoch := epoch, dstLayer := if s.array == 0 then 0xFFFF else vDstLayer m
             offset := s.offset + k * per, length := n * s.size, srcPkg := p.links.addr, format := s.format } }

def movePieces (set : Settings) (p : Pkg) (epoch : Nat) (m : List Byte) : List PieceOut :=
  (moveSpans set p m).flatMap (spanPieces p epoch m)

/-- Send on VC3; a message to this package goes back to its own engine. -/
def sendReshard (dest : Nat) (h : ReshardHdr) (payload : List Byte) (p : Pkg) : Pkg :=
  if dest == p.links.addr then { p with out.loop := p.out.loop ++ [(3, reshardBytes h payload)] }
  else sendMessage 3 dest (reshardBytes h payload) p

/-! ### The end of a round and of a reshard (R351, R353, R354) -/

/-- The new layout takes effect (R353). -/
def finishReshard (set : Settings) (p : Pkg) : Pkg :=
  let r := p.reshard
  let epoch := rEpoch r.payload
  let p := clearGrads set { p with
    upd.layers := r.table
    upd.cfg := p.upd.cfg.map fun b => patch b 2 (leBytes 2 (rCount r.payload))
    reshard := { epoch, held := r.held } }
  let p := { p with rings.rings := p.rings.rings.map fun g => { g with
    versions := (g.versions.filter fun v => v.num == p.rings.version).map fun v => { v with epoch := epoch } } }
  haltGroups (haltStages p)

/-- A round that has sent, had acknowledged and received everything completes (R351). -/
def checkRound (set : Settings) (p : Pkg) : Pkg :=
  match p.reshard.round with
  | none => p
  | some r =>
    if r.outstanding.isEmpty && r.received == r.incoming then
      let p := modReshard (fun x => { x with round := none }) p
      answer r.who stOk 0 r.sent (if r.final then finishReshard set p else p)
    else p

/-- A round that meets an uncorrectable error fails (R378); the reshard stays ACTIVE. -/
def failRound (status : Nat) (p : Pkg) : Pkg :=
  match p.reshard.round with
  | none => p
  | some r => answer r.who status 0 0 (modReshard (fun x => { x with round := none }) p)

/-- This package's frames of a port without the DATA messages of VC3 that have not begun to leave; `keep` says what becomes
of the rest of a message. -/
def withoutPieces (keep : Bool) : List Frame → List Frame
  | [] => []
  | f :: fs =>
    if f.vc != 3 then f :: withoutPieces keep fs
    else
      let k := if f.som then f.payload.headD 0 != 0 else keep
      if k then f :: withoutPieces k fs else withoutPieces k fs

/-- A running round stops at its next piece and fails (R354, R521): pieces that have not begun to leave never do. -/
def stopRound (status : Nat) (p : Pkg) : Pkg :=
  failRound status { p with links.ports := p.links.ports.map fun q => { q with own := withoutPieces true q.own } }

/-- Send the pieces in order; the first that cannot be read ends the round. -/
def sendPieces (set : Settings) : List PieceOut → Pkg → Pkg
  | [], p => p
  | x :: xs, p =>
    match readError set p x.addr x.h.length with
    | some a => failRound stMem (memError set a p)
    | none =>
      let p := sendReshard x.dest x.h (readMem set p x.addr x.h.length) p
      sendPieces set xs (modReshard (fun r => { r with
        round := r.round.map fun o => { o with
          sent := o.sent + 1, outstanding := o.outstanding ++ [(x.h.array, x.h.dstLayer, x.h.offset, x.dest)] } }) p)

/-- The detail of a ROUND whose moves or table R350 refuses. -/
def roundBad (set : Settings) (p : Pkg) (table moves : List (List Byte)) : Option Nat :=
  if tableBad set p table then some 0xFFFF else moves.findIdx? (moveBad p table)

/-- The table that a round is held to: the copy of the first round while a reshard is ACTIVE (R350), else its own. -/
def tableOf (p : Pkg) (own : List (List Byte)) : List (List Byte) := if p.reshard.active then p.reshard.table else own

/-- A round takes effect at a step boundary (R350, R351), with the bytes that it was accepted with. What it names may have
changed since, under a pending configuration or an earlier round: it is checked again (DEDUCED, log entry 83). -/
def startRound (set : Settings) (w : HeldRound) (p : Pkg) : Pkg :=
  let b := w.payload
  let table := tableOf p w.table
  if roundDiffers p b then answer w.who stBadParam 0xFFFF 0 p
  else match roundBad set p table w.moves with
    | some i => answer w.who stBadParam i 0 p
    | none =>
      let p := if p.reshard.active then p
        else modReshard (fun r => { r with active := true, payload := b, table := table }) p
      let pieces := w.moves.flatMap (movePieces set p (rEpoch b))
      let p := modReshard (fun r => { r with round := some { who := w.who, final := rFinal b, incoming := rIncoming b } }) p
      checkRound set (sendPieces set pieces p)

/-- Start held rounds while none runs and no collective holds or waits for a context (R350). -/
def startRounds (set : Settings) (p : Pkg) : Pkg :=
  p.reshard.held.foldl (fun q w =>
    if q.reshard.round.isSome || !q.colls.running.isEmpty then q
    else startRound set w (modReshard (fun r => { r with held := r.held.drop 1 }) q)) p

end Sys2Proof.Machine
end

