-- ==== Sys2Proof/Machine/Steps.lean ====
section
/-! DEFINITION. The mode word and the step (R30 to R37, R200 to R236): the step boundary, SET_MODE, UPDATE_CONFIG,
opening, sealing, committing and aborting a step. -/

namespace Sys2Proof.Machine

/-! ### The mode (R31 to R35, R545, R548) -/

/-- ENV_ACT changes (R548): leaving P3 lets the parked cores go on. -/
def setEnvAct (e : Nat) (s : State) : State :=
  let set := { s.set with envAct := e }
  let p := if s.set.envAct == 3 && e != 3 then
      { s.p with tasks.cores := s.p.tasks.cores.map fun c => { c with parked := false } } else s.p
  { s with set := set, p := resumeJ1 set p }

/-- ENV_ACT when ENV becomes `env` (R35, R545); an envelope that still rises second by second (R546) goes on from where
it is. -/
def envAfter (set : Settings) (w : Pwr) (env : Nat) : Nat :=
  if set.envAct == envGiven set.env w then envGiven env w else max set.envAct (envGiven env w)

/-- The J1 spill area (R100): 512 KiB for each core, at the end of the J1 partition. -/
def spillBase (p : Pkg) : Nat := p.mem.j1Base + p.mem.j1Size - 0x10000000

/-- A J1 task runs, or stops, on a core. -/
def j1Runs (p : Pkg) : List Run := p.tasks.runs.filter fun r => r.j1 && r.unit < 512

/-- FILLER turns OFF (R100): the J1 shares and contexts of the cores are written to the spill area. What they hold has no
layout in the manual, so the bytes are free (log entry 32). -/
def spillJ1 (set : Settings) (p : Pkg) : Pkg :=
  if p.mem.j1Size == 0 || (j1Runs p).isEmpty then p
  else (List.range 512).foldl (fun q c =>
    writeBlock set (spillBase p + c * 0x80000) ((List.range 0x80000).map fun i => Config.spillByte p.free (c * 0x80000 + i)) q)
    { p with free := p.free + 1 }

/-- FILLER turns ON (R100): the share of each core with a J1 task is read back; one that cannot be read fails its task
(R378). -/
def restoreJ1 (set : Settings) (p : Pkg) : Pkg :=
  (j1Runs p).foldl (fun q r =>
    match readError set q (spillBase q + r.unit * 0x80000) 0x80000 with
    | some x => failRun set r.iid r.task stMem (memError set x q)
    | none => q) p

/-- What R100 does at a boundary where FILLER changes. -/
def moveFiller (set : Settings) (on : Bool) (p : Pkg) : Pkg :=
  if on == set.filler then p else if on then restoreJ1 set p else spillJ1 set p

/-- Pending values of PKG_MODE take effect (R31 to R33, R100, R232), and source 329 fires. -/
def applyPend (s : State) : State :=
  match s.set.pend with
  | none => s
  | some m =>
    let lean := m.lean.getD s.set.lean
    let p := if lean != s.set.lean then convertMasters s.set lean s.p else s.p
    let p := moveFiller s.set (m.filler.getD s.set.filler) p
    let env := m.env.getD s.set.env
    let act := envAfter s.set p.pwr env
    setEnvAct act { s with
      set := { s.set with
        env, c1 := m.c1.getD s.set.c1, arrival := m.arrival.getD s.set.arrival, lean
        filler := m.filler.getD s.set.filler, pend := none }
      p := raise 329 p }

/-! ### Opening (R206 to R209) -/

def oStep (b : List Byte) : Nat := le b 0 8
def oBase (b : List Byte) : Bool := bit (le b 8 1) 0
def oEpoch (b : List Byte) : Nat := le b 10 2
def oRecord (b : List Byte) : Nat := le b 24 8

def openFieldsBad (b : List Byte) : Bool :=
  !finiteNonneg (f32At b 12) || 1 < le b 8 1 || !zeros b 9 1 || !zeros b 20 4 || !addrOk (oRecord b) 64 320 ||
    !zeros b 32 32

/-- The constants block (R209). -/
def constBlock (p : Pkg) : List Byte :=
  let ex := p.upd.exp
  leBytes 4 (fscale f32One ex).toNat ++ leBytes 4 (fscale f32One (-ex)).toNat ++ leBytes 4 p.step.lr.toNat ++
    leBytes 4 0 ++ leBytes 8 p.step.num ++ leBytes 2 p.reshard.epoch ++ List.replicate 38 0

/-- Write the constants block; a failed stack sets bit 0 (R378). -/
def writeConsts (set : Settings) (p : Pkg) : Pkg :=
  let p := if (failedIn set p (uConst (cfgOf p)) 64).isSome then failStep 0 stMem p else p
  writeBlock set (uConst (cfgOf p)) (constBlock p) p

/-- A step opens (R208); a collective of an earlier step of the same number has not completed in this one (R337). -/
def openNow (set : Settings) (b : List Byte) (p : Pkg) : Pkg :=
  let old := p.step
  let p := { p with
    tasks.health := p.tasks.health.filter fun h => 6144 ≤ h.slot
    tasks.summ := []
    colls.past := []
    colls.groups := p.colls.groups.map fun c => { c with done := c.done.filter fun d => d.2.isNone }
    step := {
      state := old.state, num := oStep b, torn := old.torn && !oBase b, opens := old.opens
      committedNum := if oBase b then none else old.committedNum
      base := if oBase b then oStep b else old.base
      epoch := p.reshard.epoch, lr := f32At b 12, tokens := le b 16 4, record := oRecord b, tOpen := now p
      openAt := p.ft.count
      modeWord := pkgMode set, cursorOpen := cursors p, expOpen := p.upd.exp, goodOpen := p.upd.good } }
  writeConsts set (setStepState .opened p)

/-- STEP is not the one R207 asks for without BASE. -/
def stepNotNext (p : Pkg) (b : List Byte) : Bool :=
  match p.step.committedNum with
  | none => true
  | some n => oStep b != (n + 1) % 2 ^ 64

/-- STEP_OPEN from the top of R207: answered, or waiting for a step boundary or for a reshard round (R355). -/
def tryOpen (set : Settings) (w : Waiting) (p : Pkg) : Pkg :=
  let b := w.payload
  let no (st : Nat) : Pkg := answer w.who st 0 0 p
  if openFieldsBad b then no stBadParam
  else if p.upd.cfg.isNone || set.envAct == 3 || p.step.state == .opened then no stBadState
  else if stepBusy p || p.reshard.round.isSome || !p.reshard.held.isEmpty then
    modStep (fun s => { s with opens := s.opens ++ [w] }) p
  else if p.reshard.active then no stBadState
  else if oEpoch b != 0xFFFF && oEpoch b != p.reshard.epoch then no stBadState
  else if !oBase b && stepNotNext p b then no stBadParam
  else if !oBase b && p.step.torn then no stBadState
  else answer w.who stOk 0 0 (openNow set b p)

/-- Every STEP_OPEN that waits is processed again. -/
def retryOpens (set : Settings) (p : Pkg) : Pkg :=
  p.step.opens.foldl (fun q w => tryOpen set w q) (modStep (fun s => { s with opens := [] }) p)

/-! ### The step boundary (R31, R33, R225, R350) -/

/-- An UPDATE_CONFIG takes effect (R226). -/
def takeConfig (set : Settings) (w : Waiting) (layers : List (List Byte)) (p : Pkg) : Pkg :=
  answer w.who stOk 0 0 (applyConfig set w.payload layers p)

/-- What waits for a step boundary behind the mode: configurations, a reshard round, a STEP_OPEN. -/
def atBoundary (set : Settings) (p : Pkg) : Pkg :=
  if stepBusy p then p
  else
    let p := p.upd.waits.foldl (fun q x => takeConfig set x.1 x.2 q) { p with upd.waits := [] }
    retryOpens set (startRounds set p)

/-- The moment of a step boundary; nothing at any other. -/
def boundary (s : State) : State :=
  if stepBusy s.p then s
  else
    let s := applyPend s
    { s with p := atBoundary s.set s.p }

/-! ### SET_MODE (R494, R495) -/

def modeFieldsBad (b : List Byte) : Bool :=
  let sel := le b 0 1
  let field (i o most : Nat) : Bool := if bit sel i then most < le b o 1 else le b o 1 != 0
  64 ≤ sel || !zeros b 7 57 || field 0 1 3 || field 1 2 1 || field 2 3 1 || field 3 4 1 || field 4 5 1 || field 5 6 2

/-- The pending values after a SET_MODE (R32). -/
def mergePend (b : List Byte) (old : Option PendMode) : Option PendMode :=
  let sel := le b 0 1
  let m := old.getD {}
  let flag (i o : Nat) (v : Option Bool) : Option Bool := if bit sel i then some (le b o 1 == 1) else v
  if sel % 32 == 0 then old
  else some {
    env := if bit sel 0 then some (le b 1 1) else m.env
    c1 := flag 1 2 m.c1, arrival := flag 2 3 m.arrival, lean := flag 3 4 m.lean, filler := flag 4 5 m.filler }

def setMode (w : Who) (b : List Byte) (s : State) : State :=
  let no (st : Nat) : State := { s with p := answer w st 0 0 s.p }
  if modeFieldsBad b then no stBadParam
  else if bit (le b 0 1) 5 && le b 6 1 != s.set.lanes then no stBadState
  else
    let s := { s with set := { s.set with pend := mergePend b s.set.pend } }
    let s := if stepBusy s.p then s else applyPend s
    { s with p := answer w stOk 0 (pkgMode s.set) s.p }

def execSetMode (q : Nat) (s : State) : Host.Outcome State Fault Refusal := onPacket q 0x0102 setMode s

/-! ### UPDATE_CONFIG (R223 to R226) -/

def updateConfig (w : Who) (b : List Byte) (set : Settings) (p : Pkg) : Pkg :=
  let n := uLayers b
  if updatePayloadBad b then answer w stBadParam 0xFFFF 0 p
  else
    match readError set p (uTable b) (64 * n) with
    | some x => answer w stMem 0 0 (memError set x p)
    | none =>
      let layers := chunksOf 64 n (readMem set p (uTable b) (64 * n))
      match (List.range n).find? fun k => layerBad set.lean (uAdam b) (layers.getD k []) with
      | some k => answer w stBadParam k 0 p
      | none =>
        if p.reshard.active then answer w stBadState 0 0 p
        else if stepBusy p then { p with upd.waits := p.upd.waits ++ [(⟨w, b⟩, layers)] }
        else takeConfig set ⟨w, b⟩ layers p

def execUpdateConfig (q : Nat) (s : State) : Host.Outcome State Fault Refusal := onPacketP q 0x0805 updateConfig s

def execStepOpen (q : Nat) (s : State) : Host.Outcome State Fault Refusal :=
  onPacketP q 0x0801 (fun w b set p => tryOpen set ⟨w, b⟩ p) s

/-! ### Sealing (R212 to R215, R295, R503) -/

/-- A fixture of the step in course. -/
def ofStep (p : Pkg) (f : Fixture) : Bool := fStep f.entry == p.step.num % 2 ^ 32

def stepSeal (w : Who) (b : List Byte) (set : Settings) (p : Pkg) : Pkg :=
  if !zeros b 4 60 then answer w stBadParam 0 0 p
  else if p.step.state != .opened || p.step.aborting then answer w stBadState 0 0 p
  else
    let p := setStepState .sealing (modStep (fun s => { s with
      tSeal := now p, sealWho := w, sealMs := le b 0 4, swept := false }) p)
    let p := if p.pipe.fixtures.any fun f => !f.launched && ofStep p f then failStep 0 stBadState p else p
    finish set (if p.step.failMask != 0 then modStep (fun s => { s with abortDue := true }) p else p)

def execStepSeal (q : Nat) (s : State) : Host.Outcome State Fault Refusal := onPacketP q 0x0802 stepSeal s

/-- The first three conditions of R213: no J0 instance, reduction or fixture of the step is left. -/
def workDone (p : Pkg) : Bool :=
  p.tasks.insts.all (fun i => !i.inStep) && p.tasks.held.all (fun h => !h.inStep) &&
    p.colls.running.all (fun c => c.step != some p.step.num) && p.pipe.fixtures.all fun f => !ofStep p f

/-- The closing sweep ends (R503, R506): the units whose probe or shadow sweep failed have the effects of R505; in a
commit they tear it. -/
def closingSweep (failed : List Nat) (set : Settings) (p : Pkg) : Pkg :=
  let sealing := p.step.state == .sealing && workDone p
  let committing := p.step.state == .committing && !p.step.commitHeld
  if p.step.swept || p.step.aborting || !(sealing || committing) then p
  else
    let p := modStep (fun s => { s with swept := true })
      { p with integ.rounds := (p.integ.rounds + 1) % 65536 }
    finish set (failed.foldl (fun q u => tearCommit stLedger (probeFails set u q)) p)

def execClosingSweep (failed : List Nat) (s : State) : Host.Outcome State Fault Refusal :=
  onP (fun set p => closingSweep failed set p) s

/-- The step becomes SEALED (R214): spike flag, noise terms, record, reply. -/
def becomeSealed (set : Settings) (p : Pkg) : Pkg :=
  let p := modStep (fun s => { s with spike := isSpike p, noise := (List.range 4).map (noiseOf p) }) p
  let p := writeRecord set .sealed stOk (setStepState .sealed p)
  answer p.step.sealWho stOk p.step.failMask (stepFlags p.step) p

/-- The seal's last check (R213, R215): once work and sweep have ended the step is SEALED, or fails as non-finite. -/
def sealComplete (set : Settings) (p : Pkg) : Pkg :=
  if p.step.state != .sealing || p.step.aborting || !workDone p || !p.step.swept then p
  else if nonfiniteStep p then finish set (failStep 5 stNonfinite p)
  else becomeSealed set p

def execSealComplete (s : State) : Host.Outcome State Fault Refusal := onP sealComplete s

/-- TIMEOUT passes before the seal is done (R213). -/
def sealTimeout (set : Settings) (p : Pkg) : Pkg :=
  if p.step.state != .sealing || p.step.aborting || p.step.sealMs == 0 || now p < p.step.tSeal + p.step.sealMs * 1000000 then p
  else finish set (failStep 6 stHung p)

def execSealTimeout (s : State) : Host.Outcome State Fault Refusal := onP sealTimeout s

/-! ### Committing (R227 to R234, R263 to R269) -/

def stepNumBad (p : Pkg) (b : List Byte) : Bool := !zeros b 8 56 || le b 0 8 != p.step.num

def stepCommit (w : Who) (b : List Byte) (set : Settings) (p : Pkg) : Pkg :=
  if stepNumBad p b then answer w stBadParam 0 0 p
  else if p.step.state != .sealed || p.step.aborting || set.envAct == 3 || p.upd.layers.any (ringMismatch p) then
    answer w stBadState 0 0 p
  else chooseSlots (setStepState .committing (modStep (fun s => { s with
    commitWho := w, swept := false, tear := none, chosen := [] }) p))

def execStepCommit (q : Nat) (s : State) : Host.Outcome State Fault Refusal := onPacketP q 0x0803 stepCommit s

/-- Bits of FAIL_MASK for what tore a commit (R211). -/
def tornBits (status : Nat) : List Nat :=
  if status == stLedger then [0, 1] else if status == stDieFenced then [] else [0]

/-- A torn commit (R233): some of the update's writes are done and some are not; the step aborts. -/
def tearStep (set : Settings) (status : Nat) (err : Option Nat) (p : Pkg) : Pkg :=
  let ws := (updateAll set p).flatMap (·.ws)
  let some_ := (((List.range ws.length).zip ws).filter fun x =>
    Config.strictWrote p.free x.1 && (writeError set p x.2.range.1 x.2.range.2).isNone).map (·.2)
  let p := (applyOps set some_ { p with free := p.free + 1 }).1
  let p := match err with | some x => if status == stMem then memError set x p else p | none => p
  let p := (tornBits status).foldl (fun q b => failStep b status q) p
  finish set (modStep (fun s => { s with
    torn := true, endStatus := status, chosen := [], abortDue := true }) p)

/-- Versions that would lie 2^15 or more commits behind retire, and tasks that hold one fail (R269). -/
def retireOld (set : Settings) (p : Pkg) : Pkg :=
  let old (v : Nat) : Bool := 32768 ≤ (behind p v + 1) % 65536
  let p := failRuns set (fun r => r.holds.any fun h => old h.2) (fun _ => stRetired) p
  { p with rings.rings := p.rings.rings.map fun r => { r with versions := r.versions.filter fun v => !old v.num } }

/-- Every ring publishes V + 1 at once (R263). -/
def publish (p : Pkg) : Pkg :=
  let v := p.rings.version
  let new := (v + 1) % 65536
  pruneRings { p with
    rings.version := new
    rings.rings := p.rings.rings.map fun r =>
      let slot := match p.step.chosen.find? fun x => x.1 == r.id with
        | some x => x.2
        | none => ((liveVersion r v).map (·.slot)).getD 0
      { r with versions := r.versions ++ [⟨new, slot, p.reshard.epoch⟩] } }

/-- Every segment is released and every stamp ends (R250, R266); PUSH tasks that waited may start. -/
def emptyHollows (set : Settings) (p : Pkg) : Pkg :=
  pushWaiting set (pruneRings { p with
    hollow.stages := p.hollow.stages.map fun h => { h with segs := [] }
    rings.stamps := [] })

/-- The update's writes and its counts (R227 to R231). -/
def runUpdate (set : Settings) (p : Pkg) : Pkg :=
  let outs := updateAll set p
  let sv := stepVals p
  let b := cfgOf p
  let p := (applyOps set (outs.flatMap (·.ws)) p).1
  let p := modStep (fun s => { s with
    updNonfin := countAdd s.updNonfin (outs.map (·.nonfin)).sum
    vanished := satAdd 0xFFFFFFFFFFFFFFFF s.vanished (outs.map (·.vanished)).sum
    satMaster := countAdd s.satMaster (outs.map (·.sat)).sum }) p
  let u := if uAdam b then { p.upd with p1 := sv.p1, p2 := sv.p2 } else p.upd
  let u := moveNoise p (moveBaseline b (stepLoss p) (growScale b { u with updates := (u.updates + 1) % 2 ^ 64 }))
  { p with upd := u }

/-- The commit completes (R233). -/
def finishCommit (set : Settings) (p : Pkg) : Pkg :=
  let n := layersUpdated p
  let p := publish (retireOld set (runUpdate set p))
  let p := modStep (fun s => { s with committedNum := some s.num, chosen := [], tEnd := now p }) (emptyHollows set p)
  let p := writeRecord set .committed stOk (setStepState .committed p)
  answer p.step.commitWho stOk 0 n p

/-- COMMITTING ends (R233, R506): with every slot chosen, the sweep done and no stash task running. `fault` names the core
whose shadow lane found a mismatch while it covered the update, which has the effects of R191 and R516 too. -/
def commitComplete (fault : Option Nat) (set : Settings) (p : Pkg) : Pkg :=
  if p.step.state != .committing || p.step.aborting then p
  else
    if p.step.commitHeld || !p.step.swept || stashRuns p (fun _ => true) then p
    else
      let err := updateError set p
      match p.step.tear.or ((fault.map fun _ => stLedger).or (err.map fun _ => stMem)) with
      | some st =>
        match fault with
        | some c => countFault set c (tearStep set st err
            (log 0x0302 stLedger c [] (detect 2 { p with tasks.shadowMiss := countAdd p.tasks.shadowMiss 1 })))
        | none => tearStep set st err p
      | none => finishCommit set p

def execCommitComplete (shadowFault : Option Nat) (s : State) : Host.Outcome State Fault Refusal :=
  .next (boundary { s with p := commitComplete shadowFault s.set s.p })

/-! ### Aborting (R220, R234, R235) -/

def stepAbort (w : Who) (b : List Byte) (set : Settings) (p : Pkg) : Pkg :=
  if stepNumBad p b then answer w stBadParam 0 0 p
  else if p.step.state != .opened && p.step.state != .sealing && p.step.state != .sealed then answer w stBadState 0 0 p
  else finish set (modStep (fun s => { s with abortDue := true, abortWho := s.abortWho ++ [w] }) p)

def execStepAbort (q : Nat) (s : State) : Host.Outcome State Fault Refusal := onPacketP q 0x0804 stepAbort s

/-- A queue stops under HALT (R220, R482): HEAD goes back to the packet after the STEP_SEAL. -/
def haltQueue (w : Who) (p : Pkg) : Pkg :=
  match w with
  | .queue q num =>
    match findPacket p q num with
    | some pk => modQueue q (fun qu =>
        if qu.state == .running then
          { qu with state := .stopped, reason := .halt, head := pk.after, read := qu.read.filter fun k => k.start.isSome }
        else qu) p
    | none => p
  | _ => p

/-- The policy of R220 for a step that aborts with bit 5 set. -/
def nonfinPolicy (p : Pkg) : Pkg :=
  let b := cfgOf p
  if !bit p.step.failMask 5 then p
  else if uHalt b then haltQueue p.step.sealWho p
  else if uStatic b then p
  else if uLsMin b < p.upd.exp then { p with upd.exp := p.upd.exp - 1, upd.good := 0 }
  else haltQueue p.step.sealWho (modStep (fun s => { s with lsFloor := true }) p)

/-- The status of an aborted step (R214, R235). -/
def abortStatus (s : Step) : Nat :=
  if s.torn && s.endStatus != 0 then s.endStatus else match s.first with | some (_, _, st) => st | none => stAborted

/-- The abort completes (R235): scratch state goes, stages wait for RESYNC, the record is written and every
packet that waited for the step is answered. -/
def finishAbort (set : Settings) (p : Pkg) : Pkg :=
  let p := nonfinPolicy (haltStages (emptyHollows set (clearGrads set p)))
  let was := p.step
  let st := abortStatus was
  let p := setStepState .aborted (modStep (fun s => { s with aborting := false, abortDue := false, tEnd := now p }) p)
  let p := writeRecord set .aborted st p
  let p := if was.state == .sealing then answer was.sealWho st was.failMask (stepFlags p.step) p else p
  let p := if was.state == .committing then answer was.commitWho st 0 0 p else p
  modStep (fun s => { s with abortWho := [] }) (was.abortWho.foldl (fun q w => answer w stOk 0 0 q) p)

/-- The abort ends once no rung runs that it needs and no stash task runs (R235, R250). -/
def abortComplete (set : Settings) (p : Pkg) : Pkg :=
  if !p.step.aborting || p.integ.episode.isSome || stashRuns p (fun _ => true) then p else finishAbort set p

end Sys2Proof.Machine
end

