-- ==== Sys2Proof/Machine/CollMath.lean ====
section
/-! DEFINITION. The arithmetic of collectives: chunks and pieces (R310, R311), encodings and payloads (R317 to R326),
thinning (R322 to R324), checksums (R329, R330), the checks on the tensors of a collective (R307, R308). -/

namespace Sys2Proof.Machine

/-! ### Chunks and pieces (R310, R311) -/

/-- The halves of a tensor of `e` elements: reverse or not, first unit, units. -/
def halves (dual : Bool) (e : Nat) : List (Bool × Nat × Nat) :=
  let u := ceilDiv e 1024
  if dual then [(false, 0, ceilDiv u 2), (true, ceilDiv u 2, u - ceilDiv u 2)] else [(false, 0, u)]

/-- The elements [lo, hi) of chunk `j` in a half. -/
def chunkRange (n e : Nat) (h : Bool × Nat × Nat) (j : Nat) : Nat × Nat :=
  (min e (1024 * (h.2.1 + j * h.2.2 / n)), min e (1024 * (h.2.1 + (j + 1) * h.2.2 / n)))

/-- Elements of a whole piece. -/
def pieceSize : Nat := 16384

/-- The pieces of a chunk. -/
def chunkKeys (n e : Nat) (h : Bool × Nat × Nat) (j : Nat) : List PieceKey :=
  let r := chunkRange n e h j
  (List.range (ceilDiv (r.2 - r.1) pieceSize)).map fun k => ⟨h.1, j, k⟩

/-- Every piece of a collective, in ascending order; a permute is one chunk (DESIGN CHOICE, log entry 37). -/
def allKeys (g : CollGroup) (c : Coll) : List PieceKey :=
  if c.type == 0x43 then (List.range (ceilDiv c.e pieceSize)).map fun k => ⟨false, 0, k⟩
  else (halves g.dual c.e).flatMap fun h => (List.range g.n).flatMap fun j => chunkKeys g.n c.e h j

/-- The elements [a, b) of a piece. -/
def keyRange (g : CollGroup) (c : Coll) (k : PieceKey) : Nat × Nat :=
  let r := if c.type == 0x43 then (0, c.e)
    else match (halves g.dual c.e).find? fun h => h.1 == k.rev with
      | some h => chunkRange g.n c.e h k.chunk
      | none => (0, 0)
  (min r.2 (r.1 + k.piece * pieceSize), min r.2 (r.1 + (k.piece + 1) * pieceSize))

/-- A slice of a list. -/
def slice {α : Type} (l : List α) (r : Nat × Nat) : List α := (l.drop r.1).take (r.2 - r.1)

/-- The next position of the ring of a half (R313). -/
def nextPos (n : Nat) (rev : Bool) (pos : Nat) : Nat := if rev then (pos + n - 1) % n else (pos + 1) % n

/-- Positions from the one after `j` around the ring, `j` itself last (R313, R314). -/
def positionsAfter (n : Nat) (rev : Bool) : Nat → Nat → List Nat
  | 0, _ => []
  | k + 1, j => nextPos n rev j :: positionsAfter n rev k (nextPos n rev j)

/-! ### Encodings (R317 to R321) -/

/-- Values as they travel: stored bits, one scale byte and one raised bit for each block of 32 when block-scaled. -/
structure Enc where
  bits : List Nat
  exps : List Nat := []
  raised : List Bool := []
  deriving DecidableEq, Repr

/-- Block-scaled encodings. -/
def encBlock (c : Coll) : Bool := 3 ≤ cEnc c.body && cThin c.body != 1

/-- The format of the encoding. -/
def encFmt (c : Coll) : Fmt :=
  match cEnc c.body with
  | 0 => (c.tn.getD (cSrc c.body 0) noTensor).fmt
  | 1 => .fp32
  | 2 => .bf16
  | 3 => .e4m3
  | 4 => .e5m2
  | _ => .int8

/-- Lists of at most `n` items. -/
def groupsOf {α : Type} (n : Nat) (l : List α) : List (List α) :=
  (List.range (ceilDiv l.length n)).map fun k => (l.drop (k * n)).take n

/-- The scale byte of R62 for some values; 0xFF where one is not finite (R318, R320). -/
def blockByte (f : Fmt) (vs : List W32) : Nat :=
  if vs.any isNonFinite then 255
  else (chooseExp f (vs.foldl (fun a v => if a.lt (ofF32 v).abs then (ofF32 v).abs else a) (.fin false 0 0)) + 127).toNat

/-- A block under a scale byte. -/
def encodeBlock (f : Fmt) (s : Nat) (vs : List W32) : List Nat :=
  match scaleExp s with
  | none => vs.map fun _ => 0
  | some k => vs.map fun v => (convert f false ((ofF32 v).scale (-k))).bits

/-- The byte of a block whose incoming byte is a floor (R319, R320), and whether this hop raises it. -/
def floorByte (f : Fmt) (floor : Option Nat) (vs : List W32) : Nat × Bool :=
  let own := blockByte f vs
  match floor with
  | none => (own, false)
  | some b => if b == 255 || own == 255 then (255, false) else (max b own, b < own)

/-- Encode values: plain, or in blocks with floors and the raised bits so far. -/
def encodeVals (c : Coll) (floors : Option (List Nat)) (raised : List Bool) (vs : List W32) : Enc :=
  let f := encFmt c
  if encBlock c then
    let bl := groupsOf 32 vs
    let fl := (List.range bl.length).map fun k =>
      floorByte f (floors.map fun l => l.getD k 0) (bl.getD k [])
    { bits := ((fl.zip bl).map fun x => encodeBlock f x.1.1 x.2).flatten
      exps := fl.map (·.1)
      raised := ((List.range bl.length).zip fl).map fun x => x.2.2 || raised.getD x.1 false }
  else { bits := vs.map fun v => (convert f false (ofF32 v)).bits }

/-- Decode values, exactly (R51, R57). -/
def decodeVals (c : Coll) (e : Enc) : List W32 :=
  ((List.range e.bits.length).zip e.bits).map fun x =>
    decodeF32 (encFmt c) x.2 (if encBlock c then some (e.exps.getD (x.1 / 32) 0) else none)

/-! ### SIGN (R323) -/

/-- The BF16 scale of a unit: its FP32 sum of magnitudes in the order of R165, divided by its count, rounded to BF16
(DEDUCED, log entry 38). -/
def signScale (vs : List W32) : Nat :=
  if vs.any isNonFinite then 0x7FC0
  else (convert .bf16 true ((ofF32 (sumR165 (vs.map fabs))).div (.fin false vs.length 0))).bits

def signScales (vs : List W32) : List Nat := (groupsOf 1024 vs).map signScale

def signBits (vs : List W32) : List Nat := vs.map fun v => b2n (isNeg v)

/-- The value a sign stands for under its unit's scale. -/
def signVals (signs scales : List Nat) : List W32 :=
  ((List.range signs.length).zip signs).map fun x =>
    let s := decodeF32 .bf16 (scales.getD (x.1 / 1024) 0) none
    if x.2 == 1 then fneg s else s

/-! ### Payloads (R326) -/

/-- Parts, each beginning at a multiple of 64 bytes. -/
def joinParts : List (List Byte) → List Byte
  | [] => []
  | [x] => x
  | x :: xs => padTo (alignUp x.length 64) x ++ joinParts xs

/-- Bits packed eight to a byte. -/
def packBits (l : List Nat) : List Byte :=
  (groupsOf 8 l).map fun g => BitVec.ofNat 8 (((List.range g.length).zip g).map fun x => x.2 * 2 ^ x.1).sum

def unpackBits (n : Nat) (bs : List Byte) : List Nat := (List.range n).map fun i => b2n (bit (le bs (i / 8) 1) (i % 8))

/-- Bytes of `n` packed elements of a format code. -/
def elemsBytes (f : Fmt) (n : Nat) : Nat := ceilDiv (n * f.bits) 8

def packFmt (f : Fmt) (l : List Nat) : List Byte := packElems (if f == .e2m1 then 7 else 0) f.stride0 l

def unpackFmt (f : Fmt) (n : Nat) (bs : List Byte) : List Nat :=
  (List.range n).map fun i =>
    if f == .e2m1 then bits (le bs (i / 2) 1) (if i % 2 == 0 then 3 else 7) (if i % 2 == 0 then 0 else 4)
    else le bs (i * f.stride0) f.stride0

/-- The payload of encoded values. -/
def encPayload (c : Coll) (e : Enc) : List Byte :=
  joinParts (packFmt (encFmt c) e.bits :: if encBlock c then
    [e.exps.flatMap (leBytes 1), packBits (e.raised.map b2n)] else [])

/-- The values a payload of `n` elements holds. -/
def encParse (c : Coll) (n : Nat) (bs : List Byte) : Enc :=
  let f := encFmt c
  let a := alignUp (elemsBytes f n) 64
  let m := ceilDiv n 32
  if encBlock c then
    { bits := unpackFmt f n bs, exps := (List.range m).map fun k => le bs (a + k) 1
      raised := (unpackBits m (bs.drop (a + alignUp m 64))).map (· == 1) }
  else { bits := unpackFmt f n bs }

def signPayload (signs scales : List Nat) : List Byte := joinParts [packBits signs, scales.flatMap (leBytes 2)]

def signParse (n : Nat) (bs : List Byte) : List Nat × List Nat :=
  (unpackBits n bs, (List.range (ceilDiv n 1024)).map fun k => le bs (alignUp (ceilDiv n 8) 64 + 2 * k) 2)

/-- The scale bytes' addresses that cover the elements [a, b) of a tensor, each once. -/
def coverScales (t : Tensor) (r : Nat × Nat) : List Nat :=
  if t.scaled then
    distinct ((List.range (r.2 - r.1)).map fun i => scaleAddrOf t (posOf t.ext (r.1 + i)))
  else []

/-! ### The local contribution (R312, R322 to R324, R340) -/

def tensorVals (set : Settings) (p : Pkg) (t : Tensor) : List W32 :=
  (List.range t.size).map fun n => elemF32 set p t (posOf t.ext n)

/-- x of R312. -/
def sumSources : List (List W32) → List W32
  | [a] => a
  | [a, b] => a.zipWith fadd b
  | [a, b, c, d] => (a.zipWith fadd b).zipWith fadd (c.zipWith fadd d)
  | _ => []

/-- The half of an error memory that is read now (R322). -/
def errHalf (p : Pkg) : Nat := p.upd.updates % 2

def errVals (set : Settings) (p : Pkg) (t : Tensor) (e : Nat) : List W32 :=
  (List.range e).map fun i => elemF32 set p t (posOf t.ext (errHalf p * e + i))

/-- Writes into the other half, from element `a` on (R322), with their counts (R183). -/
def errOps (p : Pkg) (t : Tensor) (e a : Nat) (vs : List W32) : List WOp :=
  ((List.range vs.length).zip vs).flatMap fun x =>
    (writeElem t (posOf t.ext ((1 - errHalf p) * e + a + x.1)) (ofF32 x.2) none).1

/-- v of R322. -/
def thinned (p : Pkg) (xs es : List W32) : List W32 :=
  xs.zipWith (fun x e => ffma x (fscale f32One (-p.upd.exp)) e) es

/-- The sum of squares of some values after a multiplication by 2^−EXP (R340). -/
def squares (ex : Int) (vs : List W32) : W32 := sumR165 (vs.map fun v => let y := fscale v (-ex); fmul y y)

/-- INTERVAL in a step that reduces (R324). -/
def intervalOn (c : Coll) : Bool := c.step.getD 0 % max 1 (cK c.body) == cPhase c.body

/-- A collective with its contribution, and what goes into the error memory. -/
def contribute (set : Settings) (p : Pkg) (c : Coll) : Coll × List WOp :=
  let b := c.body
  let src (k : Nat) : Tensor := c.tn.getD k noTensor
  if c.type == 0x41 || c.type == 0x43 then
    if c.retired then (c, [])
    else
      let t := src (cSrc b 0)
      ({ c with raw := elemList set p t
                scales := (coverScales t (0, t.size)).map fun a => (readByte set p a).toNat }, [])
  else
    let x := sumSources ((cSources b).map fun k => tensorVals set p (src k))
    let c := { c with local2 := squares p.upd.exp x }
    if cThin b == 0 then ({ c with x := x }, [])
    else
      let err := src (cErr b)
      let v := thinned p x (errVals set p err c.e)
      if cThin b == 2 then
        ({ c with x := v }, errOps p err c.e 0 (if intervalOn c then v.map fun _ => posZero else v))
      else
        let signs := signBits v
        let scales := signScales v
        let d := signVals signs scales
        ({ c with x := d, raw := signs, scales := scales }, errOps p err c.e 0 (v.zipWith fsub d))

/-! ### Checks at launch (R307, R308) -/

/-- Dense strides (R307). -/
def dense (t : Tensor) : Bool :=
  (List.range 4).all fun i => t.rank ≤ i + 1 || t.s (i + 1) * 8 == t.fmt.bits * (t.ext.take (i + 1)).foldl (· * ·) 1

/-- Elements of a member's own chunk, both halves. -/
def ownElems (g : CollGroup) (e : Nat) : Nat :=
  ((halves g.dual e).map fun h => let r := chunkRange g.n e h g.pos; r.2 - r.1).sum

/-- The checks of R307 and R308 on placed tensors; those that need N hold of a configured group. -/
def collTensorsBad (g : CollGroup) (type : Nat) (b : List Byte) (tn : List Tensor) (retired : Bool) : Bool :=
  let t (k : Nat) : Tensor := tn.getD k noTensor
  let dst := t (cDst b)
  let s0 := t (cSrc b 0)
  let errs := [cErr b, cErr2 b].filter (· != 0xFF)
  let plain (x : Tensor) : Bool := x.format == 0 || x.format == 2
  let reduces := type == 0x40 || type == 0x42
  let others := ((cSources b).drop 1 ++ errs).map t
  !((cSources b ++ [cDst b] ++ errs).all fun k => dense (t k)) ||
    (if reduces then !plain dst || !plain s0 || (cSources b).any fun k => (t k).format != s0.format || (t k).size != dst.size
     else s0.format != dst.format || dst.code == 1 || (type == 0x43 && s0.size != dst.size) ||
       (type == 0x41 && (dst.channelScaled || (g.on && s0.size != ownElems g dst.size)))) ||
    errs.any (fun k => (t k).format != 0 || (t k).size != 2 * dst.size) ||
    others.any (shareByte dst) || (!retired && shareByte dst s0 && !sameTensor dst s0) ||
    (type == 0x43 && g.on && (g.n ≤ cDestPos b || g.n ≤ cSrcPos b))

/-! ### Agreement (R330) -/

/-- τa. -/
def agreeTol (g : CollGroup) (l : Nat) : Val :=
  let t : Val := .fin false 1 (-(g.tau : Int))
  let f : Val := .fin false (2 * ceilDiv l 64 + 2 * g.n + 32) (-24)
  if t.lt f then f else t

end Sys2Proof.Machine
end

