-- ==== Sys2Proof/Machine/Collectives.lean ====
section
/-! DEFINITION. Collectives (R302 to R341, R590): groups, the start of a collective, its pieces, the pre-pass, the verdict
pass, completion; retractions. -/

namespace Sys2Proof.Machine

/-! ### Groups (R302, R303) -/

def groupFieldsBad (b : List Byte) : Bool :=
  let op := le b 1 1
  3 < le b 0 1 || 2 < op || !zeros b 18 46 ||
    (if op == 1 then !zeros b 2 16
     else if op == 2 then !zeros b 2 14
     else le b 2 2 == 0 || 4096 < le b 2 2 || le b 2 2 ≤ le b 4 2 || 1 < le b 6 1 ||
       !(le b 7 1 == 0 || (12 ≤ le b 7 1 && le b 7 1 ≤ 20)) || !addrOk (le b 8 8) 4 (4 * le b 2 2))

/-- The group a CONFIGURE makes (R302, R303, R343): counts are cleared. -/
def newGroup (b : List Byte) (members : List Nat) : CollGroup :=
  { on := true, dual := bit (le b 6 1) 0, n := le b 2 2, pos := le b 4 2, gen := le b 16 2, members
    tau := if le b 7 1 == 0 then 16 else le b 7 1 }

/-- The last three checks of R303, and the operation. -/
def applyGroup (w : Who) (b : List Byte) (members : List Nat) (p : Pkg) : Pkg :=
  let g := le b 0 1
  let op := le b 1 1
  if stepBusy p || p.colls.running.any (fun c => c.group == g) || (op == 2 && !(groupOf p g).on) then
    answer w stBadState 0 0 p
  else if op == 2 && (groupOf p g).gen == le b 16 2 then answer w stBadParam 0 0 p
  else answer w stOk 0 0 (modGroup g (fun c =>
    if op == 0 then newGroup b members
    else if op == 1 then { c with on := false, resync := false, dual := false, pos := 0, n := 0, members := [], early := [] }
    else { c with gen := le b 16 2, resync := false, early := [] }) p)

def collGroupConfig (w : Who) (b : List Byte) (set : Settings) (p : Pkg) : Pkg :=
  if groupFieldsBad b then answer w stBadParam 0 0 p
  else if le b 1 1 != 0 then applyGroup w b [] p
  else
    let n := le b 2 2
    match readError set p (le b 8 8) (4 * n) with
    | some x => answer w stMem 0 0 (memError set x p)
    | none =>
      let members := (List.range n).map fun k => readLe set p (le b 8 8 + 4 * k) 4
      if (distinct members).length != n then answer w stBadParam 0 0 p
      else if p.links.addr == 0xFFFFFFFF then answer w stBadState 0 0 p
      else if members.getD (le b 4 2) 0 != p.links.addr then answer w stBadParam 0 0 p
      else applyGroup w b members p

def execCollGroupConfig (q : Nat) (s : State) : Host.Outcome State Fault Refusal := onPacketP q 0x0601 collGroupConfig s

/-! ### Access -/

/-- Collectives whose task no longer runs end (R235, R525). -/
def pruneColls (p : Pkg) : Pkg :=
  { p with colls.running := p.colls.running.filter fun c => (runOf p c.iid c.task).isSome }

/-! ### Sending (R325) -/

def headerOf (p : Pkg) (c : Coll) (kind flags : Nat) (k : PieceKey) : CollHdr :=
  let g := groupOf p c.group
  { kind, type := c.type, group := c.group, flags := flags + 32 * b2n k.rev + 64 * b2n c.step.isNone, rid := c.rid
    step := c.step.getD 0, gen := g.gen, epoch := p.reshard.epoch, version := c.version, srcPos := g.pos
    chunk := k.chunk, enc := if cThin c.body == 1 then 0xFE else cEnc c.body, piece := k.piece, length := 0
    cs := 0, cl := 0, gsq := 0, count := 0 }

/-- Send a message of a collective to a position; a DATA or PREPASS piece counts (R309, R318), and DATA calls for a
retraction (R332). -/
def sendPiece (c : Coll) (pos : Nat) (h : CollHdr) (payload : List Byte) (p : Pkg) : Pkg :=
  let p := if h.kind < 2 then
      modColl c.iid c.task (fun c => { c with pieces := c.pieces + 1, sentData := c.sentData || h.kind == 0 }) p else p
  sendColl c.group pos { h with length := payload.length } payload p

/-! ### The end of a collective (R331, R590) -/

/-- A collective of this member ends with a status: its context frees, its task completes or fails, tokens are fed. -/
def endColl (set : Settings) (c : Coll) (status : Nat) (stats : Option (W32 × W32)) (p : Pkg) : Pkg :=
  let c := (collAt p c.iid c.task).getD c
  let p := retireColl c stats p
  let p := if status == stOk then endTask set c.iid c.task p else failRun set c.iid c.task status p
  feed set c.group c.rid status p

/-- An uncorrectable error at this member ends the collective (R378). -/
def failColl (set : Settings) (c : Coll) (x : Nat) (p : Pkg) : Pkg := endColl set c stMem none (memError set x p)

/-- Write to DST or to an error memory; a failing write ends the collective, and `none` says so. -/
def collWrite (set : Settings) (c : Coll) (ws : List WOp) (p : Pkg) : Pkg × Bool :=
  match applyOps set ws p with
  | (q, none) => (q, true)
  | (q, some x) => (failColl set c x q, false)

/-! ### Writing results (R315, R316, R321, R323) -/

def dstOf (c : Coll) : Tensor := c.tn.getD (cDst c.body) noTensor

/-- Values into DST from element `a` on, with the blocks that were raised (R321). -/
def valueOps (c : Coll) (a : Nat) (vs : List W32) (raised : List Bool) : List WOp :=
  let t := dstOf c
  (((List.range vs.length).zip vs).flatMap fun x => (writeElem t (posOf t.ext (a + x.1)) (ofF32 x.2) none).1) ++
    [.tally t.hslot { raised := raised.countP id }]

/-- The values as DST then holds them (R340). -/
def heldVals (c : Coll) (vs : List W32) : List W32 :=
  let t := dstOf c
  vs.map fun v => decodeF32 t.fmt (convert t.fmt t.ieee (ofF32 v)).bits none

/-- Stored bits and scale bytes into DST from element `a` on, converted by nothing. -/
def rawOps (c : Coll) (a : Nat) (els scs : List Nat) : List WOp :=
  let t := dstOf c
  let as_ := coverScales t (a, a + els.length)
  (((List.range as_.length).zip as_).map fun x => WOp.bytes x.2 (leBytes 1 (scs.getD x.1 0))) ++
    ((List.range els.length).zip els).map fun x =>
      let pos := posOf t.ext (a + x.1)
      let sc := if t.scaled then
          ((((List.range as_.length).zip as_).find? fun y => y.2 == scaleAddrOf t pos).map fun y => scs.getD y.1 0) else none
      putElem t pos x.2 (storedTally (decodeScaled t.fmt x.2 sc))

/-- Scaling back under a thinning mode (R323, R324). -/
def rescale (p : Pkg) (c : Coll) (vs : List W32) : List W32 :=
  if cThin c.body == 0 then vs else vs.map fun v => fscale v p.upd.exp

def markReduced (c : Coll) (k : PieceKey) (p : Pkg) : Pkg :=
  modColl c.iid c.task (fun c => { c with reduced := k :: c.reduced }) p

def markGathered (c : Coll) (k : PieceKey) (p : Pkg) : Pkg :=
  modColl c.iid c.task (fun c => { c with gathered := k :: c.gathered }) p

/-- The owner's comparison (R330): a fault, or one that is not evaluated. -/
def checkAgreement (c : Coll) (r : List W32) (expect lam : W32) (p : Pkg) : Pkg :=
  if cMax c.body then p
  else match compareLedger (agreeTol (groupOf p c.group) r.length) expect (sumR165 r) lam with
    | .pass => p
    | .skip => if c.step.isSome then countUnchecked 1 p else p
    | .fail =>
      let p := modColl c.iid c.task (fun c => { c with sumFault := true }) p
      raise (376 + c.group) (modGroup c.group (fun g => { g with agree := satAdd 0xFF g.agree 1 }) p)

/-- Send an owner's piece along the ring (R315). -/
def sendGather (c : Coll) (k : PieceKey) (flags : Nat) (payload : List Byte) (p : Pkg) : Pkg :=
  let g := groupOf p c.group
  if g.n ≤ 1 then p
  else sendPiece c (nextPos g.n k.rev g.pos) (headerOf p c 0 (8 + flags) k) payload p

/-- The owner writes the values it gathers, or its own result in a REDUCE_SCATTER; the squares of R340 are of what it then
holds, or of the result r itself in a REDUCE_SCATTER. -/
def ownerWrite (set : Settings) (c : Coll) (k : PieceKey) (vs : List W32) (raised : List Bool) (more : List WOp)
    (p : Pkg) : Pkg :=
  let a := (keyRange (groupOf p c.group) c k).1
  let ws := rescale p c vs
  match collWrite set c (valueOps c a ws raised ++ more) p with
  | (p, false) => p
  | (p, true) =>
    let held := if c.type == 0x40 then vs else heldVals c ws
    markGathered c k (modColl c.iid c.task (fun c => { c with results := ⟨k, held⟩ :: c.results }) p)

/-- A piece of the owner's chunk is final (R313 to R315, R321, R323). -/
def ownPiece (set : Settings) (c : Coll) (k : PieceKey) (r : List W32) (raised : List Bool) (expect lam : W32) (p : Pkg) :
    Pkg :=
  let p := markReduced c k (checkAgreement c r expect lam p)
  if c.type == 0x40 then ownerWrite set c k r raised [] p
  else if cThin c.body == 1 then
    let a := (keyRange (groupOf p c.group) c k).1
    let err := c.tn.getD (cErr2 c.body) noTensor
    let old := (List.range r.length).map fun i => elemF32 set p err (posOf err.ext (errHalf p * c.e + a + i))
    let v := r.zipWith fadd old
    let signs := signBits v
    let scales := signScales v
    let d := signVals signs scales
    ownerWrite set c k d raised (errOps p err c.e a (v.zipWith fsub d))
      (sendGather c k 0 (signPayload signs scales) p)
  else
    let e := { encodeVals c none [] r with raised := raised }
    ownerWrite set c k (decodeVals c e) raised [] (sendGather c k 0 (encPayload c e) p)

/-! ### The reduce phase (R312 to R314, R318, R319, R329) -/

/-- How a reduction combines two values: SUM or MAX. -/
def combineColl (c : Coll) (a b : W32) : W32 := if cMax c.body then fmax a b else fadd a b

/-- A partial that comes in: values, bytes of its blocks, raised bits, running checksum and mass. -/
structure PartialIn where
  vals : List W32
  exps : List Nat
  raised : List Bool
  cs : W32
  cl : W32
  deriving DecidableEq, Repr

/-- A hop of the ring (R313, R319, R329): the first without an incoming partial, the owner's the last. -/
def hop (set : Settings) (c : Coll) (k : PieceKey) (inc : Option PartialIn) (p : Pkg) : Pkg :=
  let g := groupOf p c.group
  let x := slice c.x (keyRange g c k)
  let floors := match inc with
    | some i => i.exps
    | none => ((c.agreed.find? fun a => a.1 == k).map (·.2)).getD []
  let sum := match inc with
    | some i => i.vals.zipWith (combineColl c) x
    | none => x
  let up := (inc.map (·.raised)).getD []
  let cs := fadd ((inc.map (·.cs)).getD posZero) (sumR165 x)
  let cl := fadd ((inc.map (·.cl)).getD posZero) (sumR165 (x.map fabs))
  if g.pos == k.chunk then ownPiece set c k sum up cs cl p
  else
    let e := encodeVals c (some floors) up sum
    let d := (decodeVals c e).zipWith fsub sum
    let h := headerOf p c 0 0 k
    let h := if cMax c.body then h else
      { h with cs := fadd cs (sumR165 d), cl := fadd cl (sumR165 (d.map fabs)) }
    sendPiece c (nextPos g.n k.rev g.pos) h (encPayload c e) (markReduced c k p)

/-- This member's contribution goes straight to its owner (R314, R329). -/
def sendDirect (c : Coll) (k : PieceKey) (p : Pkg) : Pkg :=
  let g := groupOf p c.group
  let r := keyRange g c k
  let floors := ((c.agreed.find? fun a => a.1 == k).map (·.2)).getD []
  let e := encodeVals c (some floors) [] (slice c.x r)
  let sign := cThin c.body == 1
  let d := if sign then slice c.x r else decodeVals c e
  let payload := if sign then
      signPayload (slice c.raw r) (slice c.scales (r.1 / 1024, ceilDiv r.2 1024)) else encPayload c e
  let h := headerOf p c 0 0 k
  let h := if cMax c.body then h else { h with cs := sumR165 d, cl := sumR165 (d.map fabs) }
  sendPiece c k.chunk h payload (markReduced c k p)

/-- Contributions go straight to their owners (R314). -/
def isDirect (set : Settings) (c : Coll) : Bool := set.arrival || cThin c.body == 1

/-- The owner has every contribution to a piece: it adds them in their order (R314, R330). -/
def addDirect (set : Settings) (c : Coll) (k : PieceKey) (p : Pkg) : Pkg :=
  let g := groupOf p c.group
  let x := slice c.x (keyRange g c k)
  let mine := c.direct.filter fun d => d.key == k
  let order := if set.arrival then mine
    else (positionsAfter g.n k.rev (g.n - 1) k.chunk).filterMap fun pos => mine.find? fun d => d.src == pos
  let r := if set.arrival then order.foldl (fun acc d => acc.zipWith (combineColl c) d.vals) x
    else match order with
      | [] => x
      | d :: ds => (ds.foldl (fun acc e => acc.zipWith (combineColl c) e.vals) d.vals).zipWith (combineColl c) x
  let raised := order.foldl (fun acc d => (List.range d.raised.length).map fun i => acc.getD i false || d.raised.getD i false) []
  let cs := order.foldl (fun acc d => fadd acc d.cs) (sumR165 x)
  let cl := order.foldl (fun acc d => fadd acc d.cl) (sumR165 (x.map fabs))
  ownPiece set c k r raised cs cl (modColl c.iid c.task (fun c => { c with
    direct := c.direct.filter fun d => d.key != k }) p)

/-- What a member begins with a piece of a reduction once it may: the first hop, a direct contribution, or, alone in its
group, the result. -/
def beginPiece (set : Settings) (c : Coll) (k : PieceKey) (p : Pkg) : Pkg :=
  let g := groupOf p c.group
  let c := (collAt p c.iid c.task).getD c
  if g.n ≤ 1 then hop set c k none p
  else if isDirect set c then if g.pos == k.chunk then p else sendDirect c k p
  else if g.pos == nextPos g.n k.rev k.chunk then hop set c k none p else p

/-! ### The pre-pass (R318) -/

/-- The bytes of a piece's blocks for this member's own contribution. -/
def ownBytes (p : Pkg) (c : Coll) (k : PieceKey) : List Nat :=
  (groupsOf 32 (slice c.x (keyRange (groupOf p c.group) c k))).map (blockByte (encFmt c))

/-- ⌈log2 n⌉. -/
def log2Up (n : Nat) : Nat := if n ≤ 1 then 0 else Nat.log2 (n - 1) + 1

/-- Agreed bytes: the maximum raised by ⌈log2 N⌉, capped at 127; 0xFF stays. -/
def agreeByte (n b : Nat) : Nat := if b == 255 then 255 else min 254 (b + log2Up n)

def sendPrepass (c : Coll) (k : PieceKey) (flags : Nat) (bs : List Nat) (p : Pkg) : Pkg :=
  let g := groupOf p c.group
  sendPiece c (nextPos g.n k.rev g.pos) (headerOf p c 1 flags k) (bs.flatMap (leBytes 1)) p

/-- The agreed bytes of a piece are known here; its reduction begins. -/
def agreePiece (set : Settings) (c : Coll) (k : PieceKey) (bs : List Nat) (p : Pkg) : Pkg :=
  let p := modColl c.iid c.task (fun c => { c with agreed := (k, bs) :: c.agreed }) p
  beginPiece set ((collAt p c.iid c.task).getD c) k p

/-- The pre-pass of a piece starts at the member after its owner, as its reduction does. -/
def beginPrepass (set : Settings) (c : Coll) (k : PieceKey) (p : Pkg) : Pkg :=
  let g := groupOf p c.group
  if g.n ≤ 1 then agreePiece set c k ((ownBytes p c k).map (agreeByte g.n)) p
  else if g.pos == nextPos g.n k.rev k.chunk then sendPrepass c k 0 (ownBytes p c k) p else p

/-- A PREPASS piece (R318): combined by maximum on its way to the owner; the agreed bytes then go round the ring with
GATHER (DESIGN CHOICE, log entry 37). -/
def takePrepass (set : Settings) (c : Coll) (k : PieceKey) (gather : Bool) (bs : List Nat) (p : Pkg) : Pkg :=
  let g := groupOf p c.group
  if gather then
    let p := if nextPos g.n k.rev g.pos == k.chunk then p else sendPrepass c k 8 bs p
    agreePiece set c k bs p
  else
    let m := bs.zipWith max (ownBytes p c k)
    if g.pos == k.chunk then
      let e := m.map (agreeByte g.n)
      agreePiece set c k e (sendPrepass c k 8 e p)
    else sendPrepass c k 0 m p

/-! ### Beginning (R315, R316, R336, R339, R341) -/

/-- A gather sends this member's chunk; a retired one sends its pieces without payload (R339). -/
def beginGather (set : Settings) (c : Coll) (k : PieceKey) (p : Pkg) : Pkg :=
  let g := groupOf p c.group
  if k.chunk != g.pos then p
  else if c.retired then markGathered c k (sendGather c k 2 [] p)
  else
    let t := c.tn.getD (cSrc c.body 0) noTensor
    let r := keyRange g c k
    let before := (((allKeys g c).filter fun x => x.chunk == g.pos).takeWhile (· != k)).foldl
      (fun n x => let r := keyRange g c x; n + (r.2 - r.1)) 0
    let own := (before, before + (r.2 - r.1))
    let els := slice c.raw own
    let all := coverScales t (0, t.size)
    let scs := (coverScales t own).map fun a =>
      ((((List.range all.length).zip all).find? fun y => y.2 == a).map fun y => c.scales.getD y.1 0).getD 0
    let payload := joinParts (packFmt t.fmt els :: if t.scaled then [scs.flatMap (leBytes 1)] else [])
    match collWrite set c (rawOps c r.1 els scs) (sendGather c k 0 payload p) with
    | (p, true) => markGathered c k p
    | (p, false) => p

/-- A permute sends a piece of SRC0 to DEST_POS (R316). -/
def beginPermute (c : Coll) (k : PieceKey) (p : Pkg) : Pkg :=
  let g := groupOf p c.group
  let t := c.tn.getD (cSrc c.body 0) noTensor
  let r := keyRange g c k
  let all := coverScales t (0, t.size)
  let scs := (coverScales t r).map fun a =>
    ((((List.range all.length).zip all).find? fun y => y.2 == a).map fun y => c.scales.getD y.1 0).getD 0
  sendPiece c (cDestPos c.body) (headerOf p c 0 0 k)
    (joinParts (packFmt t.fmt (slice c.raw r) :: if t.scaled then [scs.flatMap (leBytes 1)] else [])) p

/-- A collective takes its context and begins (R336). -/
def beginColl (set : Settings) (c : Coll) (ctx : Nat) (p : Pkg) : Pkg :=
  let p := modColl c.iid c.task (fun c => { c with ctx := some ctx }) p
  let p := modGroup c.group (fun g => { g with done := g.done.filter fun d => d != (c.rid, c.step) }) p
  let p := if c.e == 0 then tally (dstOf c).hslot { empty := true } p else p
  (allKeys (groupOf p c.group) c).foldl (fun p k =>
    match collAt p c.iid c.task with
    | none => p
    | some c =>
      if c.type == 0x43 then beginPermute c k p
      else if c.type == 0x41 then beginGather set c k p
      else if encBlock c then beginPrepass set c k p else beginPiece set c k p) p

/-- Contexts of a group that are held. -/
def heldCtx (p : Pkg) (g : Nat) : List Nat := (p.colls.running.filter fun c => c.group == g).filterMap (·.ctx)

def freeCtx (p : Pkg) (g : Nat) : Option Nat := (List.range 4).find? fun k => !(heldCtx p g).elem k

/-- A waiting collective that takes a free context: the one with the lowest RID of its group (R336). -/
def nextWaiting (p : Pkg) : Option (Coll × Nat) :=
  firstSome (fun g => match freeCtx p g with
    | none => none
    | some k => ((p.colls.running.filter fun c => c.group == g && c.ctx.isNone).foldl (fun (b : Option Coll) c =>
        match b with
        | none => some c
        | some d => if c.rid < d.rid then some c else some d) none).map fun c => (c, k)) [0, 1, 2, 3]

/-! ### The verdict pass (R331, R340) -/

/-- This member's part is done. -/
def partDone (p : Pkg) (c : Coll) : Bool :=
  let ks := allKeys (groupOf p c.group) c
  let reduces := c.type == 0x40 || c.type == 0x42
  c.ctx.isSome && ks.all fun k =>
    (!reduces || c.reduced.elem k) && (!encBlock c || !reduces || c.agreed.any fun a => a.1 == k) &&
      (c.type == 0x40 || c.gathered.elem k)

/-- The verdict bits of this member. -/
def verdictBits (c : Coll) : Nat := b2n c.sumFault + 2 * b2n c.retired + 4 * b2n c.mismatch

/-- STATS are gathered (R340). -/
def hasStats (c : Coll) : Bool := cStats c.body && (c.type == 0x40 || c.type == 0x42) && !cMax c.body && c.step.isSome

/-- This member's global term: over its own chunk, in ascending order. -/
def globalTerm (p : Pkg) (c : Coll) : W32 :=
  if hasStats c then
    let ks := (allKeys (groupOf p c.group) c).filter fun k => k.chunk == (groupOf p c.group).pos
    squares p.upd.exp (ks.flatMap fun k => ((c.results.find? fun r => r.key == k).map (·.vals)).getD [])
  else posZero

/-- The status of a final verdict (R331). -/
def verdictStatus (bits_ : Nat) : Nat :=
  if bit bits_ 0 then stChecksum else if bit bits_ 1 then stRetired else if bit bits_ 2 then stBadState else stOk

/-- A member completes with the final verdict. -/
def complete (set : Settings) (c : Coll) (bits_ : Nat) (gsq : W32) (p : Pkg) : Pkg :=
  let p := if bit bits_ 0 && c.step.isSome then failLive 3 stChecksum p else p
  let st := verdictStatus bits_
  endColl set c st (if st == stOk && hasStats c then some (c.local2, gsq) else none) p

def sendVerdict (c : Coll) (flags count : Nat) (gsq : W32) (p : Pkg) : Pkg :=
  let g := groupOf p c.group
  sendPiece c (nextPos g.n false g.pos) { headerOf p c 2 flags ⟨false, 0, 0⟩ with gsq, count } [] p

/-- The member acts on the verdict pass, when it can. -/
def verdictAct (set : Settings) (c : Coll) (p : Pkg) : Option Pkg :=
  let g := groupOf p c.group
  let own := verdictBits c
  if !partDone p c then none
  else if g.n ≤ 1 then some (complete set c own (globalTerm p c) p)
  else
    let sent (p : Pkg) : Pkg := modColl c.iid c.task (fun c => { c with verdictSent := true, verdict := none }) p
    match c.verdict with
    | none =>
      if g.pos == 0 && !c.verdictSent then some (sendVerdict c own 1 (globalTerm p c) (sent p)) else none
    | some h =>
      let bits_ := h.flags % 8 ||| own
      if bit h.flags 4 then
        if c.verdictSent then
          let p := if g.pos + 1 == g.n then p else sendVerdict c (bits_ + 16) h.count h.gsq p
          some (complete set c bits_ h.gsq p)
        else none
      else if g.pos == 0 then
        if h.count == g.n then some (complete set c bits_ h.gsq (sendVerdict c (bits_ + 16) h.count h.gsq p)) else none
      else if c.verdictSent then none
      else some (sendVerdict c bits_ (h.count + 1) (fadd h.gsq (globalTerm p c)) (sent p))

/-! ### Messages (R328, R337) -/

/-- A message names a collective of this member that holds a context. -/
def forColl (h : CollHdr) (c : Coll) : Bool :=
  c.group == h.group && c.rid == h.rid && c.ctx.isSome && c.step == (if bit h.flags 6 then none else some h.step)

/-- A piece of a permute from any position but SRC_POS (R316): the collective fails with BAD_STATE. -/
def refusePiece (c : Coll) (p : Pkg) : Pkg :=
  modColl c.iid c.task (fun c => { c with mismatch := true }) (log 0x0603 stBadState 0xFFFF [] p)

/-- A DATA piece of a permute from SRC_POS (R316). -/
def takePermute (set : Settings) (c : Coll) (k : PieceKey) (bs : List Byte) (p : Pkg) : Pkg :=
  let t := dstOf c
  let r := keyRange (groupOf p c.group) c k
  let n := r.2 - r.1
  let els := unpackFmt t.fmt n bs
  let scs := (bs.drop (alignUp (elemsBytes t.fmt n) 64)).map (·.toNat)
  match collWrite set c (rawOps c r.1 els scs) p with
  | (p, true) => markGathered c k p
  | (p, false) => p

/-- A piece of the gather phase goes on around the ring and is written (R315, R321, R323, R339). -/
def takeGather (set : Settings) (c : Coll) (h : CollHdr) (k : PieceKey) (bs : List Byte) (p : Pkg) : Pkg :=
  let g := groupOf p c.group
  let p := if nextPos g.n k.rev g.pos == k.chunk then p
    else sendPiece c (nextPos g.n k.rev g.pos) { h with srcPos := g.pos, epoch := p.reshard.epoch } bs p
  let r := keyRange g c k
  let n := r.2 - r.1
  let t := dstOf c
  if bit h.flags 1 then markGathered c k p
  else
    let ws :=
      if c.type == 0x41 then
        rawOps c r.1 (unpackFmt t.fmt n bs) ((bs.drop (alignUp (elemsBytes t.fmt n) 64)).map (·.toNat))
      else if cThin c.body == 1 then
        let x := signParse n bs
        valueOps c r.1 (rescale p c (signVals x.1 x.2)) []
      else
        let e := encParse c n bs
        valueOps c r.1 (rescale p c (decodeVals c e)) e.raised
    match collWrite set c ws p with
    | (p, true) => markGathered c k p
    | (p, false) => p

/-- A piece of the reduce phase. -/
def takeReduce (set : Settings) (c : Coll) (h : CollHdr) (k : PieceKey) (bs : List Byte) (p : Pkg) : Pkg :=
  let g := groupOf p c.group
  let r := keyRange g c k
  let n := r.2 - r.1
  let e := if cThin c.body == 1 then { bits := [] } else encParse c n bs
  let vals := if cThin c.body == 1 then let x := signParse n bs; signVals x.1 x.2 else decodeVals c e
  if isDirect set c then
    if g.pos != k.chunk || c.direct.any (fun d => d.key == k && d.src == h.srcPos) then p
    else
      let p := modColl c.iid c.task (fun c => { c with
        direct := c.direct ++ [⟨k, h.srcPos, vals, e.raised, h.cs, h.cl⟩] }) p
      let c := (collAt p c.iid c.task).getD c
      if (c.direct.countP fun d => d.key == k) + 1 == g.n then addDirect set c k p else p
  else hop set c k (some ⟨vals, e.exps, e.raised, h.cs, h.cl⟩) p

/-- A message reaches its collective (R328): a piece that was already taken changes nothing. -/
def takeMessage (set : Settings) (h : CollHdr) (bs : List Byte) (c : Coll) (p : Pkg) : Pkg :=
  let p := if h.epoch != p.reshard.epoch || h.version != c.version then
      modColl c.iid c.task (fun c => { c with mismatch := true }) p else p
  let k : PieceKey := ⟨bit h.flags 5, h.chunk, h.piece⟩
  let gather := bit h.flags 3
  if h.kind == 2 then modColl c.iid c.task (fun c => { c with verdict := some h }) p
  else if c.type == 0x43 && h.srcPos != cSrcPos c.body then refusePiece c p
  else if !(allKeys (groupOf p c.group) c).elem k then p
  else if h.kind == 1 then
    if c.agreed.any fun a => a.1 == k then p else takePrepass set c k gather (bs.map (·.toNat)) p
  else if c.type == 0x43 then if c.gathered.elem k then p else takePermute set c k bs p
  else if gather then if c.gathered.elem k then p else takeGather set c h k bs p
  else if c.reduced.elem k then p else takeReduce set c h k bs p

/-- The early buffer of a group, and the staging of a context (R336, R337). -/
def earlyRoom : Nat := 2 ^ 20
def contextRoom : Nat := 10 * 2 ^ 20

/-- Bytes of the messages that a group holds early. -/
def earlyUsed (g : CollGroup) : Nat := (g.early.map fun e => 64 + e.payload.length).sum

/-- A contribution waits at its owner for one that comes before it in the order of R314. -/
def isAhead (g : CollGroup) (c : Coll) (k : PieceKey) (src : Nat) : Bool :=
  ((positionsAfter g.n k.rev (g.n - 1) k.chunk).takeWhile (· != src)).any fun pos =>
    !c.direct.any fun d => d.key == k && d.src == pos

/-- Bytes of staging that contributions ahead of their turn take in a context: signs and scales (R323). -/
def aheadBytes (g : CollGroup) (c : Coll) : Nat :=
  ((c.direct.filter fun d => isAhead g c d.key d.src).map fun d =>
    alignUp (ceilDiv d.vals.length 8) 64 + 2 * ceilDiv d.vals.length 1024).sum

/-- The staging of a context has room for a piece: only one ahead of its turn takes any (R337). -/
def hasRoom (set : Settings) (g : CollGroup) (c : Coll) (h : CollHdr) (bs : List Byte) : Bool :=
  set.arrival || !isDirect set c || h.kind != 0 || bit h.flags 3 ||
    !isAhead g c ⟨bit h.flags 5, h.chunk, h.piece⟩ h.srcPos || aheadBytes g c + bs.length ≤ contextRoom

/-- A message that passed its digest is discarded, processed or held (R328); none when it finds no room (R337). -/
def placeMessage (set : Settings) (h : CollHdr) (bs : List Byte) (p : Pkg) : Option Pkg :=
  let g := groupOf p h.group
  let discard (p : Pkg) : Pkg := modGroup h.group (fun g => { g with discard := satAdd 0xFFFF g.discard 1 }) p
  let nostep := bit h.flags 6
  if !g.on || g.resync || h.gen != g.gen then some (discard p)
  else if (!nostep && (h.step < p.step.num ||
      (h.step == p.step.num && (p.step.state == .committed || p.step.state == .aborted)))) ||
      g.done.elem (h.rid, if nostep then none else some h.step) then some (discard p)
  else match p.colls.running.find? (forColl h) with
    | some c => if hasRoom set g c h bs then some (takeMessage set h bs c p) else none
    | none =>
      if earlyUsed g + 64 + bs.length ≤ earlyRoom then
        some (modGroup h.group (fun g => { g with early := g.early ++ [⟨h.rid, h, bs⟩] }) p)
      else none

/-- A message that found no room finds some now: the first of its group goes on. -/
def nextStalled (set : Settings) (p : Pkg) : Option Pkg :=
  firstSome (fun g => match (groupOf p g).stalled with
    | [] => none
    | e :: es => placeMessage set e.h e.payload (modGroup g (fun x => { x with stalled := es }) p)) [0, 1, 2, 3]

/-- An early message whose collective holds a context now, with its group. -/
def nextEarly (p : Pkg) : Option (Nat × Early × Coll) :=
  firstSome (fun g => firstSome (fun e => (p.colls.running.find? (forColl e.h)).map fun c => (g, e, c)) (groupOf p g).early)
    [0, 1, 2, 3]

/-- One action of the collective engine: a waiting collective begins, an early or a stalled message is taken, a verdict
goes on. -/
def engineAct (set : Settings) (p : Pkg) : Option Pkg :=
  match nextWaiting p with
  | some (c, k) => some (beginColl set c k p)
  | none =>
    match nextEarly p with
    | some (g, e, c) => some (takeMessage set e.h e.payload c
        (modGroup g (fun x => { x with early := removeOne e x.early }) p))
    | none => (nextStalled set p).or (firstSome (fun c => verdictAct set c p) p.colls.running)

/-- The engine acts until nothing more can be done. -/
def pump (set : Settings) : Nat → Pkg → Pkg
  | 0, p => p
  | n + 1, p => match engineAct set p with
    | some q => pump set n q
    | none => p

/-- Let the engine run; afterwards withheld credit may return (R401), and a reshard round or a STEP_OPEN go on (R350). -/
def runEngine (set : Settings) (p : Pkg) : Pkg :=
  let n := 4 * p.colls.running.length + ((p.colls.groups.map fun g => g.early.length + 2 * g.stalled.length).sum) + 4
  atBoundary set (releaseCredit (finish set (pump set n p)))

/-- A message that passed its digest (R328); behind one of its group that waits for room it waits too (R337). -/
def routeMessage (set : Settings) (h : CollHdr) (bs : List Byte) (p : Pkg) : Pkg :=
  let stall := modGroup h.group (fun g => { g with stalled := g.stalled ++ [⟨h.rid, h, bs⟩] }) p
  if (groupOf p h.group).stalled != [] then stall else (placeMessage set h bs p).getD stall

/-- A digest fails (R327, R328). -/
def badDigest (h : CollHdr) (p : Pkg) : Pkg :=
  let p := modGroup h.group (fun g => { g with digest := satAdd 0xFF g.digest 1 }) p
  let p := log 0x0601 stDigest 0xFFFF [] (detect 3 p)
  failLive 2 stDigest (if h.group < 4 then raise (376 + h.group) p else p)

/-- Accesses for a piece met errors (R377, R378): they are counted, and an uncorrectable one ends the collective the piece
belongs to. -/
def pieceErrors (set : Settings) (h : CollHdr) (errs : List MemErr) (p : Pkg) : Pkg :=
  let p := meetErrors errs p
  match p.colls.running.find? (forColl h) with
  | some c => if errs.any (·.fatal) then endColl set c stMem none p else p
  | none => p

/-- A collective message other than a RETRACT arrives; `errs` are the errors that the engine's accesses for it met. -/
def collMessage (kind : Nat) (h : CollHdr) (bs : List Byte) (digest : Nat) (errs : List MemErr) (set : Settings) (p : Pkg) :
    Pkg :=
  if digest != collDigest h bs then finish set (badDigest h p)
  else if h.kind != kind then p
  else runEngine set (routeMessage set h bs (pieceErrors set h errs p))

def execCollDataReceive (h : CollHdr) (payload : List Byte) (digest : Nat) (s : State) (errs : List MemErr := []) :
    Host.Outcome State Fault Refusal :=
  onP (fun set p => collMessage 0 h payload digest errs set p) s

def execCollPrepassReceive (h : CollHdr) (payload : List Byte) (digest : Nat) (s : State) :
    Host.Outcome State Fault Refusal :=
  onP (fun set p => collMessage 1 h payload digest [] set p) s

def execCollVerdictReceive (h : CollHdr) (digest : Nat) (s : State) : Host.Outcome State Fault Refusal :=
  onP (fun set p => collMessage 2 h [] digest [] set p) s

/-- ABORT_COMPLETE: the abort ends, and contexts that it freed go to collectives that wait (R336). -/
def execAbortComplete (s : State) : Host.Outcome State Fault Refusal :=
  let s := boundary { s with p := abortComplete s.set s.p }
  .next { s with p := runEngine s.set s.p }

/-! ### Retraction (R216, R333 to R335) -/

/-- What a RETRACT does to the step (R334). -/
def takeRetract (h : CollHdr) (p : Pkg) : Pkg :=
  let cur := h.step == p.step.num
  let st := p.step.state
  let late (p : Pkg) : Pkg := log 0x0602 stRetracted 0xFFFF [] (modStep (fun s => { s with late := true }) p)
  if cur && (st == .opened || st == .sealing || st == .sealed) then
    let p := failStep 4 stRetracted p
    if st == .sealed then modStep (fun s => { s with abortDue := true }) p else p
  else if (cur && (st == .committing || st == .committed)) ||
      (st != .none && p.step.base ≤ h.step && h.step < p.step.num) then late p
  else p

/-- A RETRACT arrives (R328, R333, R334): it is counted, acted on and forwarded. -/
def retractMessage (h : CollHdr) (digest : Nat) (set : Settings) (p : Pkg) : Pkg :=
  if digest != collDigest h [] then finish set (badDigest h p)
  else if h.kind != 3 then p
  else
    let g := groupOf p h.group
    if !g.on || g.resync || h.gen != g.gen then
      modGroup h.group (fun g => { g with discard := satAdd 0xFFFF g.discard 1 }) p
    else
      let p := raise (376 + h.group) (modGroup h.group (fun g => { g with recv := satAdd 0xFFFF g.recv 1 }) p)
      let next := (g.pos + 1) % g.n
      let p := if next == h.srcPos then p else sendColl h.group next h [] p
      finish set (takeRetract h p)

def execRetractReceive (h : CollHdr) (digest : Nat) (s : State) : Host.Outcome State Fault Refusal :=
  onP (fun set p => retractMessage h digest set p) s

/-- A collective of the current step that has sent data: (TYPE, whether it is retracted). -/
def sentColl (p : Pkg) (g rid : Nat) : Option (Nat × Bool) :=
  ((p.colls.past.find? fun c => c.group == g && c.rid == rid && c.sentData).map fun c => (c.type, c.retracted)).or
    ((p.colls.running.find? fun c => c.group == g && c.rid == rid && c.step == some p.step.num && c.sentData).map fun c =>
      (c.type, c.retracted))

/-- RETRACT (R335). -/
def retractPacket (w : Who) (b : List Byte) (set : Settings) (p : Pkg) : Pkg :=
  let g := le b 0 1
  let rid := le b 4 4
  if !zeros b 1 3 || !zeros b 16 48 || 3 < g then answer w stBadParam 0 0 p
  else match sentColl p g rid with
    | none => answer w stBadState 0 0 p
    | some (type, gone) =>
      if le b 8 8 != p.step.num then answer w stBadState 0 0 p
      else
        let p := if gone then p else sendRetract g rid type (markRetracted g rid p)
        let p := failStep 4 stRetracted p
        let p := if p.step.state == .sealed then modStep (fun s => { s with abortDue := true }) p else p
        finish set (answer w stOk 0 0 p)

def execRetract (q : Nat) (s : State) : Host.Outcome State Fault Refusal := onPacketP q 0x0603 retractPacket s

/-! ### Collective tasks (R305 to R309, R324, R339, R355) -/

/-- The tensors of a collective at launch; a SRC0 whose version has retired stays unplaced in a regather (R339). -/
def collTensors (set : Settings) (p : Pkg) (i : Inst) (d : List Byte) : Except (Nat × Option Nat) (List Tensor × List (Nat × Nat) × Bool) :=
  let b := tBody d
  match readDescs set p i d [] with
  | .fails st x => .error (st, x)
  | .go tn _ =>
    let outs := [cDst b] ++ [cErr b, cErr2 b].filter (· != 0xFF)
    let rs := ((List.range tn.length).zip tn).map fun x => placeTensor p i d (outs.elem x.1) x.2
    if rs.any (· == .bad) then .error (stBadParam, none)
    else
      let gone := (List.range rs.length).filter fun k => rs.getD k .bad == .retired
      let regather := tType d == 0x41 && tVmode d == 2 && gone.all (· == cSrc b 0)
      if !gone.isEmpty && !regather then .error (stRetired, none)
      else .ok
        (((List.range tn.length).map fun k => match rs.getD k .bad with | .ok t _ => t | _ => tn.getD k noTensor),
         rs.filterMap (fun r => match r with | .ok _ h => h | _ => none), !gone.isEmpty)

/-- The first failing read of a contribution. -/
def collReadError (set : Settings) (p : Pkg) (b : List Byte) (tn : List Tensor) (retired : Bool) : Option Nat :=
  firstSome (fun k => tensorReadError set p (tn.getD k noTensor))
    (if retired then [] else cSources b ++ if cThin b == 0 then [] else [cErr b, cErr2 b].filter (· != 0xFF))

/-- INTERVAL off its phase (R324): v goes into the error memory, DST becomes +0.0, nothing is sent; without elements the
slot of DST has EMPTY set (R341). -/
def skipInterval (set : Settings) (c : Coll) (ws : List WOp) (p : Pkg) : Pkg :=
  let p := if c.e == 0 then tally (dstOf c).hslot { empty := true } p else p
  match collWrite set c (ws ++ valueOps c 0 (List.replicate c.e posZero) []) p with
  | (p, true) => endColl set c stOk none p
  | (p, false) => p

/-- A collective task fails at launch: its collective completes with the status (R590). -/
def failCollLaunch (set : Settings) (i : Inst) (task u st : Nat) (x : Option Nat) (p : Pkg) : Pkg :=
  let b := tBody (i.desc task)
  feed set (cGroup b) (cRid b) st (failLaunch set i task u st x p)

/-- A collective task launches on the collective engine. -/
def startColl (task : Nat) (i : Inst) (u : Nat) (set : Settings) (p : Pkg) : Pkg :=
  let d := i.desc task
  let b := tBody d
  let g := groupOf p (cGroup b)
  match collTensors set p i d with
  | .error (st, x) => failCollLaunch set i task u st x p
  | .ok (tn, holds, retired) =>
    if collTensorsBad g (tType d) b tn retired then failCollLaunch set i task u stBadParam none p
    else if !g.on || g.resync || (cThin b != 0 && !i.inStep) || p.reshard.active then
      failCollLaunch set i task u stBadState none p
    else match collReadError set p b tn retired with
      | some x => failCollLaunch set i task u stMem (some x) p
      | none =>
        let windowed := !holds.isEmpty || retired
        let c : Coll :=
          { group := cGroup b, rid := cRid b, type := tType d, iid := i.iid, task, body := b, tn, retired
            step := if i.inStep then i.step else none, version := if windowed then versionGiven p d else 0
            e := (tn.getD (cDst b) noTensor).size }
        let (c, ws) := contribute set p c
        let p := startRun set i task
          { iid := i.iid, task, unit := u, j1 := i.j1, began := p.ft.count, tensors := tn, holds, waits := true } p
        let p := { p with colls.running := p.colls.running ++ [c] }
        if cThin b == 2 && !intervalOn c then skipInterval set c ws p
        else runEngine set (collWrite set c ws p).1

def execReduceScatter (inst task : Nat) (s : State) : Host.Outcome State Fault Refusal :=
  onP (launchAs 0x40 inst task (startColl task)) s

def execAllGather (inst task : Nat) (s : State) : Host.Outcome State Fault Refusal :=
  onP (launchAs 0x41 inst task (startColl task)) s

def execAllReduce (inst task : Nat) (s : State) : Host.Outcome State Fault Refusal :=
  onP (launchAs 0x42 inst task (startColl task)) s

def execPermute (inst task : Nat) (s : State) : Host.Outcome State Fault Refusal :=
  onP (launchAs 0x43 inst task (startColl task)) s

/-- COLL_START (R309, R210, R355); its one task launches on the collective engine. -/
def collStart (w : Who) (d : List Byte) (set : Settings) (p : Pkg) : Pkg :=
  if commandBad (fun t => 0x40 ≤ t && t ≤ 0x43) d then answer w stBadParam 0 0 p
  else if stepShut p || p.reshard.active then answer w stBadState 0 0 p
  else startCommand set w 0x0602 d [.whole] p

def execCollStart (q : Nat) (s : State) : Host.Outcome State Fault Refusal := onPacketP q 0x0602 collStart s

end Sys2Proof.Machine
end

