-- ==== Sys2Proof/Machine/HostQueues.lean ====
section
/-! DEFINITION. Queues, packets and replies: the commands of R467 to R482, and NOP. -/

namespace Sys2Proof.Machine

/-- The payload length of each opcode (R483); `none` for an unassigned opcode. -/
def payloadLength (op : Nat) : Option Nat :=
  if op == 0x0100 then some 0
  else if [0x0201, 0x0301, 0x0302, 0x0310, 0x0501, 0x0602, 0x0805].contains op then some 128
  else if op == 0x0330 then some 192
  else if [0x0101, 0x0102, 0x0103, 0x0104, 0x0202, 0x0320, 0x0401, 0x0402, 0x0502, 0x0601, 0x0603, 0x0701, 0x0801,
      0x0802, 0x0803, 0x0804, 0x0901, 0x0A01, 0x0A02, 0x0A03, 0x0B01, 0x0B02, 0x0C01, 0x0C02, 0x0C03, 0x0C04, 0x0D01,
      0x0D02].contains op then some 64
  else none

/-- The fields of a header (R473). -/
def parseHeader (bs : List Byte) (num after : Nat) : Packet :=
  { num, after, opcode := le bs 0 2, flags := le bs 2 2, qtag := le bs 4 2, seq := le bs 8 4, waitId := le bs 12 2
    signalId := le bs 14 2, waitValue := le bs 16 4, signalValue := le bs 20 4, launchAt := le bs 24 8
    replyAddr := le bs 32 8, payload := bs.drop 64 }

/-- A header breaks a rule of R473 or R474, or its LENGTH is not that of its opcode (R475). -/
def headerBad (bs : List Byte) (pk : Packet) (len : Nat) : Bool :=
  !zeros bs 40 24 || 32 ≤ pk.flags ||
    (!bit pk.flags 0 && (pk.waitId != 0 || pk.waitValue != 0)) ||
    (!bit pk.flags 1 && (pk.signalId != 0 || pk.signalValue != 0)) ||
    (!bit pk.flags 2 && pk.launchAt != 0) ||
    1024 ≤ pk.waitId || 1024 ≤ pk.signalId || pk.replyAddr % 32 != 0 || payloadLength pk.opcode != some len

/-- The status with which a packet is refused when it is read, after the check of LENGTH (R475, R485). -/
def headerStatus (p : Pkg) (bs : List Byte) (pk : Packet) (len : Nat) : Option Nat :=
  if (payloadLength pk.opcode).isNone then some stBadOpcode
  else if headerBad bs pk len then some stBadParam
  else gate p pk.opcode

/-- Packets read and not yet replied to (R469). -/
def outstanding (qu : Queue) : Nat := qu.read.length + qu.due.countP fun r => r.num.isSome

/-- Units from HEAD up to the doorbell tail (R471). -/
def unitsReady (qu : Queue) : Nat := (qu.bell + 2 ^ qu.sqLog2 - qu.head) % 2 ^ qu.sqLog2

/-- The package copies a packet in and checks its header (R471, R475). The bytes are the units of the packet as the
read of host memory returned them. -/
def readPacket (q : Nat) (bs : List Byte) (p : Pkg) : Pkg :=
  let qu := queueOf p q
  let len := le bs 6 2
  if qu.state != .running || p.host.perst || 4096 ≤ outstanding qu || bs.length < 64 || unitsReady qu == 0 then p
  else if len % 64 != 0 || 4096 < len then
    let pk := parseHeader bs qu.nextNum qu.head
    modQueue q (fun qu => { qu with
      state := .stopped, reason := .format, nextNum := qu.nextNum + 1
      due := qu.due ++ [pk.reply p stBadParam 0 0] }) p
  else if unitsReady qu < 1 + len / 64 || bs.length != 64 + len then p
  else
    let head := (qu.head + 1 + len / 64) % 2 ^ qu.sqLog2
    let pk := parseHeader bs qu.nextNum head
    match headerStatus p bs pk len with
    | some st => modQueue q (fun qu => { qu with
        head := head, nextNum := qu.nextNum + 1, due := qu.due ++ [pk.reply p st 0 0] }) p
    | none => modQueue q (fun qu => { qu with
        head := head, nextNum := qu.nextNum + 1, read := qu.read ++ [pk] }) p

def execPacketRead (q : Nat) (bytes : List Byte) (s : State) : Host.Outcome State Fault Refusal :=
  onP (fun _ p => readPacket q bytes p) s

/-- A doorbell value is taken by a RUNNING or STOPPED queue when it is within the ring (R470). -/
def bellOk (p : Pkg) (q value log2 : Nat) : Bool :=
  hostOpen p && ((queueOf p q).state == .running || (queueOf p q).state == .stopped) && value < 2 ^ log2

def execHostSqBell (q value : Nat) (s : State) : Host.Outcome State Fault Refusal :=
  onP (fun _ p => if bellOk p q value (queueOf p q).sqLog2 then modQueue q (fun qu => { qu with bell := value }) p
    else p) s

def execHostCqBell (q value : Nat) (s : State) : Host.Outcome State Fault Refusal :=
  onP (fun _ p => if bellOk p q value (queueOf p q).cqLog2 then modQueue q (fun qu => { qu with cqHead := value }) p
    else p) s

/-- A queue whose setup lets it be enabled (R470). -/
def setupOk (qu : Queue) : Bool :=
  qu.sqBase % 4096 == 0 && qu.cqBase % 4096 == 0 && 6 ≤ qu.sqLog2 && qu.sqLog2 ≤ 18 && 6 ≤ qu.cqLog2 && qu.cqLog2 ≤ 13

/-- ENABLE written 1 to a DISABLED queue (R470, R485). -/
def enableQueue (qu : Queue) : Queue :=
  if setupOk qu then
    { qu with
      state := .running, reason := .none, head := 0, bell := 0, cqHead := 0, cqTail := 0, phase := true, done := 0
      read := [], due := [] }
  else { qu with reason := .config }

def execQueueEnable (q : Nat) (s : State) : Host.Outcome State Fault Refusal :=
  onP (fun _ p =>
    if hostOpen p && !p.boot.recovery && (queueOf p q).state == .disabled then modQueue q enableQueue p else p) s

/-- ENABLE written 0: DRAINING, and packets that have not started are discarded (R470). -/
def drainQueue (qu : Queue) : Queue :=
  { qu with state := .draining, read := qu.read.filter fun k => k.start.isSome }

def execQueueDisable (q : Nat) (s : State) : Host.Outcome State Fault Refusal :=
  onP (fun _ p =>
    if hostOpen p && !p.boot.recovery && (queueOf p q).state != .disabled then modQueue q drainQueue p else p) s

/-- A DRAINING queue with no started packet, its replies posted, becomes DISABLED (R470). -/
def execQueueDrained (q : Nat) (s : State) : Host.Outcome State Fault Refusal :=
  onP (fun _ p =>
    if (queueOf p q).state == .draining && (queueOf p q).read == [] && (queueOf p q).due == [] then
      modQueue q (fun qu => { qu with state := .disabled }) p
    else p) s

/-- RESUME on a STOPPED queue (R482). -/
def resumeQueue (qu : Queue) : Queue :=
  if qu.state == .stopped then { qu with state := .running, reason := .none } else qu

/-- FLUSH on a RUNNING or STOPPED queue (R482). -/
def flushQueue (qu : Queue) : Queue :=
  if qu.state == .running || qu.state == .stopped then
    { qu with read := qu.read.filter fun k => k.start.isSome, head := qu.bell }
  else qu

def execQueueResume (q : Nat) (s : State) : Host.Outcome State Fault Refusal :=
  onP (fun _ p => if hostOpen p then modQueue q resumeQueue p else p) s

/-- FLUSH, with RESUME after it when both bits are written (R482). -/
def execQueueFlush (q : Nat) (resume : Bool) (s : State) : Host.Outcome State Fault Refusal :=
  onP (fun _ p =>
    if hostOpen p then modQueue q (fun qu => if resume then resumeQueue (flushQueue qu) else flushQueue qu) p else p) s

/-- A host write of a fence; whatever waits on it starts by its own command (R480). -/
def setFence (f value : Nat) (p : Pkg) : Pkg := { p with host.fences := p.host.fences.set f value }

def execHostFenceWrite (f value : Nat) (s : State) : Host.Outcome State Fault Refusal :=
  onP (fun _ p => if !hostOpen p then p else setFence f value p) s

/-- A read of the submission ring completed with an error (R482). -/
def execSqFetchError (q : Nat) (s : State) : Host.Outcome State Fault Refusal :=
  onP (fun _ p =>
    if (queueOf p q).state == .running && unitsReady (queueOf p q) != 0 then
      modQueue q (fun qu => { qu with state := .stopped, reason := .fetch }) p
    else p) s

/-- The 32 bytes of a reply (R476). -/
def Reply.bytes (r : Reply) (phase : Bool) : List Byte :=
  leBytes 1 r.status ++ leBytes 1 (b2n phase + 2 * b2n r.num.isNone) ++ leBytes 2 r.detail ++ leBytes 4 r.seq ++
    leBytes 8 r.tStart ++ leBytes 8 r.tEnd ++ leBytes 4 r.counter ++ leBytes 2 r.qtag ++ leBytes 2 r.opcode

/-- The completion ring has room for an entry (R472). -/
def ringRoom (qu : Queue) : Bool := (qu.cqTail + 1) % 2 ^ qu.cqLog2 != qu.cqHead

/-- Move TAIL past the entry just written; PHASE inverts when it wraps (R472). -/
def advanceTail (qu : Queue) : Queue :=
  let t := (qu.cqTail + 1) % 2 ^ qu.cqLog2
  { qu with cqTail := t, phase := if t == 0 then !qu.phase else qu.phase, done := (qu.done + 1) % 2 ^ 32 }

/-- Post the reply at the front of a queue (R472, R477, R480): the copy, the ring entry, the fence, the source. -/
def postReply (q : Nat) (p : Pkg) : Pkg :=
  let qu := queueOf p q
  match qu.due with
  | [] => p
  | r :: rest =>
    if qu.state == .disabled || p.host.perst || !ringRoom qu then p
    else
      let bs := r.bytes qu.phase
      let p := if r.replyAddr == 0 then p else hostWrite r.replyAddr bs p
      let p := hostWrite (qu.cqBase + 32 * qu.cqTail) bs p
      let p := modQueue q (fun qu => advanceTail { qu with due := rest }) p
      let p := match r.signal with
        | some (f, v) => if r.status == stOk then setFence f v p else p
        | none => p
      if r.quiet then p else raise (256 + q) p

def execReplyPost (q : Nat) (s : State) : Host.Outcome State Fault Refusal := onP (fun _ p => postReply q p) s

/-- A write to host memory for the reply at the front of the queue, or for the block it stands for, failed (R477,
R482): the queue stops and the reply is lost. -/
def execHostWriteError (q : Nat) (s : State) : Host.Outcome State Fault Refusal :=
  onP (fun _ p =>
    match (queueOf p q).due with
    | [] => p
    | _ :: rest => modQueue q (fun qu => { qu with
        due := rest
        state := if qu.state == .running then .stopped else qu.state
        reason := if qu.state == .running then .write else qu.reason }) p) s

def execNop (r : Route) (s : State) : Host.Outcome State Fault Refusal :=
  onRoute r 0x0100 (fun w _ s => { s with p := answer w stOk 0 0 s.p }) s

/-- The raw count reaches the LAUNCH_AT of the packets that wait on queue `q` (R481): from then on their launch time
has come. A packet starts by its own command once its other conditions hold. -/
def launchTimes (q : Nat) (p : Pkg) : Pkg :=
  modQueue q (fun qu => { qu with
    read := qu.read.map fun k =>
      if k.start.isNone && bit k.flags 2 && reached p k.launchAt then { k with launched := true } else k }) p

def execLaunchAt (q : Nat) (s : State) : Host.Outcome State Fault Refusal := onP (fun _ p => launchTimes q p) s

/-- PERST_N (R420): the PCI Express interface, the MSI-X table, HOST_BAR2_WIN and every queue are reset, and nothing
else. Fences keep their values (R480). -/
def perstReset (h : HostIf) : HostIf :=
  { h with
    queues := h.queues.map fun qu => { nextNum := qu.nextNum }
    bar2Win := 0, bar2Log2 := 36, maxPayload := 128, maxRead := 512, d3hot := false, msixOn := false, msixMasked := false
    msixTable := List.replicate 256 0 }

def execPerstN (asserted : Bool) (s : State) : Host.Outcome State Fault Refusal :=
  onP (fun _ p =>
    if asserted then { p with host := { perstReset p.host with perst := true } } else { p with host.perst := false }) s

end Sys2Proof.Machine
end

