-- ==== Sys2Proof/Machine/Interrupts.lean ====
section
/-! DEFINITION. The commands of the interrupt controller (R458 to R466). -/

namespace Sys2Proof.Machine

/-- Host software may reach only sources 256 to 1023, words 8 to 31 (R460). -/
def hostWord (w : Nat) : Bool := 8 ≤ w && w < 32
def hostSource (s : Nat) : Bool := 256 ≤ s && s < 1024

def wordSources (w : Nat) : List Nat := (List.range 32).map fun b => 32 * w + b

/-- Sources with their pending bit set. -/
def pendingSources (p : Pkg) : List Nat := (List.range 1024).filter (wordBit p.ic.pend)

/-- Each 1 written clears the pending bit (R461). -/
def clearPend (w value : Nat) (p : Pkg) : Pkg :=
  ((wordSources w).filter fun s => bit value (s % 32) && wordBit p.ic.pend s).foldl (fun q s => icClear s q) p

def execIcPendClear (w value : Nat) (s : State) : Host.Outcome State Fault Refusal :=
  onP (fun _ p => if hostWord w && hostOpen p then clearPend w value p else p) s

/-- Write a mask word; what became eligible is delivered (R462). -/
def setMaskWord (w v : Nat) (p : Pkg) : Pkg :=
  icChange (wordSources w) (fun p => { p with ic.mask := modAt p.ic.mask w fun _ => v }) p

def maskCommand (w : Nat) (f : Nat → Nat) (s : State) : Host.Outcome State Fault Refusal :=
  onP (fun _ p => if hostWord w && hostOpen p then setMaskWord w (f (p.ic.mask.getD w 0)) p else p) s

def execIcMaskSet (w value : Nat) (s : State) : Host.Outcome State Fault Refusal := maskCommand w (· ||| value) s

def execIcMaskClr (w value : Nat) (s : State) : Host.Outcome State Fault Refusal :=
  maskCommand w (fun m => m - (m &&& value)) s

def execIcMaskWrite (w value : Nat) (s : State) : Host.Outcome State Fault Refusal := maskCommand w (fun _ => value) s

/-- Set PRIO; 0 also clears the pending bit (R461). -/
def setPrio (src v : Nat) (p : Pkg) : Pkg :=
  let p := icChange [src] (fun p => { p with ic.prio := modAt p.ic.prio src fun _ => v }) p
  if v == 0 then icClear src p else p

def execIcSrcPrioWrite (src value : Nat) (s : State) : Host.Outcome State Fault Refusal :=
  onP (fun _ p => if hostSource src && value < 16 && hostOpen p then setPrio src value p else p) s

/-- A target value host software may write: FIXED or RR_VECTORS within targets 32 to 95, with no reserved bit (R459,
R460). -/
def targetOk (v : Nat) : Bool :=
  bits v 29 16 == 0 &&
    match bits v 31 30 with
    | 0 => bits v 15 7 == 0 && 32 ≤ bits v 6 0 && bits v 6 0 < 96
    | 2 => bits v 15 14 == 0 && bits v 7 6 == 0 && bits v 5 0 + (bits v 13 8 + 1) ≤ 64
    | _ => false

/-- Set the target: the choice starts again at the lowest member (R463). -/
def setTarget (src v : Nat) (p : Pkg) : Pkg :=
  icChange [src] (fun p =>
    let p := setChosen ⟨src, none, none⟩ { p with ic.target := modAt p.ic.target src fun _ => v }
    if wordBit p.ic.pend src then icTake src p else p) p

def execIcSrcTargetWrite (src value : Nat) (s : State) : Host.Outcome State Fault Refusal :=
  onP (fun _ p => if hostSource src && targetOk value && hostOpen p then setTarget src value p else p) s

def setThresh (t v : Nat) (p : Pkg) : Pkg :=
  icChange (pendingSources p) (fun p => { p with ic.thresh := modAt p.ic.thresh t fun _ => v }) p

def execIcThreshWrite (target value : Nat) (s : State) : Host.Outcome State Fault Refusal :=
  onP (fun _ p => if 32 ≤ target && target < 96 && value < 16 && hostOpen p then setThresh target value p else p) s

/-- IC_BELL raises a software source, or counts as ignored (R460). -/
def bell (value : Nat) (p : Pkg) : Pkg :=
  if value < 512 || 1024 ≤ value then { p with ic.bellIgnored := satAdd 0xFFFF p.ic.bellIgnored 1 } else raise value p

def execIcBell (value : Nat) (s : State) : Host.Outcome State Fault Refusal :=
  onP (fun _ p => if !hostOpen p then p else bell value p) s

/-- MSI-X Enable and the function mask are written; once messages may leave, one goes to each vector that has an
eligible source (R462). -/
def msixWrite (enable masked : Bool) (p : Pkg) : Pkg :=
  let open0 := p.host.msixOn && !p.host.msixMasked
  let p := { p with host.msixOn := enable, host.msixMasked := masked }
  if enable && !masked && !open0 then
    let vs := ((pendingSources p).filter (eligible p)).filterMap fun s => icTarget p s
    ((List.range 64).filter fun v => vs.contains (32 + v)).foldl (fun q v => sendMsix v q) p
  else p

/-- The rest of configuration space (R413, R414); a size that the package does not support leaves its field as it was
(DESIGN CHOICE, log entry 88). -/
def writeCfg (c : CfgWrite) (p : Pkg) : Pkg :=
  { p with
    host.maxPayload := if [128, 256, 512].elem c.maxPayload then c.maxPayload else p.host.maxPayload
    host.maxRead := if [128, 256, 512, 1024, 2048, 4096].elem c.maxRead then c.maxRead else p.host.maxRead
    host.d3hot := c.d3hot
    host.bar2Log2 := if 30 ≤ c.bar2Log2 && c.bar2Log2 ≤ 41 then c.bar2Log2 else p.host.bar2Log2 }

/-- A write to configuration space: this row is the one by which the command list reaches it (log entry 88). -/
def execMsixEnable (enable masked : Bool) (s : State) (cfg : CfgWrite := {}) : Host.Outcome State Fault Refusal :=
  onP (fun _ p => if !hostOpen p then p else msixWrite enable masked (writeCfg cfg p)) s

/-- The end of service of a firmware target (R464): its running priority returns to the one before the delivery, and
the next source may be delivered. -/
def execInterruptEndOfService (target : Nat) (s : State) : Host.Outcome State Fault Refusal :=
  onP (fun _ p =>
    if target ≤ 16 && p.ic.running.getD target [] != [] then
      icDeliver target { p with ic.running := modAt p.ic.running target fun st => st.drop 1 }
    else p) s

end Sys2Proof.Machine
end

