-- ==== Sys2Proof/Machine/Management.lean ====
section
/-! DEFINITION. The management subsystem: alerts, the log, firmware, identity, keys and MCTP (R565 to R586). -/

namespace Sys2Proof.Machine

/-! ### Alerts (R569) -/

/-- Clear the alert bits of a mask. -/
def clearAlerts (v : Nat) (p : Pkg) : Pkg := { p with mgt.alert := p.mgt.alert - (p.mgt.alert &&& v) }

def execMgtAlertClear (value : Nat) (s : State) : Host.Outcome State Fault Refusal :=
  onP (fun _ p => if !hostOpen p then p else clearAlerts value p) s

def execMgtAlertMaskWrite (value : Nat) (s : State) : Host.Outcome State Fault Refusal :=
  onP (fun _ p => if !hostOpen p then p else { p with mgt.alertMask := value % 64 }) s

/-- The newest SEQ (R585); 0 before any entry. -/
def newestSeq (p : Pkg) : Nat := p.mgt.nextSeq - 1

def execMgtLogSeqLoRead (s : State) : Host.Outcome State Fault Refusal :=
  onP (fun _ p =>
    if !hostOpen p then p else readData (leBytes 4 (newestSeq p)) { p with mgt.seqHi := newestSeq p / 2 ^ 32 }) s

/-- An MCTP request that no packet can make: handled by `f`, or kept while the management processor restarts (R566). -/
def onMctp (via : Transport) (a : MctpAsk) (f : Transport → Pkg → Pkg) (s : State) :
    Host.Outcome State Fault Refusal :=
  onP (fun _ p => if mctpOpen p then f via p else mctpHold via a p) s

/-- SENSOR_READ (R576). -/
def sensorRead (via : Transport) (p : Pkg) : Pkg := sendMctp via (mctpBody stOk 0 0 (sensorBlock p)) p

def execSensorRead (via : Transport) (s : State) : Host.Outcome State Fault Refusal :=
  onMctp via (.code 0xF001 []) sensorRead s

/-- ALERT_READ (R576): MGT_ALERT, whose returned bits it clears. -/
def alertRead (via : Transport) (p : Pkg) : Pkg :=
  clearAlerts p.mgt.alert (sendMctp via (mctpBody stOk 0 0 (leBytes 4 p.mgt.alert)) p)

def execAlertRead (via : Transport) (s : State) : Host.Outcome State Fault Refusal :=
  onMctp via (.code 0xF002 []) alertRead s

/-- While ALERT_N is low the package answers the SMBus Alert Response Address with its own, 0x4A (R569, R575). -/
def execAlertResponseAddress (s : State) : Host.Outcome State Fault Refusal :=
  onP (fun _ p => if alertLow p then { p with out.ara := p.out.ara ++ [0x4A] } else p) s

/-! ### MCTP control messages (R575); the responses' layouts are those of DSP0236 (PRESUMED, log entry 19) -/

def setEid (eid : Nat) (via : Transport) (p : Pkg) : Pkg :=
  if eid == 0 || 255 ≤ eid then sendMctp via [2] p
  else sendMctp via [0, 0, BitVec.ofNat 8 eid, 0] { p with mgt.eid := eid }

def getEid (via : Transport) (p : Pkg) : Pkg := sendMctp via [0, BitVec.ofNat 8 p.mgt.eid, 0, 0] p

def getMctpVersion (via : Transport) (p : Pkg) : Pkg :=
  sendMctp via ([0, 1] ++ (List.range 4).map Config.mctpVersion) p

def getTypes (via : Transport) (p : Pkg) : Pkg := sendMctp via [0, 1, 0x7E] p

def execSetEndpointId (via : Transport) (eid : Nat) (s : State) : Host.Outcome State Fault Refusal :=
  onMctp via (.setEid eid) (setEid eid) s

def execGetEndpointId (via : Transport) (s : State) : Host.Outcome State Fault Refusal :=
  onMctp via .getEid getEid s

def execGetMctpVersionSupport (via : Transport) (s : State) : Host.Outcome State Fault Refusal :=
  onMctp via .getVersion getMctpVersion s

def execGetMessageTypeSupport (via : Transport) (s : State) : Host.Outcome State Fault Refusal :=
  onMctp via .getTypes getTypes s

/-! ### The log (R570 to R574) -/

/-- The 128 bytes of an entry (R571). -/
def entryBytes (e : LogEntry × List Byte) : List Byte := e.1.bytes ++ e.2

/-- The entries LOG_READ writes: from FROM, or from the oldest entry held (R574). -/
def logFrom (p : Pkg) (start count : Nat) : List (LogEntry × List Byte) :=
  (p.mgt.log.filter fun e => start ≤ e.1.seq).take count

/-- FROM is older than the oldest entry held (R574). -/
def logLost (p : Pkg) (start : Nat) : Bool :=
  match p.mgt.log.head? with
  | some e => start < e.1.seq
  | none => false

/-- DEST of a packet, or 0 over MCTP (R574, R582, R534). -/
def destBad (w : Who) (dest : Nat) : Bool :=
  match w with
  | .mctp _ => dest != 0
  | _ => dest % 64 != 0

/-- Over MCTP at most 8192 bytes are returned inline (R576). -/
def inlineMost (w : Who) (n : Nat) : Nat := match w with | .mctp _ => min n 8192 | _ => n

def logRead (w : Who) (b : List Byte) (p : Pkg) : Pkg :=
  let start := le b 0 8
  let count := le b 8 4
  if b.length < 64 || count == 0 || 8192 < count || !zeros b 12 4 || !zeros b 24 40 || destBad w (le b 16 8) then
    answer w stBadParam 0 0 p
  else
    let es := logFrom p start (inlineMost w (count * 128) / 128)
    let data := es.flatMap entryBytes
    match w with
    | .mctp via => sendMctp via (mctpBody stOk (b2n (logLost p start)) es.length data) p
    | _ => answer w stOk (b2n (logLost p start)) es.length (hostWrite (le b 16 8) data p)

def execLogRead (r : Route) (s : State) : Host.Outcome State Fault Refusal :=
  onRoute r 0x0C04 (fun w b s => { s with p := logRead w b s.p }) s

/-- The management subsystem restarts (R566). -/
def execMgtWatchdogRestart (s : State) : Host.Outcome State Fault Refusal :=
  onP (fun _ p => if p.boot.off then p else { p with mgt.restarting := true }) s

/-- The restart completes: the image is verified again, and the held log entries are written (R566). -/
def mgtRestarted (p : Pkg) : Pkg :=
  if !p.mgt.restarting then p
  else
    let held := p.mgt.held
    let p := held.foldl (fun q e => logPut e q) { p with mgt.restarting := false, mgt.held := [] }
    if p.mgt.image.valid then p else failPackage p

/-! ### Firmware (R577 to R580) -/

def Image.version (i : Image) : Nat := le i.body 0 4
def Image.svn (i : Image) : Nat := le i.body 4 1
def Image.stepping (i : Image) : Byte := i.body.getD 5 0

/-- The parts of an interval that a list of intervals leaves uncovered. -/
def uncovered : List (Nat × Nat) → Nat × Nat → List (Nat × Nat)
  | [], iv => [iv]
  | (a, b) :: ivs, (x, y) =>
    let left := if x < min a y then uncovered ivs (x, min a y) else []
    let right := if max b x < y then uncovered ivs (max b x, y) else []
    if b ≤ a then uncovered ivs (x, y) else left ++ right

/-- Bytes covered by some piece, counted once each (R578). -/
def stagedBytes : List (Nat × List Byte) → Nat
  | [] => 0
  | (o, bs) :: ps =>
    stagedBytes ps +
      ((uncovered (ps.map fun p => (p.1, p.1 + p.2.length)) (o, o + bs.length)).map fun iv => iv.2 - iv.1).sum

/-- A byte of the staging buffer: the piece staged last decides. -/
def stagedByte : List (Nat × List Byte) → Nat → Byte
  | [], _ => 0
  | (o, bs) :: ps, i => if o ≤ i && i < o + bs.length then bs.getD (i - o) 0 else stagedByte ps i

def stagedImage (st : Staging) : List Byte := (List.range (st.size.getD 0)).map (stagedByte st.pieces)

/-- FW_STAGE (R578). -/
def fwStage (w : Who) (b : List Byte) (set : Settings) (p : Pkg) : Pkg :=
  let op := le b 0 1
  let off := le b 4 4
  let len := le b 8 4
  let src := le b 16 8
  let inline := b.drop 64
  let mctp := match w with | .mctp _ => true | _ => false
  if p.mgt.stage.writing.isSome then answer w stBadState 0 0 p
  else if b.length < 64 || !zeros b 1 3 || !zeros b 12 4 || !zeros b 24 40 || 3 ≤ op || (mctp && src != 0) then
    answer w stBadParam 0 0 p
  else if op == 0 then
    if len < 4691 || 24 * 2 ^ 20 < len then answer w stBadParam 0 0 p
    else answer w stOk 0 0 { p with mgt.stage := { size := some len } }
  else if op == 2 then answer w stOk 0 0 { p with mgt.stage := {} }
  else
    match p.mgt.stage.size with
    | none => answer w stBadState 0 0 p
    | some size =>
      if size < off + len || (mctp && (inline.length != len || 8192 < len)) ||
          (!mctp && (2 ^ 48 ≤ src || !inStack src len)) then answer w stBadParam 0 0 p
      else
        match if mctp then none else readError set p src len with
        | some x => answer w stMem 0 0 (memError set x p)
        | none =>
          let bytes := if mctp then inline else readMem set p src len
          let p := { p with mgt.stage.pieces := (off, bytes) :: p.mgt.stage.pieces }
          answer w stOk 0 (stagedBytes p.mgt.stage.pieces) p

def execFwStage (r : Route) (s : State) : Host.Outcome State Fault Refusal :=
  onRoute r 0x0C01 (fun w b s => { s with p := fwStage w b s.set s.p }) s

/-- Bytes of a key without a body in Config. -/
def keyBytes (f : Nat → Byte) : List Byte := (List.range 2592).map f

/-- The image that a staged buffer holds when its signature verifies (R577). -/
def verifyImage (bs : List Byte) : Option Image :=
  let n := le bs 8 4
  if n % 64 == 0 && 64 ≤ n && n + 4627 == bs.length &&
      Config.mlDsaVerify (keyBytes Config.firmwareKey) (sha3_512 (bs.take n)) (bs.drop n) then
    some { body := bs.take n, valid := true }
  else none

/-- Run an image in recovery wait: start-up continues at phase 3 (R579). -/
def runImage (i : Image) (p : Pkg) : Pkg :=
  { p with mgt.image := i, boot.recovery := false, boot.phase := 3 }

/-- FW_INSTALL, in the order of R578. -/
def fwInstall (w : Who) (b : List Byte) (set : Settings) (p : Pkg) : Pkg :=
  let st := p.mgt.stage
  if b.length < 64 || !zeros b 1 63 || 2 ≤ le b 0 1 then answer w stBadParam 0 0 p
  else if st.size.isNone || st.writing.isSome || stagedBytes st.pieces != st.size.getD 0 then answer w stBadState 0 0 p
  else
    match verifyImage (stagedImage st) with
    | none => answer w stAuth 0 0 (log 0x0C02 stAuth 0xFFFF [] p)
    | some i =>
      if i.stepping != set.stepping then answer w stBadParam 0 0 p
      else if i.svn < p.flash.fusedSvn then answer w stRollback 0 0 p
      else if le b 0 1 == 1 then
        if p.boot.recovery then answer w stOk 0 0 (runImage i p) else answer w stBadState 0 0 p
      else { p with mgt.stage.writing := some w, flash.image := none }

def execFwInstall (r : Route) (s : State) : Host.Outcome State Fault Refusal :=
  onRoute r 0x0C02 (fun w b s => { s with p := fwInstall w b s.set s.p }) s

/-- The write to flash ends (R578); in recovery wait the image then runs (R579). -/
def flashWritten (p : Pkg) : Pkg :=
  match p.mgt.stage.writing, verifyImage (stagedImage p.mgt.stage) with
  | some w, some i =>
    let p := { p with mgt.stage.writing := none, flash.image := some i }
    let p := log 0x0C01 0 0xFFFF [] p
    answer w stOk 0 0 (if p.boot.recovery then runImage i p else p)
  | _, _ => p

def execFwFlashWriteDone (s : State) : Host.Outcome State Fault Refusal := onP (fun _ p => flashWritten p) s

/-! ### Identity (R581, R582) -/

/-- The key slots' digest (R582). -/
def keysDigest (f : Flash) : List Byte := sha3_512 (f.keys.flatMap fun k => k.getD (List.replicate 2592 0))

/-- The PACKS entry of slot `n` (R582): slot 0 holds the resident pack of the image. -/
def packEntry (p : Pkg) (n : Nat) : List Byte :=
  if n == 0 then leBytes 5 (le (Config.residentPack p.mgt.image.body) 0 5) ++ [1, 0, 0]
  else match p.integ.packs.find? fun k => k.slot == n with
    | some k => k.bytes.take 4 ++ leBytes 1 k.key ++ [1, 0, 0]
    | none => List.replicate 8 0

def dieRev (p : Pkg) (d : Nat) : Nat := match (p.dies.getD d {}).cap with | some c => c.revision | none => 0

/-- Bytes 0 to 383 of a REPORT (R582). -/
def reportHead (set : Settings) (nonce : List Byte) (p : Pkg) : List Byte :=
  leBytes 2 1 ++ [set.stepping, 0] ++ leBytes 4 p.mgt.image.version ++ leBytes 8 set.serial ++
    leBytes 1 p.mgt.image.svn ++ leBytes 1 p.flash.fusedSvn ++ leBytes 2 set.baseRev ++
    ((List.range 4).flatMap fun d => leBytes 2 (dieRev p d)) ++ leBytes 4 (pkgStatus p) ++ nonce ++
    sha3_512 p.mgt.image.body ++ keysDigest p.flash ++ ((List.range 8).flatMap (packEntry p)) ++
    leBytes 8 (newestSeq p) ++ leBytes 8 (now p) ++ p.mgt.lastChain ++ List.replicate 48 0

/-- A REPORT with its signature (R582). -/
def report (set : Settings) (nonce : List Byte) (p : Pkg) : List Byte :=
  let h := reportHead set nonce p
  h ++ (List.range 4627).map (Config.identitySign (sha3_512 h))

/-- The identity certificate (R582). -/
def certificate (set : Settings) : List Byte :=
  leBytes 8 set.serial ++ [set.stepping] ++ List.replicate 7 0 ++ keyBytes Config.identityKey ++
    (List.range 4627).map Config.certSignature

def attest (w : Who) (b : List Byte) (set : Settings) (p : Pkg) : Pkg :=
  if b.length < 64 || 2 ≤ le b 0 1 || !zeros b 1 7 || !zeros b 48 16 || destBad w (le b 40 8) then
    answer w stBadParam 0 0 p
  else if le b 0 1 == 0 then answerBlock w (le b 40 8) 5011 (report set ((b.drop 8).take 32) p) p
  else answerBlock w (le b 40 8) 7235 (certificate set) p

def execAttest (r : Route) (s : State) : Host.Outcome State Fault Refusal :=
  onRoute r 0x0C03 (fun w b s => { s with p := attest w b s.set s.p }) s

/-! ### Operator keys (R583, R584) -/

/-- The operator key of a slot 1 to 15. -/
def keySlot (f : Flash) (n : Nat) : Option (List Byte) := (f.keys.getD (n - 1) none)

/-- A key an entry may name: Mangema's, or an enrolled operator key (R509). -/
def namedKey (f : Flash) (n : Nat) : Option (List Byte) :=
  if n == 0 then some (keyBytes Config.mangemaKey) else if n ≤ 15 then keySlot f n else none

/-- The status KEY_ENROL is answered with, in the order of R584. -/
def keyEnrolStatus (f : Flash) (b : List Byte) : Nat :=
  let op := le b 0 1
  let slot := le b 1 1
  let auth := le b 2 1
  let key := (b.drop 8).take 2592
  let first := op == 0 && slot == 1 && (keySlot f 1).isNone
  if 2 ≤ op || slot == 0 || 16 ≤ slot || (auth != 0 && auth != 1 && auth != 0xFF) || !zeros b 3 1 ||
      b.length != (if auth == 0xFF then 2600 else 7227) || (op == 1 && key.any (· != 0)) then stBadParam
  else if (auth == 0xFF) != first || (auth == 1 && op == 1 && slot == 1) then stBadState
  else if le b 4 4 != f.enrol + 1 || (auth == 1 && (keySlot f 1).isNone) then stBadState
  else if auth != 0xFF &&
      !Config.mlDsaVerify ((namedKey f auth).getD []) (sha3_512 (b.take 2600)) (b.drop 2600) then stAuth
  else if (op == 0) == (keySlot f slot).isSome then stBadState
  else stOk

/-- Enrol or revoke (R584). -/
def keyChange (via : Transport) (b : List Byte) (p : Pkg) : Pkg :=
  let st := keyEnrolStatus p.flash b
  let w := Who.mctp via
  let slot := le b 1 1
  if st == stAuth then answer w st 0 0 (log 0x0C02 stAuth 0xFFFF [] p)
  else if st != stOk then answer w st 0 0 p
  else
    let key := if le b 0 1 == 0 then some ((b.drop 8).take 2592) else none
    let p := { p with
      flash := { p.flash with keys := p.flash.keys.set (slot - 1) key, enrol := p.flash.enrol + 1 }
      integ.packs := if le b 0 1 == 0 then p.integ.packs else p.integ.packs.filter fun k => k.key != slot }
    answer w stOk 0 0 (log 0x0C03 0 0xFFFF [] p)

/-- KEY_ENROL is accepted on the sideband alone (R584); over PCI Express its CODE is not one of those routes (R576). -/
def keyEnrol (body : List Byte) (via : Transport) (p : Pkg) : Pkg :=
  if via == .pcie then answer (.mctp via) stBadOpcode 0 0 p
  else if !zeros body 0 2 then answer (.mctp via) stBadParam 0 0 p
  else keyChange via (body.drop 2) p

def execKeyEnrol (via : Transport) (body : List Byte) (s : State) : Host.Outcome State Fault Refusal :=
  onMctp via (.code 0xF003 body) (keyEnrol body) s

end Sys2Proof.Machine
end

