-- ==== Sys2Proof/Machine/ReshardCmds.lean ====
section
/-! DEFINITION. The commands of a reshard (R347 to R354): RESHARD, a piece, an acknowledgement. -/

namespace Sys2Proof.Machine

/-! ### RESHARD (R350, R354) -/

/-- CANCEL: the running round and the rounds that wait are answered BAD_STATE, and ACTIVE returns to 0 (R354). -/
def cancelReshard (w : Who) (set : Settings) (p : Pkg) : Pkg :=
  let waiting := p.reshard.held
  let p := stopRound stBadState p
  let p := modReshard (fun r => { epoch := r.epoch }) p
  let p := waiting.foldl (fun q x => answer x.who stBadState 0 0 q) p
  atBoundary set (answer w stOk 0 0 p)

/-- A ROUND is checked (R350): its moves, and its table unless a reshard is ACTIVE, whose copy decides. -/
def roundCommand (w : Who) (b : List Byte) (set : Settings) (p : Pkg) : Pkg :=
  let own := !p.reshard.active
  match (readError set p (rMoveAt b) (64 * rMoves b)).or
      (if own then readError set p (rTable b) (64 * rCount b) else none) with
  | some x => answer w stMem 0 0 (memError set x p)
  | none =>
    let moves := chunksOf 64 (rMoves b) (readMem set p (rMoveAt b) (64 * rMoves b))
    let table := if own then chunksOf 64 (rCount b) (readMem set p (rTable b) (64 * rCount b)) else []
    match roundBad set p (tableOf p table) moves with
    | some i => answer w stBadParam i 0 p
    | none =>
      if roundDiffers p b then answer w stBadParam 0xFFFF 0 p
      else if p.links.addr == 0xFFFFFFFF && moves.any (movesOut p) then answer w stBadState 0 0 p
      else atBoundary set (modReshard (fun r => { r with held := r.held ++ [⟨w, b, moves, table⟩] }) p)

def reshardCommand (w : Who) (b : List Byte) (set : Settings) (p : Pkg) : Pkg :=
  if reshardFieldsBad p b then answer w stBadParam 0xFFFF 0 p
  else if rOp b == 1 then (if p.reshard.active then cancelReshard w set p else answer w stBadState 0 0 p)
  else roundCommand w b set p

def execReshard (q : Nat) (s : State) : Host.Outcome State Fault Refusal := onPacketP q 0x0701 reshardCommand s

/-! ### Pieces (R351, R352) -/

/-- Bytes of INCOMING still to come. -/
def incomingLeft (p : Pkg) : Nat := match p.reshard.round with | some r => r.incoming - r.received | none => 0

/-- Where a piece is written; none where its layer, range, length or WFMT does not fit (R351). -/
def piecePlace (set : Settings) (p : Pkg) (h : ReshardHdr) : Option Nat :=
  if h.array == 0 then (if freeOfJ1 p h.offset h.length then some h.offset else none)
  else if 5 < h.array || p.reshard.table.length ≤ h.dstLayer then none
  else
    let e := p.reshard.table.getD h.dstLayer []
    let pl := arrayPlace set.lean p e h.array h.offset
    let most := if h.array == 3 then lCount e / 32 else lCount e
    let wrong := ((h.array == 2 || h.array == 3) && h.format != lFormat e) || (h.array == 3 && !lBlocks e) ||
      (h.array == 5 && !uAdam (cfgOf p))
    if wrong || h.length % max 1 pl.2 != 0 || most < h.offset + h.length / max 1 pl.2 then none else some pl.1

/-- A piece is discarded and written to the event log (R351). -/
def discardPiece (status : Nat) (p : Pkg) : Pkg := log 0x0701 status 0xFFFF [] p

/-- The ACK of a piece (R352). -/
def ackPiece (h : ReshardHdr) (p : Pkg) : Pkg :=
  sendReshard h.srcPkg { h with kind := 1, length := 0, srcPkg := p.links.addr } [] p

def takePiece (set : Settings) (h : ReshardHdr) (payload : List Byte) (p : Pkg) : Pkg :=
  if !p.reshard.active || h.newEpoch != rEpoch p.reshard.payload then p
  else if incomingLeft p < h.length || payload.length != h.length then discardPiece 0 p
  else match piecePlace set p h with
    | none => discardPiece 0 p
    | some a =>
      match writeError set p a h.length with
      | some x => atBoundary set (failRound stMem (memError set x p))
      | none =>
        let p := writeMem set a payload p
        let p := modReshard (fun r => { r with
          round := r.round.map fun o => { o with received := o.received + h.length } }) p
        atBoundary set (checkRound set (ackPiece h p))

def reshardPiece (h : ReshardHdr) (payload : List Byte) (digest : Nat) (set : Settings) (p : Pkg) : Pkg :=
  if digest != crc64 (reshardHead h ++ payload) then discardPiece stDigest (detect 3 p)
  else if h.kind != 0 then p
  else takePiece set h payload p

def execReshardPieceReceive (h : ReshardHdr) (payload : List Byte) (digest : Nat) (s : State) :
    Host.Outcome State Fault Refusal := onP (reshardPiece h payload digest) s

/-- An ACK that passes its digest ends the wait for its piece (R351). -/
def takeAck (h : ReshardHdr) (digest : Nat) (set : Settings) (p : Pkg) : Pkg :=
  if digest != crc64 (reshardHead h) then discardPiece stDigest (detect 3 p)
  else if h.kind != 1 || !p.reshard.active || h.newEpoch != rEpoch p.reshard.payload then p
  else
    let p := modReshard (fun r => { r with
      round := r.round.map fun o => { o with
        outstanding := o.outstanding.filter fun x => x != (h.array, h.dstLayer, h.offset, h.srcPkg) } }) p
    atBoundary set (checkRound set p)

def execReshardAckReceive (h : ReshardHdr) (digest : Nat) (s : State) : Host.Outcome State Fault Refusal :=
  onP (takeAck h digest) s

end Sys2Proof.Machine
end

