-- ==== Sys2Proof/Machine/Regs.lean ====
section
/-! DEFINITION. The registers of BAR0 as they read (R415 and the register rules of every chapter), and the packets that
report them: IDENTIFY and GET_STATUS (R490 to R493). -/

namespace Sys2Proof.Machine

/-! ### Registers by chapter -/

/-- PKG_STEP_STATE (R203). -/
def stepStateReg (s : Step) : Nat :=
  s.failMask % 65536 * 65536 + b2n s.lsFloor * 2048 + b2n s.late * 1024 + b2n s.torn * 512 + b2n s.spike * 256 +
    stepCode s.state

/-- PKG_LOSS_SCALE (R218). -/
def lossScaleReg (u : Upd) : Nat := u.good % 65536 * 65536 + unsigned 8 u.exp

/-- PKG_STAGE_STAT(n) (R300). -/
def stageStat (p : Pkg) (n : Nat) : Nat :=
  let s := stageAt p n
  b2n s.on * 2 ^ 31 + b2n s.resync * 2 ^ 30 + (s.msgs.countP (·.grad)) * 2 ^ 20 + (s.msgs.countP fun m => !m.grad) * 2 ^ 13 +
    p.pipe.fixtures.countP fun f => le f.entry 20 1 == n

def stageReg (p : Pkg) (n k : Nat) : Nat :=
  let s := stageAt p n
  match k with
  | 0 => min (s.slip / 65536) 0xFFFFFFFF
  | 1 => s.cursor
  | 2 => stageStat p n
  | _ => s.slips * 65536 + s.discard

def fixtureFree (p : Pkg) : Nat := p.pipe.stray * 65536 + (4096 - p.pipe.fixtures.length)

/-- PKG_COLL_CTX(g) (R343). -/
def collCtx (p : Pkg) (g : Nat) : Nat :=
  min 0xFFFF (p.colls.running.countP fun c => c.group == g && c.ctx.isNone) * 65536 + (heldCtx p g).foldl setBit 0

/-- PKG_COLL_GROUP to PKG_COLL_RETRACT of group g (R343). -/
def collReg (p : Pkg) (g k : Nat) : Nat :=
  let c := groupOf p g
  match k with
  | 0 => b2n c.on * 2 ^ 31 + b2n c.resync * 2 ^ 30 + b2n c.dual * 2 ^ 29 + c.pos * 4096 + (c.n - 1)
  | 1 => collCtx p g
  | 2 => c.digest * 2 ^ 24 + c.agree * 65536 + c.discard
  | _ => c.recv * 65536 + c.sent

/-- PKG_EPOCH (R346). -/
def epochReg (p : Pkg) : Nat :=
  b2n p.reshard.active * 2 ^ 31 + b2n (!p.reshard.held.isEmpty) * 2 ^ 30 + p.reshard.epoch

def memMapReg (set : Settings) : Nat := set.granule * 4 + set.spread

/-- PKG_J1_PART (R385). -/
def j1PartReg (m : Mem) : Nat := m.j1Size / 2 ^ 30 * 65536 + m.j1Base / 2 ^ 30

def ueHiReg (m : Mem) : Nat := m.ueKind * 2 ^ 30 + m.ueUnit * 65536 + m.ueLoc / 2 ^ 32 % 65536

def linkCfgReg (set : Settings) (p : Pkg) : Nat :=
  b2n (p.links.addr != 0xFFFFFFFF) * 2 ^ 31 + b2n p.links.tableMode * 2 ^ 30 + set.nextPlan * 2 ^ 24

def portCode : PortState → Nat | .down => 0 | .training => 1 | .up => 2 | .retrain => 3

/-- PKG_PORT_STAT to PKG_PORT_FEC of port i (R412). -/
def portReg (p : Pkg) (i k : Nat) : Nat :=
  let q := portOf p i
  match k with
  | 0 => portCode q.state * 2 ^ 28 + q.reason * 2 ^ 24 + q.nbrPort * 2 ^ 20 + q.nbrPlan * 2 ^ 18 + q.level * 256 +
      b2n q.laneRev * 128
  | 1 => q.replay * 65536 + q.retrains * 256 + q.fecUncorr
  | 2 => q.nbr
  | _ => q.fecCorr

def dieCode : DieState → Nat | .notReleased => 0 | .up => 1 | .fenced => 2 | .renegotiating => 3

def dieMaker (d : Die) : Nat := match d.cap with | some c => c.maker | none => 0
def dieRevision (d : Die) : Nat := match d.cap with | some c => c.revision | none => 0
def dieFeatures (d : Die) : Nat := match d.cap with | some c => c.features | none => 0

/-- PKG_WDI_STAT to PKG_WDI_ERR of die d (R433). -/
def dieReg (p : Pkg) (d k : Nat) : Nat :=
  let x := p.dies.getD d {}
  match k with
  | 0 => dieCode x.state * 2 ^ 28 + x.reason * 2 ^ 24 + x.level * 65536 + x.failedGroup
  | 1 => dieRevision x * 65536 + dieMaker x
  | 2 => dieFeatures x
  | _ => x.replay * 65536 + x.crc

/-- PKG_WDI_BASE (R433): the base die supports level 1 alone (R428). -/
def wdiBaseReg (set : Settings) : Nat := set.baseRev * 65536 + 0x0101

/-- FEATURES of the base die: none is defined for stepping B (R428). -/
def baseFeatures : Nat := 0

/-- The package feature set: the AND over the base die and every released die (R428). -/
def featEnabled (p : Pkg) : Nat :=
  (p.dies.filter fun d => d.state != .notReleased).foldl (fun f d => f &&& dieFeatures d) baseFeatures

/-- Features of the base die and of every die that delivered a capability word (R491). -/
def featPresent (p : Pkg) : Nat := p.dies.foldl (fun f d => f ||| dieFeatures d) baseFeatures

/-- The rung in progress: none while its crash record is being collected (R521). -/
def rungNow (p : Pkg) : Option Episode := match p.integ.episode with
  | some e => if e.collecting then none else some e
  | none => none

/-- PKG_LADDER (R538). -/
def ladderReg (p : Pkg) : Nat :=
  min 0xFF p.integ.episodes * 65536 + match rungNow p with
    | some e => e.rung * 2 ^ 28 + e.units.head?.getD 0
    | none => 0

def packsReg (p : Pkg) : Nat := p.integ.packs.foldl (fun v k => setBit v k.slot) 1

/-- PKG_CORE_FAULT(w) (R538). -/
def coreFaultReg (p : Pkg) (w : Nat) : Nat :=
  ((List.range 8).map fun i => p.integ.faults.getD (8 * w + i) 0 * 16 ^ i).sum

/-- The integrity registers from 0x800 on (R537, R538). -/
def integReg (p : Pkg) (k : Nat) : Nat :=
  let g := p.integ
  match k with
  | 0 => g.watchMs
  | 1 => g.decayH * 256 + g.fenceAt
  | 2 => ladderReg p
  | 3 => (((List.range 4).map fun i => g.rungs.getD i 0 * 256 ^ i)).sum
  | 4 => g.crash.state * 2 ^ 30 + g.crash.lost
  | 5 => g.byHost * 65536 + g.fenced
  | 6 => g.probeFails * 65536 + g.rounds
  | 7 => packsReg p
  | _ => 0

/-- The power registers from 0xF000 on (R557, R558). -/
def powerReg (p : Pkg) (k : Nat) : Nat :=
  let w := p.pwr
  match k with
  | 0 => pwrStat w
  | 1 => w.vin
  | 2 => pwrIin w
  | 3 => pwrPin p
  | 4 => w.limit
  | 5 => pwrEvents w
  | 6 => pwrTempMax p
  | _ => 0

def stageCode (s : Staging) : Nat := if s.writing.isSome then 2 else if s.size.isSome then 1 else 0

/-- MGT_KEYS (R586). -/
def keysReg (f : Flash) : Nat := (((List.range 15).filter fun i => (f.keys.getD i none).isSome).foldl fun v i => setBit v (i + 1)) 0

/-- The management registers from 0xE000 on (R585, R586). -/
def mgtReg (p : Pkg) (k : Nat) : Nat :=
  let m := p.mgt
  match k with
  | 0 => m.image.version
  | 1 => p.flash.fusedSvn * 256 + m.image.svn
  | 2 => stageCode m.stage * 2 ^ 30 + stagedBytes m.stage.pieces
  | 3 => m.dropped * 65536 + m.overwritten
  | 4 => newestSeq p % 2 ^ 32
  | 5 => m.seqHi
  | 6 => m.alert
  | 7 => m.alertMask
  | 8 => keysReg p.flash
  | 9 => p.flash.bootCount
  | _ => 0

/-- The registers of fabric time and the calendar (R435, R455): FT_NOW_HI, FT_NOW_FRAC and CAL_TIME_HI as latched. -/
def timeReg (p : Pkg) (off : Nat) : Nat :=
  match off with
  | 0x700 => now p % 2 ^ 32
  | 0x704 => p.ft.nowHi
  | 0x708 => p.ft.nowFrac
  | 0x70C => ftStat p
  | 0x710 => ftEvents p
  | 0x720 => p.cal.secs % 2 ^ 32
  | 0x724 => p.cal.hiLatch.getD (calHi p.cal)
  | _ => 0

def qCode : QState → Nat | .disabled => 0 | .running => 1 | .stopped => 2 | .draining => 3
def reasonCode : QReason → Nat | .none => 0 | .halt => 1 | .format => 2 | .fetch => 3 | .write => 4 | .config => 5

/-- The registers of a queue (R468, R469). -/
def queueReg (qu : Queue) (k : Nat) : Nat :=
  match k with
  | 0 => qu.sqBase % 2 ^ 32
  | 1 => qu.sqBase / 2 ^ 32
  | 2 => qu.cqBase % 2 ^ 32
  | 3 => qu.cqBase / 2 ^ 32
  | 4 => qu.cqLog2 * 65536 + qu.sqLog2
  | 5 => b2n (qu.state == .running || qu.state == .stopped)
  | 7 => qCode qu.state * 2 ^ 28 + reasonCode qu.reason * 2 ^ 24 + outstanding qu
  | 8 => qu.head
  | 9 => b2n qu.phase * 2 ^ 31 + qu.cqTail
  | 10 => qu.done
  | _ => 0

/-- The interrupt controller's registers (R458, R459), by offset from 0x8000. -/
def icReg (p : Pkg) (o : Nat) : Nat :=
  if o < 0x1000 then p.ic.prio.getD (o / 4) 0
  else if o < 0x2000 then p.ic.target.getD ((o - 0x1000) / 4) 0
  else if o < 0x2080 then p.ic.pend.getD ((o - 0x2000) / 4) 0
  else if o < 0x2100 then p.ic.mask.getD ((o - 0x2080) / 4) 0
  else if o < 0x2200 then 0
  else if o < 0x2380 then p.ic.thresh.getD ((o - 0x2200) / 4) 0
  else if o == 0x2400 then p.ic.merged * 65536 + p.ic.bellIgnored
  else 0

/-- Messages that wait for MSI-X: the pending-bit array (R462). -/
def pendingVectors (p : Pkg) : Nat :=
  if p.host.msixOn && !p.host.msixMasked then 0
  else ((pendingSources p).filter (eligible p)).foldl (fun v s => match icTarget p s with
    | some t => if 32 ≤ t then setBit v (t - 32) else v
    | none => v) 0

/-- The 32 bits at offset `off` of BAR0, a multiple of 4 (R415); reserved offsets read 0. -/
def readReg (set : Settings) (p : Pkg) (off : Nat) : Nat :=
  if off == 0 then pkgStatus p
  else if off == 0x20 then pkgMode set
  else if off == 0x40 then p.tasks.tauDef
  else if off == 0x44 then p.tasks.ledgerMiss
  else if off == 0x48 then p.tasks.shadowMiss
  else if off == 0x60 then p.step.num % 2 ^ 32
  else if off == 0x64 then p.step.num / 2 ^ 32
  else if off == 0x68 then stepStateReg p.step
  else if off == 0x6C then lossScaleReg p.upd
  else if off == 0x80 then p.rings.version
  else if off == 0x84 then p.rings.forced
  else if off == 0x88 then p.hollow.drops
  else if off == 0x8C then p.hollow.exhausted
  else if off == 0x90 then epochReg p
  else if 0x100 ≤ off && off < 0x180 then stageReg p ((off - 0x100) / 16) (off % 16 / 4)
  else if off == 0x180 then fixtureFree p
  else if 0x200 ≤ off && off < 0x240 then collReg p ((off - 0x200) / 16) (off % 16 / 4)
  else if off == 0x300 then memMapReg set
  else if off == 0x304 then p.mem.failed * 65536 + p.mem.trained
  else if off == 0x308 then j1PartReg p.mem
  else if off == 0x30C then p.mem.sramCe * 65536 + p.mem.sramUe
  else if off == 0x310 then p.mem.ueLoc % 2 ^ 32
  else if off == 0x314 then ueHiReg p.mem
  else if 0x340 ≤ off && off < 0x380 then
    p.mem.stackCe.getD ((off - 0x340) / 4) 0 * 65536 + p.mem.stackUe.getD ((off - 0x340) / 4) 0
  else if off == 0x400 then linkCfgReg set p
  else if off == 0x404 then p.links.addr
  else if off == 0x408 then p.links.drop
  else if 0x440 ≤ off && off < 0x500 then
    (if (off - 0x440) / 16 < portCount set.lanes then portReg p ((off - 0x440) / 16) (off % 16 / 4) else 0)
  else if 0x500 ≤ off && off < 0x540 then dieReg p ((off - 0x500) / 16) (off % 16 / 4)
  else if off == 0x540 then wdiBaseReg set
  else if off == 0x544 then featEnabled p
  else if off == 0x600 then p.host.bar2Win % 2 ^ 32
  else if off == 0x604 then p.host.bar2Win / 2 ^ 32
  else if off == 0x608 then p.host.bar2Drop
  else if 0x700 ≤ off && off < 0x728 then timeReg p off
  else if 0x800 ≤ off && off < 0x820 then integReg p ((off - 0x800) / 4)
  else if 0x840 ≤ off && off < 0x86C then p.integ.detect.getD ((off - 0x840) / 4) 0
  else if 0xC00 ≤ off && off < 0xD00 then coreFaultReg p ((off - 0xC00) / 4)
  else if 0x8000 ≤ off && off < 0xC000 then icReg p (off - 0x8000)
  else if 0xC000 ≤ off && off < 0xD000 then queueReg (queueOf p ((off - 0xC000) / 64)) (off % 64 / 4)
  else if 0xD000 ≤ off && off < 0xE000 then p.host.fences.getD ((off - 0xD000) / 4) 0
  else if 0xE000 ≤ off && off < 0xE028 then mgtReg p ((off - 0xE000) / 4)
  else if 0xF000 ≤ off && off < 0xF01C then powerReg p ((off - 0xF000) / 4)
  else if 0xF100 ≤ off && off < 0xF200 then pwrTemp p ((off - 0xF100) / 4)
  else if 0x200000 ≤ off && off < 0x200400 then p.host.msixTable.getD ((off - 0x200000) / 4) 0
  else if off == 0x201000 then pendingVectors p % 2 ^ 32
  else if off == 0x201004 then pendingVectors p / 2 ^ 32
  else 0

/-- How a host read of BAR0 completes (R498): 4 or 8 aligned bytes, or Completer Abort. -/
def readBar0 (set : Settings) (p : Pkg) (off size : Nat) : ReadDone :=
  if off % size != 0 then .abort
  else if size == 4 then .data (leBytes 4 (readReg set p off))
  else if size == 8 then .data (leBytes 4 (readReg set p off) ++ leBytes 4 (readReg set p (off + 4)))
  else .abort

/-! ### IDENTIFY (R490, R491) -/

/-- A payload of R490 for IDENTIFY, or a GET_STATUS that names no collective. -/
def plainPayloadBad (w : Who) (b : List Byte) : Bool := b.length < 64 || !zeros b 0 8 || !zeros b 16 48 || destBad w (le b 8 8)

def dieEntry (p : Pkg) (d : Nat) : List Byte :=
  let x := p.dies.getD d {}
  leBytes 2 (dieMaker x) ++ leBytes 2 (dieRevision x) ++ leBytes 1 (dieCode x.state) ++ leBytes 1 x.reason ++
    leBytes 1 (p.integ.fenced / 16 ^ d % 16) ++ [0]

/-- The WDI level of the package (R491). -/
def wdiLevel (p : Pkg) : Nat := p.dies.foldl (fun l d => max l d.level) 0

def identityBlock (set : Settings) (p : Pkg) : List Byte :=
  ascii 16 "XSM4-1280" ++ [set.stepping, 0] ++ leBytes 2 set.dateCode ++
    leBytes 4 (pkgStatus p / 2 ^ 28 + 16 * b2n p.cal.invalid) ++ leBytes 8 set.serial ++ leBytes 2 set.baseRev ++
    leBytes 1 (wdiLevel p) ++ leBytes 1 set.lanes ++ leBytes 4 p.mgt.image.version ++
    (List.range 4).flatMap (dieEntry p) ++ leBytes 4 (featPresent p) ++ leBytes 4 (featEnabled p) ++
    leBytes 2 p.mem.trained ++ leBytes 2 p.mem.failed ++ leBytes 2 ((upPorts p).foldl setBit 0) ++ List.replicate 42 0

def identify (w : Who) (b : List Byte) (set : Settings) (p : Pkg) : Pkg :=
  if plainPayloadBad w b then answer w stBadParam 0 0 p else answerBlock w (le b 8 8) 0 (identityBlock set p) p

def execIdentify (r : Route) (s : State) : Host.Outcome State Fault Refusal :=
  onRoute r 0x0101 (fun w b s => { s with p := identify w b s.set s.p }) s

/-! ### GET_STATUS (R492, R493) -/

/-- Bit n for each queue that `f` holds of. -/
def queueBits (p : Pkg) (f : Queue → Bool) : Nat := ((List.range 64).filter fun q => f (queueOf p q)).foldl setBit 0

def statusBlock (set : Settings) (p : Pkg) : List Byte :=
  leBytes 8 (now p) ++ leBytes 4 (pkgStatus p) ++ leBytes 4 (pkgMode set) ++ leBytes 8 p.step.num ++
    leBytes 4 (stepStateReg p.step) ++ leBytes 4 (lossScaleReg p.upd) ++ leBytes 4 (epochReg p) ++
    leBytes 4 p.rings.version ++ leBytes 4 (ftStat p) ++ leBytes 4 (fixtureFree p) ++
    ((List.range 4).flatMap fun g => leBytes 4 (collCtx p g)) ++ leBytes 8 (queueBits p fun q => q.state != .disabled) ++
    leBytes 8 (queueBits p fun q => q.state == .stopped) ++
    leBytes 4 (p.tasks.insts.countP fun i => i.graph.isSome) ++ leBytes 2 p.tasks.graphs.length ++
    leBytes 2 p.integ.fenced ++ List.replicate 40 0

/-- The block of one collective (R493). -/
def collBlock (p : Pkg) (g rid : Nat) : List Byte :=
  let c := p.colls.running.find? fun c => c.group == g && c.rid == rid
  let ctx := c.bind (·.ctx)
  let state := match c with | none => 0 | some c => if c.ctx.isSome then 2 else 1
  let ahead := p.colls.running.countP fun d => d.group == g && d.ctx.isNone && d.rid < rid
  leBytes 1 state ++ leBytes 1 (if state == 1 then stPending else stOk) ++ leBytes 1 (ctx.getD 0xFF) ++ leBytes 1 g ++
    leBytes 4 rid ++ leBytes 8 ((c.bind (·.step)).getD 0) ++ leBytes 2 ahead ++
    leBytes 1 (match c with | some c => b2n c.step.isNone | none => 0) ++ List.replicate 45 0

def getStatus (w : Who) (b : List Byte) (set : Settings) (p : Pkg) : Pkg :=
  if le b 0 1 == 1 then
    if b.length < 64 || 3 < le b 1 1 || !zeros b 2 2 || !zeros b 16 48 || destBad w (le b 8 8) then answer w stBadParam 0 0 p
    else answerBlock w (le b 8 8) 0 (collBlock p (le b 1 1) (le b 4 4)) p
  else if plainPayloadBad w b then answer w stBadParam 0 0 p
  else answerBlock w (le b 8 8) 0 (statusBlock set p) p

def execGetStatus (r : Route) (s : State) : Host.Outcome State Fault Refusal :=
  onRoute r 0x0103 (fun w b s => { s with p := getStatus w b s.set s.p }) s

end Sys2Proof.Machine
end

