-- ==== Sys2Proof/Machine/Ladder.lean ====
section
/-! DEFINITION. The recovery ladder (R519 to R536): episodes and rungs, the crash record, RESET_UNIT, DUMP_READ, the
watchdogs, and a die's return (R431). -/

namespace Sys2Proof.Machine

def modInteg (f : Integ → Integ) (p : Pkg) : Pkg := { p with integ := f p.integ }
def modCrash (f : Crash → Crash) (p : Pkg) : Pkg := modInteg (fun g => { g with crash := f g.crash }) p
def setEpisode (e : Option Episode) (p : Pkg) : Pkg := modInteg (fun g => { g with episode := e }) p

/-! ### Scope (R521, R531) -/

def isEngine (u : Nat) : Bool := 0x0300 ≤ u && u < 0x0306

/-- The die of a unit; a base-die engine lies on none. -/
def dieOfUnit (u : Nat) : Option Nat :=
  if 0x0400 ≤ u && u < 0x0404 then some (u - 0x0400) else (groveOfUnit u).map (· / 4)

/-- Unit `u` lies in the scope of unit code `v`. -/
def covers (v u : Nat) : Bool :=
  v == u || match groveOfUnit u with
    | some g => v == 0x0200 + g || v == 0x0400 + g / 4
    | none => false

def allDies : List Nat := [0x0400, 0x0401, 0x0402, 0x0403]
def allEngines : List Nat := [0x0300, 0x0301, 0x0302, 0x0303, 0x0304, 0x0305]

/-- The units that a rung for unit `u` resets (R521). -/
def rungUnits (rung u : Nat) : List Nat :=
  match rung with
  | 1 => [u]
  | 2 => [0x0200 + (groveOfUnit u).getD 0]
  | 3 => [0x0400 + (dieOfUnit u).getD 0]
  | _ => allDies ++ allEngines

/-- The rung after one that failed (R522). -/
def nextRung (rung u : Nat) : Nat := if rung == 1 && isEngine u then 4 else rung + 1

def inScope (e : Episode) (u : Nat) : Bool := e.units.any fun v => covers v u

/-! ### The crash record (R528 to R534) -/

/-- Items of the package section (R532), as (kind, unit, index). -/
def packageItems (p : Pkg) : List (Nat × Nat × Nat) :=
  (((List.range 64).filter fun q => (queueOf p q).state != .disabled).map fun q => (0x01, 0xFFFF, q)) ++ [(0x02, 0xFFFF, 0)] ++
    ((p.tasks.insts.filter fun i => i.graph.isSome).map fun i => (0x03, 0xFFFF, i.num)) ++
    (p.tasks.insts.flatMap fun i => match i.graph with
      | some g => (List.range i.toks.length).map fun k => (0x04, 0xFFFF, g * 4096 + k)
      | none => []) ++
    (((List.range 8).filter fun n => (stageAt p n).on).flatMap fun n => [(0x05, 0xFFFF, 2 * n), (0x05, 0xFFFF, 2 * n + 1)]) ++
    ((List.range 4).flatMap fun g => (heldCtx p g).map fun c => (0x06, 0xFFFF, g * 4 + c)) ++
    (((List.range 8).filter fun n => (stageAt p n).on).map fun n => (0x07, 0xFFFF, n)) ++
    (List.range 6).map fun e => (0x08, 0x0300 + e, e)

/-- Items of one core, of one context or of both. -/
def coreItems (c : Nat) (ctx : Option Nat) : List (Nat × Nat × Nat) :=
  let cs := match ctx with | some k => [k] | none => [0, 1]
  cs.map (fun k => (0x10, c, 2 * c + k)) ++ cs.map (fun k => (0x12, c, 2 * c + k)) ++ [(0x13, c, c)]

def groveItems (g : Nat) : List (Nat × Nat × Nat) :=
  (0x11, 0x0200 + g, 0) :: (List.range 32).flatMap fun i => coreItems (32 * g + i) none

/-- The items of a unit's scope. -/
def unitItems (u : Nat) (ctx : Option Nat) : List (Nat × Nat × Nat) :=
  if u < 512 then coreItems u ctx
  else if u < 0x0210 then groveItems (u - 0x0200)
  else match dieOfUnit u with
    | some d => (List.range 4).flatMap fun k => groveItems (4 * d + k)
    | none => []

/-- What the running rung still has to collect (R528): the package section and the rung's scope. Which items a scope holds
is a DESIGN CHOICE (log entry 45). -/
def itemsDue (p : Pkg) (e : Episode) : List (Nat × Nat × Nat) :=
  (packageItems p ++ e.units.flatMap fun u => unitItems u e.ctx).filter fun x =>
    !p.integ.crash.items.any fun i => i.kind == x.1 && i.unit == x.2.1 && i.index == x.2.2

/-- The section of an item: 0 the package's, g + 1 that of grove g. -/
def sectionOf (kind unit : Nat) : Nat := if kind < 0x10 then 0 else (groveOfUnit unit).getD 0 + 1

def sectionRoom (sect : Nat) : Nat := if sect == 0 then 508 * 1024 else 480 * 1024

def itemSize (i : CrashItem) : Nat := 32 + i.data.length

/-- Bytes used in a section (R529, R530). -/
def sectionUsed (items : List CrashItem) (sect : Nat) : Nat :=
  (items.filter fun i => i.sect == sect).foldl (fun n i => alignUp n 64 + itemSize i) 0

/-- Collect one item; one that does not fit is counted (R529). -/
def addItem (i : CrashItem) (p : Pkg) : Pkg :=
  modCrash (fun c =>
    if sectionRoom i.sect < alignUp (sectionUsed c.items i.sect) 64 + itemSize i then { c with skipped := c.skipped + 1 }
    else { c with items := c.items ++ [i] }) p

def collectItem (status : Nat) (data : List Byte) (x : Nat × Nat × Nat) (p : Pkg) : Pkg :=
  addItem { sect := sectionOf x.1 x.2.1, kind := x.1, unit := x.2.1, status, index := x.2.2, tRead := now p, data } p

/-- Bytes of an item in its section (R532). -/
def CrashItem.bytes (i : CrashItem) : List Byte :=
  leBytes 2 i.kind ++ leBytes 2 i.unit ++ leBytes 1 i.status ++ [0, 0, 0] ++ leBytes 4 i.data.length ++ leBytes 4 i.index ++
    leBytes 8 i.tRead ++ List.replicate 8 0 ++ i.data

def RungEntry.bytes (r : RungEntry) : List Byte :=
  leBytes 1 r.rung ++ leBytes 1 r.result ++ leBytes 2 r.unit ++ [0, 0, 0, 0] ++ leBytes 8 r.tBegin ++ leBytes 8 r.tEnd ++
    List.replicate 8 0

/-- The 4 KiB header (R530). -/
def crashHeader (c : Crash) : List Byte :=
  padTo 4096 (leBytes 4 c.state ++ leBytes 4 c.episode ++ leBytes 8 c.tDetect ++ leBytes 8 c.tEnd ++ leBytes 1 c.cause ++
    leBytes 1 c.firstRung ++ leBytes 1 c.lastRung ++ leBytes 1 c.outcome ++ leBytes 2 c.unit ++ leBytes 2 c.lost ++
    leBytes 8 c.step ++ leBytes 4 c.stepState ++ leBytes 4 c.items.length ++
    leBytes 4 (c.items.countP fun i => i.status == 1) ++ leBytes 4 c.skipped ++
    ((List.range 16).flatMap fun g => leBytes 4 (sectionUsed c.items (g + 1))) ++ leBytes 4 (sectionUsed c.items 0) ++
    [0, 0, 0, 0] ++ padTo 128 (c.rungs.flatMap RungEntry.bytes))

/-- The byte at an offset of a section's items; none where no item lies. -/
def sectionByte : List CrashItem → Nat → Nat → Option Byte
  | [], _, _ => none
  | i :: is, at_, o =>
    let a := alignUp at_ 64
    if a ≤ o && o < a + itemSize i then i.bytes[o - a]? else sectionByte is (a + itemSize i) o

/-- Byte `o` of the 8 MiB region (R529). What no rule fills is undefined (R534), and so is all but STATE while no record is
kept. -/
def crashAt (c : Crash) (header : List Byte) (o : Nat) : Byte :=
  let undef := Config.crashByte c.released o
  if c.state == 0 then (if o < 4 then 0 else undef)
  else if o < 4096 then header.getD o 0
  else
    let s := if o < 512 * 1024 then 0 else (o - 512 * 1024) / (480 * 1024) + 1
    let base := if s == 0 then 4096 else 512 * 1024 + (s - 1) * (480 * 1024)
    (sectionByte (c.items.filter fun i => i.sect == s) 0 (o - base)).getD undef

def crashBytes (c : Crash) (o n : Nat) : List Byte :=
  let h := crashHeader c
  (List.range n).map fun k => crashAt c h (o + k)

/-- A crash-record item does not answer (R528). -/
def itemTimeout (kind index : Nat) (p : Pkg) : Pkg :=
  match p.integ.episode with
  | some e =>
    if e.collecting && e.recorded then
      match (itemsDue p e).find? fun x => x.1 == kind && x.2.2 == index with
      | some x => collectItem 1 [] x p
      | none => p
    else p
  | none => p

def execCrashItemTimeout (kind index : Nat) (s : State) : Host.Outcome State Fault Refusal :=
  onP (fun _ p => itemTimeout kind index p) s

/-- Every item that is still due is read (R528); its data has no layout of the manual's. -/
def collectRest (e : Episode) (p : Pkg) : Pkg :=
  if e.recorded then
    let n := p.free
    (itemsDue p e).foldl (fun q x => collectItem 0 (Config.crashData n x.1 x.2.2) x q) { p with free := n + 1 }
  else p

/-! ### What a rung takes away (R521, R525) -/

/-- HUNG for work on a hung unit, STEP_ABORTED for other work (R521, R525). -/
def rungStatus (e : Episode) (u : Nat) : Nat := if e.hung.any fun h => covers h u then stHung else stAborted

/-- A task that the running rung ends. -/
def rungEnds (e : Episode) (r : Run) : Bool :=
  inScope e r.unit && !(e.rung == 1 && r.unit < 512 && match e.ctx with | some k => r.j1 != (k == 1) | none => false)

/-- What stood in the local stores of the scope is gone: rung 1 takes the share of one context, and what a PREFETCH copied
stands in that of J0 (R107). A core on which no task is left is no longer parked. -/
def clearStores (e : Episode) (p : Pkg) : Pkg :=
  { p with
    tasks.fetched := p.tasks.fetched.filter fun f => !inScope e f.core || e.ctx == some 1
    tasks.cores := ((List.range p.tasks.cores.length).zip p.tasks.cores).map fun x =>
      if inScope e x.1 && p.tasks.runs.all (·.unit != x.1) then { x.2 with parked := false } else x.2 }

/-- A core or control core of a grove that runs the update (R227): every grove that is not fenced. -/
def runsUpdate (p : Pkg) (u : Nat) : Bool :=
  p.step.state == .committing && !p.step.aborting && match groveOfUnit u with
    | some g => !bit p.integ.fenced g && (p.dies.getD (g / 4) {}).state == .up
    | none => u == 0x0304

/-- The rung takes away work of the update (R233, R521): that of the engine or, at rungs 1 and 2, of a core in J0. The
dies of rungs 3 and 4 are fenced. -/
def endsUpdate (e : Episode) (p : Pkg) : Bool :=
  inScope e 0x0304 || (e.rung < 3 && e.ctx != some 1 && e.units.any (runsUpdate p))

/-- Work of the collective and update engines that is no task: a reshard round, a commit (R233, R521). -/
def endEngines (e : Episode) (p : Pkg) : Pkg :=
  let p := if inScope e 0x0302 then stopRound (rungStatus e 0x0302) p else p
  if endsUpdate e p then tearCommit (if e.hung.any (runsUpdate p) then stHung else stAborted) p else p

/-- Rung 4 ends every live instance, and the contents of the hollow cache and the collective staging are lost (R521);
frames in the stacks stay. -/
def endAll (set : Settings) (e : Episode) (p : Pkg) : Pkg :=
  if e.rung == 4 then
    let mine := p.tasks.insts.map (·.iid)
    let p := mine.foldl (fun q iid => failTask set iid 0 stAborted 0xFFFF q) p
    loseCache { p with colls.groups := p.colls.groups.map fun c => { c with early := [], stalled := [] } }
  else p

/-- The dies that the running rung holds fenced for the length of its reset (R523). -/
def setResets (f : List Nat → List Nat) (p : Pkg) : Pkg :=
  { p with integ.episode := p.integ.episode.map fun e => { e with resets := f e.resets } }

/-- Dies whose compute is reset are fenced for the length of it (R525). -/
def fenceDies (set : Settings) (e : Episode) (p : Pkg) : Pkg :=
  if e.rung < 3 then p
  else
    let ds := (List.range 4).filter fun d => e.units.elem (0x0400 + d) && (p.dies.getD d {}).state == .up
    ds.foldl (fun q d => fenceDie set d 0 q) (setResets (ds ++ ·) p)

/-- A rung's reset begins (R521): it is counted, entered in the record, and the work of its scope ends. -/
def beginReset (set : Settings) (e : Episode) (p : Pkg) : Pkg :=
  let e := { e with collecting := false, begun := now p }
  let p := setEpisode (some e) p
  let p := modInteg (fun g => { g with rungs := modAt g.rungs (e.rung - 1) fun n => satAdd 0xFF n 1 }) p
  let p := if e.recorded then
      modCrash (fun c => { c with
        lastRung := e.rung
        rungs := if c.rungs.length < 4 then c.rungs ++ [⟨e.rung, 0, e.units.head?.getD 0, now p, 0⟩] else c.rungs }) p
    else p
  let p := endServices (fun t => t < 16 && inScope e (0x0200 + t)) (raise 384 p)
  let p := failRuns set (rungEnds e) (fun r => rungStatus e r.unit) p
  let p := endAll set e (endEngines e (clearStores e p))
  pruneColls (fenceDies set e p)

/-- Collection ends and the rung begins (R528). -/
def rungBegins (set : Settings) (p : Pkg) : Pkg :=
  match p.integ.episode with
  | some e => if e.collecting then runEngine set (finish set (beginReset set e (collectRest e p))) else p
  | none => p

def execCrashRecordCollected (s : State) : Host.Outcome State Fault Refusal := onP rungBegins s

/-! ### Episodes (R522 to R527) -/

/-- A detection or a request: the rung it calls for, its unit and context, whether the unit is hung, CAUSE, whether R527
gives the die rung 3 alone, and the request (R535). -/
structure Call where
  rung : Nat
  unit : Nat
  ctx : Option Nat := none
  hung : Bool := false
  cause : Nat
  only3 : Bool := false
  asked : List (Who × Nat × Nat) := []
  release : List Nat := []

/-- An episode begins, with a crash record unless one is kept (R528, R533). -/
def beginEpisode (c : Call) (p : Pkg) : Pkg :=
  let fresh := p.integ.crash.state == 0
  let p := modInteg (fun g => { g with episodes := g.episodes + 1 }) p
  let p := setEpisode (some
    { rung := c.rung, units := rungUnits c.rung c.unit, ctx := if c.rung == 1 then c.ctx else none
      hung := if c.hung then [c.unit] else [], collecting := true, recorded := fresh, cause := c.cause
      firstUnit := c.unit, begun := now p, only3 := c.only3, asked := c.asked, release := c.release }) p
  let p := if fresh then
      modCrash (fun k => {
        state := 1, episode := p.integ.episodes, tDetect := now p, cause := c.cause, firstRung := c.rung
        lastRung := c.rung, unit := c.unit, step := p.step.num, stepState := stepStateReg p.step, released := k.released }) p
    else modCrash (fun k => { k with lost := satAdd 0xFFFF k.lost 1 }) p
  raise 384 p

/-- The entry of a rung that ends without completing, in the record. -/
def closeRung (result : Nat) (p : Pkg) : Pkg :=
  match p.integ.episode with
  | some e =>
    if e.recorded && !e.collecting then
      modCrash (fun c => { c with rungs := c.rungs.map fun r =>
        if r.tBegin == e.begun && r.rung == e.rung then { r with result, tEnd := now p } else r }) p
    else p
  | none => p

/-- The ladder moves to another rung: its wider scope is collected first (R528). -/
def moveRung (rung u : Nat) (ctx : Option Nat) (only3 : Bool) (p : Pkg) : Pkg :=
  match p.integ.episode with
  | some e => raise 384 (setEpisode (some { e with
      rung, units := rungUnits rung u, ctx := if rung == 1 then ctx else none, collecting := true, only3 }) p)
  | none => p

/-- A call while an episode runs (R524, R536): it joins the running rung, moves the ladder up, or is due later. -/
def joinEpisode (c : Call) (e : Episode) (p : Pkg) : Pkg :=
  let e := { e with
    hung := if c.hung then e.hung ++ [c.unit] else e.hung, asked := e.asked ++ c.asked, release := e.release ++ c.release }
  if c.rung ≤ e.rung && inScope e c.unit then setEpisode (some e) p
  else if c.rung ≤ e.rung then setEpisode (some { e with due := e.due ++ [(c.rung, c.unit, c.ctx, c.only3)] }) p
  else
    let old := e.units.filter fun u => !(rungUnits c.rung c.unit).any fun v => covers v u
    let e' := { e with due := e.due ++ old.map fun u => (e.rung, u, e.ctx, e.only3) }
    moveRung c.rung c.unit c.ctx c.only3 (setEpisode (some e') (closeRung 0 p))

def callLadder (c : Call) (p : Pkg) : Pkg :=
  match p.integ.episode with
  | none => beginEpisode c p
  | some e => joinEpisode c e p

/-- The answer to a request when the episode ends (R535). For an engine, whose rung fails into rung 4, a die that the episode
left fenced is its outcome. -/
def rungAnswer (p : Pkg) (left : Bool) (level u : Nat) : Nat :=
  if p.boot.failed then stFailed
  else
    let grove := if level == 1 then groveOfUnit u else if level == 2 || level == 7 then some u else none
    let dies := if level == 4 || (level == 1 && isEngine u && left) then [0, 1, 2, 3] else if level == 3 then [u] else match grove with | some g => [g / 4] | none => []
    if dies.any fun d => (p.dies.getD d {}).state == .fenced then stDieFenced
    else match grove with
      | some g => if bit p.integ.fenced g then stGroveFenced else stOk
      | none => stOk

/-- The episode ends (R530, R535): the record is complete, the log tells of it, and who asked is answered. -/
def endEpisode (p : Pkg) : Pkg :=
  match p.integ.episode with
  | none => p
  | some e =>
    let outcome := if p.boot.failed then 2 else if e.fenced then 1 else 0
    let p := setEpisode none p
    let p := if e.recorded then modCrash (fun c => { c with
        state := 2, tEnd := now p, outcome, lastRung := if outcome == 2 then 5 else c.lastRung }) p
      else p
    let p := raise 384 (log 0x0D02 stOk e.firstUnit [] (refresh p))
    e.asked.foldl (fun q x => answer x.1 (rungAnswer q e.fenced x.2.1 x.2.2) 0 0 q) p

/-- The next rung that is due, the highest first (R524); with none the episode ends. -/
def nextDue (p : Pkg) : Pkg :=
  match p.integ.episode with
  | none => p
  | some e =>
    match e.due.foldl (fun b d => match b with
        | none => some d
        | some c => if c.1 < d.1 then some d else some c) (none : Option (Nat × Nat × Option Nat × Bool)) with
    | none => endEpisode p
    | some d => moveRung d.1 d.2.1 d.2.2.1 d.2.2.2 (setEpisode (some { e with due := e.due.filter fun x => x != d }) p)

/-- A unit is left fenced, and the package is DEGRADED (R523). -/
def leaveFenced (p : Pkg) : Pkg :=
  match p.integ.episode with
  | some e => refresh (setEpisode (some { e with fenced := true, resets := [] }) p)
  | none => p

/-- A rung fails (R522, R527): the ladder goes up, unless the rung was a die's only one, an UNFENCE_GROVE, or rung 4.
`engines` says that rung 4 left the base-die engines without return. -/
def rungFails (result : Nat) (engines : Bool) (p : Pkg) : Pkg :=
  match p.integ.episode with
  | none => p
  | some e =>
    let p := closeRung result p
    let u := e.units.head?.getD 0
    if e.rung == 4 then (if engines then nextDue (failPackage p) else nextDue (leaveFenced p))
    else if (e.rung == 3 && e.only3) || (e.rung == 2 && !e.release.isEmpty) then nextDue (leaveFenced p)
    else moveRung (nextRung e.rung u) u none false p

/-- Fault counts of a grove's cores return to 0 (R535). -/
def clearFaults (g : Nat) (p : Pkg) : Pkg :=
  modInteg (fun i => { i with faults := ((List.range i.faults.length).zip i.faults).map fun x =>
    if x.1 / 32 == g then 0 else x.2 }) p

/-- UNFENCE_GROVE releases its grove once rung 2 has succeeded (R535). -/
def releaseGrove (g : Nat) (p : Pkg) : Pkg :=
  refresh (clearFaults g (modInteg (fun i => { i with fenced := clearBit i.fenced g, byHost := clearBit i.byHost g }) p))

/-- A die that was fenced by a trip or by the supply is back (R550, R558). -/
def dieBack (d : Nat) (p : Pkg) : Pkg :=
  { p with
    pwr.returnedAt := if bit p.pwr.tripFence d then p.pwr.returnedAt.set d (some (upNs p)) else p.pwr.returnedAt
    pwr.tripFence := clearBit p.pwr.tripFence d
    pwr.hostOnly := clearBit p.pwr.hostOnly d }

/-- A rung completes (R522): its units are back, and what they are is kept for 60 s. -/
def rungDone (p : Pkg) : Pkg :=
  match p.integ.episode with
  | none => p
  | some e =>
    let p := closeRung 0 p
    let p := modInteg (fun g => { g with recovered := e.units.map (fun u => (u, e.rung, upNs p)) ++ g.recovered }) p
    let free := e.release.filter fun g => inScope e (0x0200 + g)
    let p := free.foldl (fun q g => releaseGrove g q) p
    nextDue (setEpisode (p.integ.episode.map fun x => { x with release := x.release.filter fun g => !free.elem g }) p)

/-- Dies of the rung that have not returned. -/
def diesOut (p : Pkg) (e : Episode) : Bool :=
  3 ≤ e.rung && (List.range 4).any fun d => e.units.elem (0x0400 + d) && (p.dies.getD d {}).state == .fenced

/-- A rung's reset completes and the resident pack's probe passes or fails (R522). -/
def rungComplete (probePass : Bool) (set : Settings) (p : Pkg) : Pkg :=
  match rungNow p with
  | none => p
  | some e =>
    if probePass && !diesOut p e then finish set (rungDone p)
    else finish set (rungFails 2 (e.rung == 4 && !diesOut p e) p)

def execRungComplete (probePass : Bool) (s : State) : Host.Outcome State Fault Refusal := onP (rungComplete probePass) s

/-- A rung's reset does not complete within its bound (R522): of rung 4 the base-die engines have not returned. -/
def rungTimeout (set : Settings) (p : Pkg) : Pkg :=
  match rungNow p with
  | none => p
  | some _ => finish set (rungFails 1 true p)

def execRungTimeout (s : State) : Host.Outcome State Fault Refusal := onP rungTimeout s

/-! ### Watchdogs (R518, R519) -/

/-- The command interpreter has a packet of a queue to read or to start, or a reply to post (R518). -/
def interpreterDue (p : Pkg) (q : Nat) : Bool :=
  let qu := queueOf p q
  (startable p q).isSome || (qu.state == .running && 0 < unitsReady qu && outstanding qu < 4096) ||
    (!qu.due.isEmpty && ringRoom qu)

/-- The unit holds work and no wait of R518 stops its watchdog. -/
def holdsWork (p : Pkg) (u ctx : Nat) : Bool :=
  if u < 512 then
    !coreParked p u && ((ctx == 0 && runsUpdate p u) ||
      p.tasks.runs.any fun r => r.unit == u && r.j1 == (ctx == 1) && !r.paused)
  else if u < 0x0210 then (p.dies.getD ((u - 0x0200) / 4) {}).state == .up
  else if u == 0x0304 then p.step.state == .committing
  else if u == 0x0305 then (List.range 64).any (interpreterDue p)
  else if u == 0x0302 then p.colls.running.any (·.ctx.isSome) || p.reshard.round.isSome
  else isEngine u && p.tasks.runs.any fun r => r.unit == u && !r.waits

/-- The hung unit's work belongs to the open step. -/
def stepWork (p : Pkg) (u ctx : Nat) : Bool :=
  if u == 0x0302 then p.colls.running.any fun c => c.ctx.isSome && c.step == some p.step.num && stepLive p
  else p.tasks.runs.any fun r => r.unit == u && (512 ≤ u || r.j1 == (ctx == 1)) && match instOf p r.iid with
    | some i => i.inStep
    | none => false

/-- The rung a hang calls for (R522): one above a rung of the last 60 s whose scope holds the unit. -/
def hangRung (p : Pkg) (u : Nat) : Nat :=
  (p.integ.recovered.filter fun r => covers r.1 u && upNs p ≤ r.2.2 + 60000000000).foldl
    (fun n r => max n (nextRung r.2.1 u)) (if 0x0200 ≤ u && u < 0x0210 then 2 else 1)

/-- A unit hangs again within 60 s after a rung: in the record, while it is held, that rung's entry has failed (R522,
R530). -/
def noteAgain (u : Nat) (p : Pkg) : Pkg :=
  let again := fun r : RungEntry =>
    r.result == 0 && r.tEnd != 0 && (rungUnits r.rung r.unit).any (covers · u) &&
      p.integ.recovered.any fun x => covers x.1 u && x.2.1 == r.rung && decide (upNs p ≤ x.2.2 + 60000000000)
  modCrash (fun c => { c with rungs := c.rungs.map fun r => if again r then { r with result := 3 } else r }) p

/-- A unit is declared hung (R519); one that hangs again after rung 4 has no rung left (R522). -/
def declareHung (u ctx : Nat) (set : Settings) (p : Pkg) : Pkg :=
  if !holdsWork p u ctx || p.boot.failed then p
  else
    let p := detect 5 p
    let p := if stepWork p u ctx then failLive 0 stHung p else p
    let p := if runsUpdate p u && (512 ≤ u || ctx == 0) then tearCommit stHung p else p
    let rung := hangRung p u
    let p := noteAgain u p
    let p := if rung ≤ 4 then callLadder { rung, unit := u, ctx := if u < 512 then some ctx else none, hung := true, cause := 5 } p
      else match dieOfUnit u with
        | some d => fenceDie set d 0 p
        | none => failPackage p
    finish set p

def execWatchdogExpiry (unit ctx : Nat) (s : State) : Host.Outcome State Fault Refusal := onP (declareHung unit ctx) s

/-! ### A die's return (R431, R527) -/

/-- R528's checks of a die that answers again, in order: the reason it is not released, if any (R428, R431). -/
def returnReason (old : Option CapWord) (r : DieReport) : Option Nat :=
  match r.cap with
  | none => some 5
  | some c =>
    if some c != old then some 4
    else if c.levelMax < 1 || 1 < c.levelMin then some 1
    else if r.failedGroup.isSome then some 2
    else none

/-- What is pending for the control cores of a die that is back is delivered (R464). -/
def redeliver (d : Nat) (p : Pkg) : Pkg := (List.range 4).foldl (fun q i => icDeliver (4 * d + i) q) p

/-- The clock of a fenced die returns after its reset (R431): the exchange and the checks of R427 and R428 are repeated,
with STATE at RENEGOTIATING while they run (R433). -/
def clockReturns (d : Nat) (r : DieReport) (set : Settings) (p : Pkg) : Pkg :=
  match rungNow p with
  | none => p
  | some e =>
    if !e.units.elem (0x0400 + d) || (p.dies.getD d {}).state != .fenced then p
    else
      let old := p.dies.getD d {}
      let p := sendCap set d (setDie d .renegotiating old.reason p)
      match returnReason old.cap r with
      | some reason =>
        setDie d .fenced reason (if reason == 2 then modDie d (fun x => { x with failedGroup := r.failedGroup.getD 0xFF }) p else p)
      | none =>
        let p := dieBack d (sendRoles d (modDie d (fun x => { x with failedGroup := 0xFF }) (setDie d .up 0 p)))
        finish set (redeliver d (refresh (setResets (·.filter (· != d)) (log 0x0D03 stOk (0x0400 + d) [] p))))

def execDieClockReturn (die : Nat) (report : DieReport) (s : State) : Host.Outcome State Fault Refusal :=
  onP (clockReturns die report) s

/-- Fence a die and give it rung 3 at once (R527). -/
def loseDie (d reason cause : Nat) (set : Settings) (p : Pkg) : Pkg :=
  if (p.dies.getD d {}).state != .up then p
  else
    let p := detect cause (fenceDie set d reason p)
    finish set (callLadder { rung := 3, unit := 0x0400 + d, cause, only3 := true } p)

/-- A die's forwarded clock stops (R430). A die that its rung resets is fenced already. -/
def execDieClockLoss (die : Nat) (s : State) : Host.Outcome State Fault Refusal := onP (loseDie die 3 6) s

/-! ### RESET_UNIT (R535, R536) -/

/-- UNIT is in range for LEVEL. -/
def unitOk (level u : Nat) : Bool :=
  match level with
  | 1 => u < 512 || isEngine u
  | 3 => u < 4
  | 4 => u == 0
  | 5 => u == 0
  | _ => u < 16

/-- The unit code a level names. -/
def levelUnit (level u : Nat) : Nat :=
  match level with
  | 1 => u
  | 3 => 0x0400 + u
  | 4 => 0x0400
  | _ => 0x0200 + u

/-- RESET_UNIT (R535, R536): over MCTP only the level PACKAGE is accepted (R576). -/
def resetUnit (w : Who) (b : List Byte) (set : Settings) (p : Pkg) : Pkg :=
  let level := le b 0 1
  let u := le b 2 2
  let mctp := match w with | .mctp _ => true | _ => false
  if b.length < 64 || level == 0 || 8 < level || !zeros b 1 1 || !zeros b 4 60 || !unitOk level u || (mctp && level != 5) then
    answer w stBadParam 0 0 p
  else if level == 7 && (!bit p.integ.fenced u || (p.dies.getD (u / 4) {}).state == .fenced) then answer w stBadState 0 0 p
  else if p.boot.failed && level != 5 then answer w stFailed 0 0 p
  else if level == 5 then answer w stOk 0 0 { p with boot.resetDue := true }
  else if level == 6 then answer w stOk 0 0 (finish set (fenceGrove set u true p))
  else if level == 8 then answer w stOk 0 0 (clearFaults u p)
  else
    let rung := if level == 7 then 2 else level
    finish set (callLadder { rung, unit := levelUnit level u, cause := 0xFE, asked := [(w, level, u)]
                             release := if level == 7 then [u] else [] } p)

def execResetUnit (r : Route) (s : State) : Host.Outcome State Fault Refusal :=
  onRoute r 0x0D01 (fun w b s => { s with p := resetUnit w b s.set s.p }) s

/-! ### DUMP_READ (R534) -/

/-- The record is released (R534): STATE becomes EMPTY and the rest is undefined. -/
def releaseCrash (p : Pkg) : Pkg :=
  raise 384 (modCrash (fun c => { lost := c.lost, released := c.released + 1 }) p)

def dumpRead (w : Who) (b : List Byte) (p : Pkg) : Pkg :=
  let op := le b 0 1
  let off := le b 8 4
  let len := le b 12 4
  let most := match w with | .mctp _ => 8192 | _ => 0x100000
  let bad := b.length < 64 || 1 < op || !zeros b 1 7 || !zeros b 24 40 ||
    if op == 1 then off != 0 || len != 0 || !zeros b 16 8
    else off % 64 != 0 || len % 64 != 0 || len == 0 || most < len || 8 * 2 ^ 20 < off + len || destBad w (le b 16 8)
  if bad then answer w stBadParam 0 0 p
  else if p.integ.crash.state == 1 || (op == 1 && p.integ.crash.state == 0) then answer w stBadState 0 0 p
  else if op == 1 then answer w stOk 0 0 (releaseCrash p)
  else answerBlock w (le b 16 8) len (crashBytes p.integ.crash off len) p

def execDumpRead (r : Route) (s : State) : Host.Outcome State Fault Refusal :=
  onRoute r 0x0D02 (fun w b s => { s with p := dumpRead w b s.p }) s

/-! ### Probes, fault counts, scrubbing (R380, R382, R505, R516) -/

/-- A unit with a checker probe: a core, a control core, or a stack's accumulate unit. -/
def probed (u : Nat) : Bool := u < 0x0210 || (0x0600 ≤ u && u < 0x0610)

def execCheckerProbe (unit : Nat) (pass : Bool) (s : State) : Host.Outcome State Fault Refusal :=
  onP (fun set p => if pass || !probed unit || p.boot.off then p else finish set (probeFails set unit p)) s

/-- DECAY_H ready hours have passed (R516). -/
def decayFaults (p : Pkg) : Pkg :=
  if p.integ.decayH == 0 || !p.boot.ready then p
  else modInteg (fun g => { g with faults := g.faults.map (· - 1) }) p

def execFaultDecay (s : State) : Host.Outcome State Fault Refusal := onP (fun _ p => decayFaults p) s

/-- An uncorrectable error that the scrub finds at an offset of a stack. -/
def scrubError (stack off : Nat) (p : Pkg) : Pkg :=
  memErrorKey stack off (markBad stack off p)

/-- A controller scrubs its stack (R380): `fixed` errors it corrected, and blocks at the offsets `bad` that it could not correct. -/
def scrub (stack fixed : Nat) (bad : List Nat) (p : Pkg) : Pkg :=
  if 16 ≤ stack || !bit p.mem.trained stack || bit p.mem.failed stack then p
  else
    let p := corrected stack fixed p
    (bad.filter (· < stackSize)).foldl (fun q off => scrubError stack off q) p

def execStackScrub (stack corrected : Nat) (bad : List Nat) (s : State) : Host.Outcome State Fault Refusal :=
  onP (fun _ p => scrub stack corrected bad p) s

def execStackInterfaceLoss (stack : Nat) (s : State) : Host.Outcome State Fault Refusal :=
  onP (fun _ p => if stack < 16 && !p.boot.off then failStack stack p else p) s

end Sys2Proof.Machine
end

