-- ==== Sys2Proof/Machine/TimeMsgs.lean ====
section
/-! DEFINITION. Time messages (R441): their bytes, and the commands that send and take them. -/

namespace Sys2Proof.Machine

/-- The 48 bytes of a time message. -/
def timeBytes (m : TimeMsg) : List Byte :=
  leBytes 1 m.kind ++ leBytes 1 (b2n m.locked + 2 * b2n m.root) ++ leBytes 1 m.priority ++ leBytes 1 m.hops ++
    leBytes 4 m.seq ++ leBytes 8 m.rootSerial ++ leBytes 8 m.t2 ++ leBytes 4 m.reqId ++ leBytes 4 m.uncert ++
    List.replicate 16 0

/-- The time message of a VC1 frame with the TSTAMP `t`. -/
def parseTime (bs : List Byte) (t : Nat) : TimeMsg :=
  { kind := le bs 0 1, locked := bit (le bs 1 1) 0, root := bit (le bs 1 1) 1, priority := le bs 2 1, hops := le bs 3 1
    seq := le bs 4 4, rootSerial := le bs 8 8, t2 := le bs 16 8, reqId := le bs 24 4, uncert := le bs 28 4, tstamp := t }

/-- What this package reports (R441). The frame's TSTAMP is put in when it leaves. -/
def timeMsg (p : Pkg) (kind t2 reqId : Nat) : TimeMsg :=
  { kind, locked := p.ft.state == .locked, root := p.ft.root, priority := p.ft.rootPrio, hops := min 63 p.ft.hops
    seq := p.ft.seq, rootSerial := p.ft.rootSerial, t2, reqId, uncert := uncertFine (uNow p.ft), tstamp := 0 }

/-- The VC1 frame of a time message, to the neighbour of port `i`. -/
def timeFrame (p : Pkg) (i : Nat) (m : TimeMsg) : Frame :=
  ⟨1, 0, true, true, (portOf p i).nbr, p.links.addr, 0, timeBytes m⟩

/-- A time message goes to its port, which sends its next frame at once: this one, unless VC1 lacks a credit or a frame of
VC0 or an earlier one of VC1 is ready (R402, R441). -/
def sendTime (set : Settings) (i : Nat) (m : TimeMsg) (p : Pkg) : Pkg :=
  transmit set i (modPort i (fun q => { q with own := q.own ++ [timeFrame p i m] }) p)

/-- Each UP port sends a REQ every millisecond (R441); the root advances SEQ with the REQ of its lowest UP port. -/
def timeReq (set : Settings) (i : Nat) (p : Pkg) : Pkg :=
  if portUp p i then
    let p := if p.ft.root && (upPorts p).head? == some i then
        modFt (fun f => { f with seq := (f.seq + 1) % 2 ^ 32 }) p else p
    let id := p.ft.nextReq
    sendTime set i (timeMsg p 0 0 id) (modFt (fun f => { f with nextReq := (f.nextReq + 1) % 2 ^ 32 }) p)
  else p

def execTimeReqSend (port : Nat) (s : State) : Host.Outcome State Fault Refusal := onP (fun set p => timeReq set port p) s

/-- A REQ received at the stamp `t2` is taken in and answered with a RESP (R441). -/
def takeReq (set : Settings) (i : Nat) (m : TimeMsg) (t2 : Nat) (p : Pkg) : Pkg :=
  if portUp p i && m.kind == 0 then
    let p := checkElect set.serial (reparent (hear i m p))
    sendTime set i (timeMsg p 1 t2 m.reqId) p
  else p

def execTimeReqReceive (port : Nat) (m : TimeMsg) (s : State) : Host.Outcome State Fault Refusal :=
  onP (fun set p => takeReq set port m (stamp p) p) s

def execTimeRespReceive (port : Nat) (m : TimeMsg) (s : State) : Host.Outcome State Fault Refusal :=
  onP (fun set p => timeResp set.serial port m (stamp p) p) s

/-- A time message that a VC1 frame brought (R441). -/
def takeTime (set : Settings) (i : Nat) (m : TimeMsg) (rx : Nat) (p : Pkg) : Pkg :=
  if m.kind == 0 then takeReq set i m rx p else timeResp set.serial i m rx p

end Sys2Proof.Machine
end

