-- ==== Sys2Proof/Machine/LinkCmds.lean ====
section
/-! DEFINITION. The commands of the peer ports that the step feels (R390 to R399) and LINK_CONFIG (R409, R410). -/

namespace Sys2Proof.Machine

/-! ### LINK_CONFIG -/

def cAddr (b : List Byte) : Nat := le b 0 4
def cTableMode (b : List Byte) : Bool := le b 4 1 == 1
def cSetRoute (b : List Byte) : Bool := bit (le b 6 1) 0
def cSetPlan (b : List Byte) : Bool := bit (le b 6 1) 1
def cDims (b : List Byte) : List Nat := [le b 8 2, le b 10 2, le b 12 2]
def cTable (b : List Byte) : Nat := le b 16 8

/-- A field of LINK_CONFIG, but for the table's entries, breaks R409 or R410. -/
def linkFieldsBad (set : Settings) (b : List Byte) : Bool :=
  3 < le b 6 1 || !zeros b 7 1 || !zeros b 14 2 || !zeros b 24 40 || 2 < le b 5 1 || (!cSetPlan b && le b 5 1 != 0) ||
    1 < le b 4 1 ||
    (if !cSetRoute b then !zeros b 0 5 || !zeros b 8 6 || !zeros b 16 8
     else if cTableMode b then !zeros b 8 6 || !addrOk (cTable b) 64 4096 || !addrValid true [] (cAddr b)
     else set.lanes != 0 || !zeros b 16 8 || (cDims b).any (fun n => n == 0 || 1024 < n) ||
      !addrValid false (cDims b) (cAddr b))

/-- A route-table entry with a reserved bit, or a port that the plan does not have (R405, R410). -/
def routeBad (lanes : Nat) (x : Byte) : Bool :=
  bits x.toNat 6 4 != 0 || (x.toNat % 16 != 15 && portCount lanes ≤ x.toNat % 16)

/-- A stage or a group is configured. -/
def anyStage (p : Pkg) : Bool := p.pipe.stages.any (·.on)
def anyGroup (p : Pkg) : Bool := p.colls.groups.any (·.on)

/-- SET_ROUTE takes effect (R410); a new address is told to the neighbours (R391). -/
def setRoute (set : Settings) (b : List Byte) (table : List Byte) (p : Pkg) : Pkg :=
  let changes := cAddr b != p.links.addr
  let p := { p with links := { p.links with
    addr := cAddr b, tableMode := cTableMode b, dims := if cTableMode b then [0, 0, 0] else cDims b, route := table } }
  if changes then (upPorts p).foldl (fun q i => sendHello set i q) p else p

def applyLink (w : Who) (b table : List Byte) (s : State) : State :=
  let p := s.p
  if table.any (routeBad s.set.lanes) then { s with p := answer w stBadParam 0 0 p }
  else if cSetRoute b && (anyStage p || anyGroup p || p.reshard.active || stepBusy p) then
    { s with p := answer w stBadState 0 0 p }
  else
    { s with
      set := if cSetPlan b then { s.set with nextPlan := le b 5 1 } else s.set
      p := answer w stOk 0 0 (if cSetRoute b then setRoute s.set b table p else p) }

def linkConfig (w : Who) (b : List Byte) (s : State) : State :=
  if linkFieldsBad s.set b then { s with p := answer w stBadParam 0 0 s.p }
  else if cSetRoute b && cTableMode b then
    match readError s.set s.p (cTable b) 4096 with
    | some x => { s with p := answer w stMem 0 0 (memError s.set x s.p) }
    | none => applyLink w b (readMem s.set s.p (cTable b) 4096) s
  else applyLink w b [] s

def execLinkConfig (q : Nat) (s : State) : Host.Outcome State Fault Refusal := onPacket q 0x0104 linkConfig s

/-! ### A port that fails (R390 to R393) -/

/-- A retrain fails: the port goes DOWN for good, its frames are discarded, and an open step has bit 0 set (R392, R393). -/
def portFails (i : Nat) (set : Settings) (p : Pkg) : Pkg :=
  if (portOf p i).state != .retrain then p
  else
    let p := trainFail i (if p.ft.refclk then 8 else 2) (discardFrames i p)
    finish set (timePortDown set.serial i (failLive 0 stHung (log 0x0101 stHung (0x0500 + i) [] p)))

def execPortDown (port : Nat) (s : State) : Host.Outcome State Fault Refusal := onP (portFails port) s

/-- A training phase passes its bound: at start-up the port stays DOWN with its reason, in a retrain the retrain fails. -/
def trainTimeout (i : Nat) (set : Settings) (p : Pkg) : Pkg :=
  if (portOf p i).state == .training then trainFail i (phaseReason p (portOf p i).phase) p else portFails i set p

def execPortTrainingTimeout (port : Nat) (s : State) : Host.Outcome State Fault Refusal := onP (trainTimeout port) s

/-- A HELLO gives the neighbour's port, plan and address; in Agree it is checked and brings the port UP or not, which
needs the REFTIME clock; on an UP port nothing is checked again, and the address alone is recorded (R390, R391, R412). -/
def takeHello (i : Nat) (h : Hello) (set : Settings) (p : Pkg) : Pkg :=
  let q := portOf p i
  if q.state == .up then modPort i (fun q => { q with nbr := h.addr }) p
  else if (q.state == .training || q.state == .retrain) && q.phase == .agree && p.ft.refclk then
    let p := modPort i (fun q => { q with nbr := h.addr, nbrPort := h.port, nbrPlan := h.plan }) p
    match agreeReason set.lanes i h with
    | none => portAgreed set i p
    | some reason => if q.state == .training then trainFail i reason p else portFails i set p
  else p

def execHelloReceive (port : Nat) (h : Hello) (s : State) : Host.Outcome State Fault Refusal := onP (takeHello port h) s

/-! ### A frame arrives (R394 to R399, R406) -/

/-- A message that ends here is handed to the engine its VC serves, which takes it by its own command. -/
def handOn (f : Frame) (r : Pkg × Option (List Byte)) : Pkg :=
  match r.2 with
  | some bs => { r.1 with out.loop := r.1.out.loop ++ [(f.vc, bs)] }
  | none => r.1

/-- A DATA frame in order: one of VC1 is a time message, which ends at the neighbour (R441); other frames are delivered,
forwarded or discarded (R406). `rx` is the receive stamp, `t` the frame's TSTAMP. -/
def takeData (set : Settings) (i : Nat) (f : Frame) (t rx : Nat) (p : Pkg) : Pkg :=
  if f.vc == 1 then takeTime set i (parseTime f.payload t) rx (takeUp i f p)
  else if needsAddr p f then passOn i f p
  else if f.dst == p.links.addr then handOn f (assemble i f p)
  else passOn i f p

/-- A DATA frame with the LSEQ awaited. -/
def acceptFrame (set : Settings) (i : Nat) (bs : List Byte) (rx : Nat) (p : Pkg) : Pkg :=
  let p := modPort i (fun q => { q with rxSeq := (q.rxSeq + 1) % 2 ^ 32, skipping := false }) p
  takeData set i (parseFrame bs) (le bs 480 8) rx (takeLink set i bs p)

/-- Held frames whose turn has come are taken (R396); the fuel is their number. -/
def takeHeld (set : Settings) (i : Nat) : Nat → Pkg → Pkg
  | 0, p => p
  | n + 1, p =>
    let q := portOf p i
    match q.hold.find? fun x => x.1 == q.rxSeq with
    | some x =>
      takeHeld set i n (acceptFrame set i x.2.1 x.2.2 (modPort i (fun q => { q with hold := q.hold.filter fun y => y.1 != x.1 }) p))
    | none => p

/-- A good DATA frame (R396, R398): the one awaited is taken, with those held behind it; a later one of the 512 that may be
under way is held, unless frames are being discarded until a replay; one that came before is discarded. -/
def goodData (set : Settings) (i : Nat) (bs : List Byte) (rx : Nat) (p : Pkg) : Pkg :=
  let q := portOf p i
  let seq := le bs 12 4
  if seq == q.rxSeq then takeHeld set i q.hold.length (acceptFrame set i bs rx p)
  else if q.skipping || 512 ≤ (seq + 2 ^ 32 - q.rxSeq) % 2 ^ 32 || q.hold.any (fun x => x.1 == seq) then p
  else modPort i (fun q => { q with hold := q.hold ++ [(seq, bs, rx)] }) p

/-- A frame that passed its CRC: an IDLE frame gives its link fields, unless frames are being discarded until a replay. -/
def goodFrame (set : Settings) (i : Nat) (bs : List Byte) (rx : Nat) (p : Pkg) : Pkg :=
  match le bs 0 1 with
  | 0 => if (portOf p i).skipping then p else takeLink set i bs p
  | 1 => goodData set i bs rx p
  | 2 => takeHello i (parseHello ((parseFrame bs).payload)) set p
  | _ => p

/-- One frame that has been replayed 16 times makes the port retrain (R392). -/
def replayLimit (i : Nat) (p : Pkg) : Pkg := if 16 ≤ (portOf p i).frontReplays then retrain i p else p

/-- The receive stamp of a frame: the count less the deskew delay of its lane (R397, R442; which stamps are corrected, and
which way, is a DESIGN CHOICE, log entry 86). -/
def receiveStamp (p : Pkg) (i lane : Nat) : Nat := (stamp p + 2 ^ 64 - (portOf p i).deskew.getD lane 0 % 2 ^ 64) % 2 ^ 64

/-- A frame arrives on a lane of a port. Before the port is UP a HELLO frame alone is taken in. -/
def takeFrame (i lane : Nat) (bs : List Byte) (fecOk : Bool) (corrected : Nat) (set : Settings) (p : Pkg) : Pkg :=
  let good := fecOk && bs.length == 512 && le bs 504 8 == crc64 (bs.take 504)
  if !portUp p i then (if good && le bs 0 1 == 2 then takeHello i (parseHello ((parseFrame bs).payload)) set p else p)
  else
    let p := modPort i (fun q => { q with fecCorr := satAdd 0xFFFFFFFF q.fecCorr corrected }) p
    if good then replayLimit i (goodFrame set i bs (receiveStamp p i lane) p) else badFrame set i fecOk p

def execHppFrameReceive (port : Nat) (frame : List Byte) (fecOk : Bool) (corrected : Nat) (s : State) (lane : Nat := 0) :
    Host.Outcome State Fault Refusal := onP (takeFrame port lane frame fecOk corrected) s

end Sys2Proof.Machine
end

