-- ==== Sys2Proof/Machine/Mctp.lean ====
section
/-! DEFINITION. The MCTP requests that waited for the management subsystem's restart (R566, R576). -/

namespace Sys2Proof.Machine

/-- A request of R576 by its CODE. -/
def mctpCode (via : Transport) (code : Nat) (body : List Byte) (s : State) : State :=
  let onPkg (f : Transport → Pkg → Pkg) : State := { s with p := f via s.p }
  let serve (f : Who → List Byte → Settings → Pkg → Pkg) : State :=
    mctpServe via body (fun w b s => { s with p := f w b s.set s.p }) s
  match code with
  | 0x0100 => serve fun w _ _ p => answer w stOk 0 0 p
  | 0x0101 => serve identify
  | 0x0103 => serve getStatus
  | 0x0C01 => serve fwStage
  | 0x0C02 => serve fwInstall
  | 0x0C03 => serve attest
  | 0x0C04 => serve fun w b _ p => logRead w b p
  | 0x0D01 => serve resetUnit
  | 0x0D02 => serve fun w b _ p => dumpRead w b p
  | 0xF001 => onPkg sensorRead
  | 0xF002 => onPkg alertRead
  | 0xF003 => onPkg (keyEnrol body)
  | _ => onPkg fun via p => answer (.mctp via) stBadOpcode 0 0 p

/-- A request that waited is handled. -/
def mctpAsked (s : State) (x : Transport × MctpAsk) : State :=
  match x.2 with
  | .code c body => mctpCode x.1 c body s
  | .setEid eid => { s with p := setEid eid x.1 s.p }
  | .getEid => { s with p := getEid x.1 s.p }
  | .getVersion => { s with p := getMctpVersion x.1 s.p }
  | .getTypes => { s with p := getTypes x.1 s.p }

/-- The restart completes, and the requests that waited are handled in arrival order (R566, R576). -/
def restartEnds (s : State) : State :=
  if !s.p.mgt.restarting then s
  else s.p.mgt.waits.foldl mctpAsked { s with p := mgtRestarted { s.p with mgt.waits := [] } }

def execMgtRestartComplete (s : State) : Host.Outcome State Fault Refusal := .next (restartEnds s)

end Sys2Proof.Machine
end

