-- ==== Sys2Proof/Machine/Power.lean ====
section
/-! DEFINITION. Supply, holds, trips and rails (R539 to R552, R568). -/

namespace Sys2Proof.Machine

def modPwr (f : Pwr → Pwr) (p : Pkg) : Pkg := { p with pwr := f p.pwr }

/-- The arithmetic clocks run: from start-up phase 5 (R554). -/
def clocksOn (p : Pkg) : Bool := 5 ≤ p.boot.phase && !p.boot.off

/-! ### Holds and the envelope (R545 to R548) -/

/-- ENV_ACT falls to what R545 gives, at any moment. -/
def lowerEnv (s : State) : State :=
  if clocksOn s.p then setEnvAct (max s.set.envAct (envGiven s.set.env s.p.pwr)) s else s

/-- The envelope one below ENV_ACT, but not below P2 (R545). -/
def oneLower (set : Settings) : Nat := min 2 (set.envAct + 1)

/-- A thermal or supply notice: the event log, an alert cause and source 385 (R457, R541, R545, R550). -/
def notice (cause : Nat) (p : Pkg) : Pkg := raise 385 (log 0x0C05 0 0xFFFF [] (alert cause p))

/-- A hold is set: counted and told of, and ENV_ACT follows (R545, R552, R558). -/
def holdSet (f : Pwr → Pwr) (s : State) : State :=
  lowerEnv { s with p := notice alThermal (modPwr (fun w => { f w with holds := satAdd 0xFF w.holds 1 }) s.p) }

/-- A hold that names an envelope; one that it names already is no new hold. -/
def holdAt (old : Option Nat) (f : Option Nat → Pwr → Pwr) (s : State) : State :=
  if old == some (oneLower s.set) then s else holdSet (f (some (oneLower s.set))) s

def setCurrents (ia ib : Nat) (p : Pkg) : Pkg := modPwr (fun w => { w with iinA := ia, iinB := ib }) p

/-- The mean input current over 1 ms, in units of 10 mA, exceeds 140 A (R545). -/
def currentHold (ia ib : Nat) (s : State) : State :=
  let s := { s with p := setCurrents ia ib s.p }
  if 14000 < ia + ib && !s.p.boot.off then holdAt s.p.pwr.current (fun e w => { w with current := e }) s else s

def execCurrentHold (ia ib : Nat) (s : State) : Host.Outcome State Fault Refusal := .next (currentHold ia ib s)

/-- The current has stayed below 126 A for 1 s (R545). -/
def execCurrentHoldRelease (ia ib : Nat) (s : State) : Host.Outcome State Fault Refusal :=
  onP (fun _ p =>
    let p := setCurrents ia ib p
    if ia + ib < 12600 then modPwr (fun w => { w with current := none }) p else p) s

/-- The 10 ms mean is taken; those of the last second are kept (R558). -/
def setPower (watts : Nat) (p : Pkg) : Pkg :=
  modPwr (fun w => { w with pin := watts, pins := (upNs p, watts) :: recentPins (upNs p) w }) p

/-- The mean input power over 10 ms exceeds the figure of ENV_ACT by 5 % (R544, R545). -/
def powerHold (watts : Nat) (s : State) : State :=
  let s := { s with p := setPower watts s.p }
  if envPower s.set.envAct * 105 < watts * 100 && !s.p.boot.off then
    holdAt s.p.pwr.power (fun e w => { w with power := e }) s else s

def execPowerHold (watts : Nat) (s : State) : Host.Outcome State Fault Refusal := .next (powerHold watts s)

/-- The power has stayed within the figure of the next higher envelope for 1 s (R545). -/
def execPowerHoldRelease (watts : Nat) (s : State) : Host.Outcome State Fault Refusal :=
  onP (fun _ p =>
    let p := setPower watts p
    match p.pwr.power with
    | some e => if watts ≤ envPower (e - 1) then modPwr (fun w => { w with power := none }) p else p
    | none => p) s

/-- Which connector is open (R543): below 5 A while the other carries more than 20 A. -/
def openA (ia ib : Nat) : Bool := ia < 500 && 2000 < ib

/-- A connector has been open for 10 ms (R543, R545). -/
def connectorOpen (ia ib : Nat) (s : State) : State :=
  let s := { s with p := setCurrents ia ib s.p }
  if !(openA ia ib || openA ib ia) || s.p.boot.off then s
  else
    let s := { s with p := modPwr (fun w => { w with aOpen := w.aOpen || openA ia ib, bOpen := w.bOpen || openA ib ia }) s.p }
    if s.p.pwr.connector then s else holdSet (fun w => { w with connector := true }) s

def execConnectorOpen (ia ib : Nat) (s : State) : Host.Outcome State Fault Refusal := .next (connectorOpen ia ib s)

/-- Both connectors have carried current for 1 s (R545). -/
def execConnectorHoldRelease (ia ib : Nat) (s : State) : Host.Outcome State Fault Refusal :=
  onP (fun _ p =>
    let p := setCurrents ia ib p
    if 500 ≤ ia && 500 ≤ ib then modPwr (fun w => { w with connector := false, aOpen := false, bOpen := false }) p else p) s

/-- A write of PWR_LIMIT (R545, R558): LIMIT is 0 or 24 to 46. -/
def setLimit (value : Nat) (s : State) : State :=
  let v := value % 256
  if v != 0 && (v < 24 || 46 < v) then s
  else if v != 0 && s.p.pwr.limit == 0 then holdSet (fun w => { w with limit := v }) s
  else lowerEnv { s with p := modPwr (fun w => { w with limit := v }) s.p }

def execPwrLimitWrite (value : Nat) (s : State) : Host.Outcome State Fault Refusal :=
  .next (if !hostOpen s.p then s else setLimit value s)

/-- ENV_ACT rises one envelope a second, up to what R545 gives (R546). -/
def riseEnv (s : State) : State :=
  if clocksOn s.p && envGiven s.set.env s.p.pwr < s.set.envAct then setEnvAct (s.set.envAct - 1) s else s

def execEnvActRise (s : State) : Host.Outcome State Fault Refusal := .next (riseEnv s)

/-- In P3 a core parks at its next tile or chunk boundary (R548). -/
def execCorePark (core : Nat) (s : State) : Host.Outcome State Fault Refusal :=
  onP (fun set p => if set.envAct == 3 && clocksOn p then modCore core (fun c => { c with parked := true }) p else p) s

/-! ### Sensors (R549) -/

/-- HOLD, release and TRIP of a sensor, in 1/16 °C (R549). -/
def holdTemp (i : Nat) : Int := if i < 48 then 1600 else 1520
def releaseTemp (i : Nat) : Int := if i < 48 then 1520 else 1440
def tripTemp (i : Nat) : Int := if i < 40 then 1760 else if i < 48 then 1840 else 1680

/-- The dies a trip of a sensor fences (R549). -/
def tripDies (i : Nat) : List Nat := if i < 40 then [i / 10] else [0, 1, 2, 3]

/-- Sensors in one row of the table of R549. -/
def sensorRow (i : Nat) : List Nat :=
  if i < 40 then (List.range 10).map fun k => i / 10 * 10 + k
  else if i < 48 then (List.range 8).map (40 + ·)
  else (List.range 16).map (48 + ·)

def setTemp (i : Nat) (t : Int) (p : Pkg) : Pkg := modPwr (fun w => { w with temps := w.temps.set i t }) p

/-- Readings of all 64 sensors. -/
def setTemps (ts : List Int) (p : Pkg) : Pkg :=
  modPwr (fun w => { w with temps := (List.range 64).map fun i => ts.getD i (w.temps.getD i 0) }) p

/-- The valid sensors of a list stand at or below their release temperature. -/
def coolEnough (p : Pkg) (l : List Nat) : Bool := l.all fun i => !sensorValid p i || p.pwr.temps.getD i 0 ≤ releaseTemp i

/-- A THERMAL hold set within 10 s of the last one's release doubles the release time (R547). -/
def releaseTime (p : Pkg) : Nat :=
  let calm : Bool := match p.pwr.thermalSetAt with | some t => 600000000000 ≤ upNs p - t | none => true
  let again : Bool := match p.pwr.thermalReleasedAt with | some t => upNs p - t ≤ 10000000000 | none => false
  if calm then 1 else if again then min 300 (2 * p.pwr.releaseSecs) else p.pwr.releaseSecs

/-- A THERMAL hold may be set: none stands, or the last was set 100 ms ago (R545). -/
def thermalDue (p : Pkg) : Bool :=
  p.pwr.thermal.isNone || match p.pwr.thermalSetAt with | some t => 100000000 ≤ upNs p - t | none => true

/-- A sensor exceeds HOLD (R545, R547). -/
def thermalHold (i : Nat) (t : Int) (s : State) : State :=
  if 64 ≤ i || !sensorValid s.p i then s
  else
    let s := { s with p := setTemp i t s.p }
    if t ≤ holdTemp i || !thermalDue s.p then s
    else
      let secs := if s.p.pwr.thermal.isNone then releaseTime s.p else s.p.pwr.releaseSecs
      let at_ := upNs s.p
      holdAt s.p.pwr.thermal (fun e w => { w with thermal := e, releaseSecs := secs, thermalSetAt := some at_ }) s

def execThermalHold (sensor : Nat) (temp : Int) (s : State) : Host.Outcome State Fault Refusal :=
  .next (thermalHold sensor temp s)

/-- Every sensor has stayed at or below its release temperature for the release time (R545, R547). -/
def execThermalHoldRelease (temps : List Int) (s : State) : Host.Outcome State Fault Refusal :=
  onP (fun _ p =>
    let p := setTemps temps p
    if p.pwr.thermal.isSome && coolEnough p (List.range 64) then
      modPwr (fun w => { w with thermal := none, thermalReleasedAt := some (upNs p) }) p
    else p) s

/-! ### Converters stop (R541, R556, R568) -/

/-- Settings as a package reset leaves them; LANES is latched anew at the start-up that follows (R34). -/
def restarted (t : Settings) : Settings :=
  { lanes := t.lanes, nextPlan := t.nextPlan, serial := t.serial, stepping := t.stepping, dateCode := t.dateCode
    baseRev := t.baseRev }

/-- What a loss of all power leaves: the backup domain with its flag, flash and fuses, the calendar and what the host has put
on the link's other side; memory, packs, the log and the crash record are lost. -/
def powerLost (flag : Bool) (s : State) : State :=
  { s with
    set := restarted s.set
    p := {
      mgt := { image := s.p.mgt.image }
      flash := { s.p.flash with brownout := s.p.flash.brownout || flag }
      cal := { s.p.cal with waits := [], hiLatch := none }
      ft := { refclk := s.p.ft.refclk }
      out := s.p.out
      free := s.p.free
      host := { perst := s.p.host.perst, fences := List.replicate 1024 0 }
      boot := { off := true, phase := 0 } } }

/-- V36 is below 30 V or above 42 V (R541): also while the converters wait after a failure of phase 1 (R555). -/
def brownOut (vin : Nat) (s : State) : State :=
  if (s.p.boot.off && s.p.boot.qualFails == 0) || (3000 ≤ vin && vin ≤ 4200) then s else powerLost true s

def execBrownOut (vin : Nat) (s : State) : Host.Outcome State Fault Refusal := .next (brownOut vin s)

/-! ### Supply (R541, R542, R556) -/

/-- Fence dies as class 7 or 8 (R541, R550): TRIP_FENCE holds each die that this fences, or that a rung resets (R551). -/
def tripFence (set : Settings) (ds : List Nat) (p : Pkg) : Pkg :=
  ds.foldl (fun q d =>
    if (q.dies.getD d {}).state == .up || (rungResets q).elem d then
      fenceDie set d 0 (modPwr (fun w => { w with tripFence := setBit w.tripFence d }) q)
    else q) p

/-- UNDER or OVER is entered: the compute dies are fenced (R541). -/
def supplyBad (st : Supply) (vin : Nat) (set : Settings) (p : Pkg) : Pkg :=
  if p.pwr.supply == st then modPwr (fun w => { w with vin := vin }) p
  else
    let p := modPwr (fun w => { w with
      supply := st, vin := vin
      unders := if st == .under then satAdd 0xFF w.unders 1 else w.unders
      overs := if st == .over then satAdd 0xFF w.overs 1 else w.overs }) p
    finish set (tripFence set [0, 1, 2, 3] (notice alSupply (detect 7 p)))

/-- UNDER or OVER; before READY it is a brown-out without the backup flag (R556). -/
def supplyLeaves (st : Supply) (vin : Nat) (s : State) : State :=
  if s.p.boot.off && s.p.boot.qualFails == 0 then s
  else if !s.p.boot.ready then powerLost false s
  else { s with p := supplyBad st vin s.set s.p }

def execSupplyUnder (vin : Nat) (s : State) : Host.Outcome State Fault Refusal :=
  .next (if 3000 ≤ vin && vin < 3300 then supplyLeaves .under vin s else s)

def execSupplyOver (vin : Nat) (s : State) : Host.Outcome State Fault Refusal :=
  .next (if 4000 < vin && vin ≤ 4200 then supplyLeaves .over vin s else s)

/-- A fenced die may be given its rung 3 (R527, R542, R550, R568): nothing still holds it fenced. -/
def mayReturn (p : Pkg) (d : Nat) : Bool :=
  (p.dies.getD d {}).state == .fenced && p.pwr.supply == .normal && !bit p.pwr.hostOnly d && !bit p.pwr.railOut d &&
    p.pwr.trippedBy.all fun x => x.1 != d

def returnDie (cause d : Nat) (p : Pkg) : Pkg :=
  if mayReturn p d then callLadder { rung := 3, unit := 0x0400 + d, cause, only3 := true } p else p

/-- V36 has been back between 33.5 V and 39.5 V for 100 ms (R541, R542). -/
def supplyBack (vin : Nat) (set : Settings) (p : Pkg) : Pkg :=
  if p.boot.off || p.pwr.supply == .normal || vin < 3350 || 3950 < vin then p
  else
    let p := log 0x0C05 0 0xFFFF [] (modPwr (fun w => { w with supply := .normal, vin := vin }) p)
    finish set (((List.range 4).filter (bit p.pwr.tripFence)).foldl (fun q d => returnDie 7 d q) p)

def execSupplyNormal (vin : Nat) (s : State) : Host.Outcome State Fault Refusal := onP (supplyBack vin) s

/-! ### Trips (R549, R550) -/

/-- A die that trips within 60 s of returning stays fenced until RESET_UNIT (R550). -/
def hostOnlyFrom (p : Pkg) (d : Nat) : Bool :=
  match p.pwr.returnedAt.getD d none with
  | some t => upNs p ≤ t + 60000000000
  | none => false

/-- A sensor passes TRIP: its dies are fenced (R550). -/
def trip (i : Nat) (set : Settings) (p : Pkg) : Pkg :=
  let ds := tripDies i
  let p := modPwr (fun w => { w with
    trips := satAdd 0xFF w.trips 1
    hostOnly := (ds.filter (hostOnlyFrom p)).foldl setBit w.hostOnly
    trippedBy := (ds.map fun d => (d, i)).filter (fun x => !w.trippedBy.elem x) ++ w.trippedBy }) p
  finish set (tripFence set ds (notice alThermal (detect 8 p)))

/-- A reading past TRIP; a base-die sensor at 125 °C causes a brown-out (R550). -/
def thermalTrip (i : Nat) (t : Int) (s : State) : State :=
  if 64 ≤ i || !sensorValid s.p i then s
  else
    let s := { s with p := setTemp i t s.p }
    if 40 ≤ i && i < 48 && 2000 ≤ t then powerLost true s
    else if t ≤ tripTemp i then s
    else { s with p := trip i s.set s.p }

def execThermalTrip (sensor : Nat) (temp : Int) (s : State) : Host.Outcome State Fault Refusal :=
  .next (thermalTrip sensor temp s)

/-- Every sensor of the trip's row has stayed at or below its release temperature for 1 s (R550). -/
def tripRecovers (d : Nat) (temps : List Int) (set : Settings) (p : Pkg) : Pkg :=
  let p := setTemps temps p
  let mine := p.pwr.trippedBy.filter fun x => x.1 == d
  if mine.isEmpty || !(mine.all fun x => coolEnough p (sensorRow x.2)) then p
  else
    let p := modPwr (fun w => { w with trippedBy := w.trippedBy.filter fun x => x.1 != d }) p
    finish set (returnDie 8 d p)

def execTripRecovery (die : Nat) (temps : List Int) (s : State) : Host.Outcome State Fault Refusal :=
  onP (tripRecovers die temps) s

/-! ### Rails (R568) -/

/-- A final-stage rail has been out of its window for 10 µs (R568). -/
def railFault (r : Rail) (s : State) : State :=
  if s.p.boot.off then s
  else match r with
    | .base => powerLost true s
    | .stack k => if 16 ≤ k then s
      else { s with p := failStack k (notice alRail (detect 7 s.p)) }
    | .die d => if 4 ≤ d then s
      else
        let p := modPwr (fun w => { w with railOut := setBit w.railOut d }) (notice alRail (detect 7 s.p))
        { s with p := finish s.set (fenceDie s.set d 0 p) }

def execRailFault (r : Rail) (s : State) : Host.Outcome State Fault Refusal := .next (railFault r s)

/-- A die's rail has stayed in its window for 1 s (R568). -/
def railBack (d : Nat) (set : Settings) (p : Pkg) : Pkg :=
  if p.boot.off || !bit p.pwr.railOut d then p
  else finish set (returnDie 7 d (modPwr (fun w => { w with railOut := clearBit w.railOut d }) p))

def execRailRecovery (die : Nat) (s : State) : Host.Outcome State Fault Refusal := onP (railBack die) s

end Sys2Proof.Machine
end

