-- ==== Sys2Proof/Machine/MemCmds.lean ====
section
/-! DEFINITION. FILLER_CONFIG (R369, R370), the interleave register (R364 to R366), BAR2 (R416, R381) and writes of BAR0
(R23, R498). -/

namespace Sys2Proof.Machine

/-! ### FILLER_CONFIG -/

def gib : Nat := 2 ^ 30

def fillerFieldsBad (b : List Byte) : Bool :=
  2 ^ 48 ≤ le b 0 8 || le b 0 8 % gib != 0 || le b 8 8 % gib != 0 || 320 * gib < le b 8 8 || !inStack (le b 0 8) (le b 8 8) ||
    !zeros b 16 48

/-- The arrays of a layer entry (R224). -/
def layerRanges (set : Settings) (p : Pkg) (e : List Byte) : List (Nat × Nat) :=
  let n := lCount e
  [(lMaster e, masterSize set.lean * n), (lGrad e, 4 * n), (lMom1 e, 4 * n)] ++
    (if uAdam (cfgOf p) then [(lMom2 e, 4 * n)] else []) ++
    if lHasRing e then []
    else [(lWork e, (formatFmt (lFormat e)).stride0 * n)] ++ if lBlocks e then [(lScale e, n / 32)] else []

/-- What the partition must keep clear of (R370): hollows, rings, stages, the arrays of the layer table. -/
def fillerTaken (set : Settings) (p : Pkg) : List (Nat × Nat) :=
  (takenRanges p 8).drop 1 ++ p.upd.layers.flatMap (layerRanges set p)

def fillerConfig (w : Who) (b : List Byte) (set : Settings) (p : Pkg) : Pkg :=
  let base := le b 0 8
  let size := le b 8 8
  if fillerFieldsBad b || (fillerTaken set p).any (fun r => overlaps base size r.1 r.2) then answer w stBadParam 0 0 p
  else if stepBusy p || p.tasks.graphs.any (·.j1) || p.tasks.insts.any (fun i => i.graph.isSome) then
    answer w stBadState 0 0 p
  else answer w stOk 0 0 { p with mem.j1Base := base, mem.j1Size := size }

def execFillerConfig (q : Nat) (s : State) : Host.Outcome State Fault Refusal := onPacketP q 0x0202 fillerConfig s

/-! ### PKG_MEM_MAP (R364, R366) -/

/-- Nothing is loaded or configured, and no step has been opened (R366). -/
def mapFree (p : Pkg) : Bool :=
  p.step.state == .none && p.tasks.graphs.isEmpty && !p.hollow.stages.any (·.on) && p.rings.rings.isEmpty && !anyStage p &&
    !anyGroup p && p.mem.j1Size == 0

/-- A write of PKG_MEM_MAP (R366): every stored byte stays where it lies in its stack. -/
def setMap (value : Nat) (s : State) : State :=
  let granule := bits value 3 2
  let spread := bits value 1 0
  if granule == 3 || 2 ≤ spread || !mapFree s.p then s else { s with set := { s.set with granule, spread } }

def execPkgMemMapWrite (value : Nat) (s : State) : Host.Outcome State Fault Refusal :=
  .next (if !hostOpen s.p then s else setMap value s)

/-! ### BAR2 (R381, R416) -/

def readDone (r : ReadDone) (p : Pkg) : Pkg := { p with out.reads := p.out.reads ++ [r] }

/-- A host read at offset `off` of BAR2. Before phase 4 has written the stacks it is aborted (log entry 48). -/
def bar2Read (off len : Nat) (set : Settings) (p : Pkg) : Pkg :=
  let a := p.host.bar2Win + off
  if !inStack a len then readDone .unsupported p
  else if p.boot.phase < 5 then readDone .abort p
  else match readError set p a len with
    | some x => readDone .abort (memError set x p)
    | none => readDone (.data (readMem set p a len)) p

/-- An access arrives through BAR2: the host link is up and the offset lies in the window. -/
def bar2Open (p : Pkg) (off len : Nat) : Bool := hostOpen p && off + len ≤ 2 ^ p.host.bar2Log2

def execBar2Read (offset len : Nat) (s : State) (errs : List MemErr := []) : Host.Outcome State Fault Refusal :=
  onP (fun set p => if bar2Open p offset len then bar2Read offset len set (foundErrors errs p) else p) s

/-- A write cut where 64-byte blocks begin. -/
def blockPieces : Nat → Nat → List Byte → List (Nat × List Byte)
  | 0, _, _ => []
  | n + 1, a, bs =>
    if bs.isEmpty then []
    else
      let k := 64 - a % 64
      (a, bs.take k) :: blockPieces n (a + k) (bs.drop k)

def dropWrite (p : Pkg) : Pkg := { p with host.bar2Drop := satAdd 0xFFFFFFFF p.host.bar2Drop 1 }

/-- One block's part of a host write: dropped where the block cannot take it (R379, R381). -/
def bar2Piece (set : Settings) (x : Nat × List Byte) (p : Pkg) : Pkg :=
  match writeError set p x.1 x.2.length with
  | some e => memError set e (dropWrite p)
  | none => writeMem set x.1 x.2 p

def bar2Write (off : Nat) (data : List Byte) (set : Settings) (p : Pkg) : Pkg :=
  let a := p.host.bar2Win + off
  if !inStack a data.length || p.boot.phase < 5 then dropWrite p
  else (blockPieces (data.length / 64 + 2) a data).foldl (fun q x => bar2Piece set x q) p

def execBar2Write (offset : Nat) (data : List Byte) (s : State) (errs : List MemErr := []) :
    Host.Outcome State Fault Refusal :=
  onP (fun set p => if bar2Open p offset data.length then bar2Write offset data set (foundErrors errs p) else p) s

/-! ### BAR0 (R23, R497, R498) -/

/-- A register of a queue; the address and size registers take a write only while it is DISABLED (R470). -/
def writeQueueReg (q k v : Nat) (p : Pkg) : Pkg :=
  let off := (queueOf p q).state == .disabled
  let setup (f : Queue → Queue) : Pkg := if off then modQueue q f p else p
  match k with
  | 0 => setup fun u => { u with sqBase := u.sqBase / 2 ^ 32 * 2 ^ 32 + v }
  | 1 => setup fun u => { u with sqBase := v * 2 ^ 32 + u.sqBase % 2 ^ 32 }
  | 2 => setup fun u => { u with cqBase := u.cqBase / 2 ^ 32 * 2 ^ 32 + v }
  | 3 => setup fun u => { u with cqBase := v * 2 ^ 32 + u.cqBase % 2 ^ 32 }
  | 4 => setup fun u => { u with sqLog2 := bits v 4 0, cqLog2 := bits v 20 16 }
  | 5 =>
    if p.boot.recovery then p
    else if bit v 0 then (if off then modQueue q enableQueue p else p)
    else if off then p else modQueue q drainQueue p
  | 6 => modQueue q (fun u =>
      let u := if bit v 1 then flushQueue u else u
      if bit v 0 then resumeQueue u else u) p
  | _ => p

/-- HOST_BAR2_WIN takes only multiples of the BAR2 size (R416). -/
def setWindow (w : Nat) (p : Pkg) : Pkg :=
  if w % 2 ^ p.host.bar2Log2 == 0 then { p with host.bar2Win := w } else p

/-- A register of the interrupt controller, by offset from 0x8000 (R458 to R461). -/
def writeIcReg (o v : Nat) (p : Pkg) : Pkg :=
  if o < 0x1000 then (if hostSource (o / 4) && v < 16 then setPrio (o / 4) v p else p)
  else if o < 0x2000 then
    (if hostSource ((o - 0x1000) / 4) && targetOk v then setTarget ((o - 0x1000) / 4) v p else p)
  else if o < 0x2080 then (if hostWord ((o - 0x2000) / 4) then clearPend ((o - 0x2000) / 4) v p else p)
  else if o < 0x2200 then
    let w := o % 0x80 / 4
    let m := p.ic.mask.getD w 0
    if !hostWord w then p
    else setMaskWord w (if o < 0x2100 then v else if o < 0x2180 then m ||| v else m - (m &&& v)) p
  else if o < 0x2380 then
    let t := (o - 0x2200) / 4
    if 32 ≤ t && t < 96 && v < 16 then setThresh t v p else p
  else p

/-- A doorbell (R415, R468). -/
def writeBell (o v : Nat) (p : Pkg) : Pkg :=
  let q := o / 0x1000
  if o % 0x1000 == 0 && bellOk p q v (queueOf p q).sqLog2 then modQueue q (fun u => { u with bell := v }) p
  else if o % 0x1000 == 8 && bellOk p q v (queueOf p q).cqLog2 then modQueue q (fun u => { u with cqHead := v }) p
  else p

/-- The 32-bit registers that change nothing of the settings. A write of a reserved value to a field leaves it
unchanged (R147, R538). -/
def writeWordP (off v : Nat) (p : Pkg) : Pkg :=
  if off == 0x40 then
    (if 12 ≤ bits v 4 0 && bits v 4 0 ≤ 20 then { p with tasks.tauDef := bits v 4 0 } else p)
  else if off == 0x600 then setWindow (p.host.bar2Win / 2 ^ 32 * 2 ^ 32 + v) p
  else if off == 0x604 then setWindow (v % 65536 * 2 ^ 32 + p.host.bar2Win % 2 ^ 32) p
  else if off == 0x800 then
    (if 1 ≤ v % 65536 && v % 65536 ≤ 1000 then modInteg (fun g => { g with watchMs := v % 65536 }) p else p)
  else if off == 0x804 then modInteg (fun g => { g with decayH := bits v 23 8, fenceAt := bits v 3 0 }) p
  else if 0x8000 ≤ off && off < 0xC000 then writeIcReg (off - 0x8000) v p
  else if 0xC000 ≤ off && off < 0xD000 then writeQueueReg ((off - 0xC000) / 64) (off % 64 / 4) v p
  else if 0xD000 ≤ off && off < 0xE000 then setFence ((off - 0xD000) / 4) v p
  else if off == 0xE018 then clearAlerts v p
  else if off == 0xE01C then { p with mgt.alertMask := v % 64 }
  else if 0x100000 ≤ off && off < 0x140000 then writeBell (off - 0x100000) v p
  else if off == 0x140000 then bell v p
  else if 0x200000 ≤ off && off < 0x200400 then
    { p with host.msixTable := modAt p.host.msixTable ((off - 0x200000) / 4) fun _ => v }
  else p

/-- A 4-byte write (R23): RO registers and reserved offsets ignore it. -/
def writeWord (off v : Nat) (s : State) : State :=
  if off == 0x300 then setMap v s
  else if off == 0xF010 then setLimit v s
  else { s with p := writeWordP off v s.p }

/-- An access of BAR0: aligned, of 4 bytes, or of 8 as two of 4; any other write is dropped (R498). -/
def writeBar0 (off size value : Nat) (s : State) : State :=
  if !hostOpen s.p || off % size != 0 || 0x4000000 ≤ off then s
  else if size == 4 then writeWord off (value % 2 ^ 32) s
  else if size == 8 then writeWord (off + 4) (value / 2 ^ 32 % 2 ^ 32) (writeWord off (value % 2 ^ 32) s)
  else s

def execRegisterWrite (offset size value : Nat) (s : State) : Host.Outcome State Fault Refusal :=
  .next (writeBar0 offset size value s)

end Sys2Proof.Machine
end

