-- ==== Sys2Proof/Machine/Patterns.lean ====
section
/-! DEFINITION. Pattern packs: PATTERN_LOAD (R507 to R511) and PATTERN_RUN (R512 to R514). -/

namespace Sys2Proof.Machine

/-! ### The pack (R509, R510) -/

def kId (b : List Byte) : Nat := le b 0 2
def kVersion (b : List Byte) : Nat := le b 2 2
def kCount (b : List Byte) : Nat := le b 6 2
def kBody (b : List Byte) : Nat := le b 8 4

/-- Pattern entry `n` of a pack. -/
def patternOf (b : List Byte) (n : Nat) : List Byte := (b.drop (64 + 128 * n)).take 128

def patTask (b e : List Byte) : List Byte := (b.drop (le e 4 4)).take 128
def patTensors (b e : List Byte) : List (List Byte) := chunksOf 64 (le e 2 2) (b.drop (le e 8 4))
def patData (b e : List Byte) : List Byte := (b.drop (le e 12 4)).take (le e 16 4)
def patNeed (e : List Byte) : Nat := le e 20 4

/-- The header breaks R509. -/
def packHeadBad (b : List Byte) : Bool :=
  !zeros b 12 52 || 15 < le b 4 1 || kCount b == 0 || 1024 < kCount b || kBody b % 64 != 0 ||
    kBody b + 4627 != b.length || kBody b < 64 + 128 * kCount b

/-- The tensors of a pattern break the rules of its task type, as far as the pack shows them. -/
def patTensorsBad (d : List Byte) (ts : List (List Byte)) : Bool :=
  let tn := ts.map parseTensor
  let m := matOf d
  let c := parseChain (tBody d)
  if tType d == 0x01 then
    tn.any geomBad || (m.epi == 0 && matTensorsBad m (fun k => tn.getD k noTensor) (tCount d) false none)
  else if tType d == 0x10 then
    tn.any geomBad || chainTensorsBad c (fun k => tn.getD k noTensor) (tn.getD c.iter noTensor).ext false
  else false

/-- A pattern entry or one of its descriptors breaks R510 or the rules of its task type. -/
def patternBad (b : List Byte) (n : Nat) : Bool :=
  let e := patternOf b n
  let d := patTask b e
  let ts := patTensors b e
  1 < le e 0 1 || le e 2 2 == 0 || 16 < le e 2 2 || le e 2 2 ≤ le e 1 1 || kBody b < le e 4 4 + 128 ||
    kBody b < le e 8 4 + 64 * le e 2 2 || kBody b < le e 12 4 + le e 16 4 || patNeed e < le e 16 4 ||
    !zeros e 24 8 || !zeros e 96 32 ||
    commandBad (fun t => if le e 0 1 == 0 then t == 0x01 || t == 0x02 else t == 0x10) d ||
    tVmode d != 0 || tCount d != le e 2 2 || ts.any descBad || patTensorsBad d ts

/-! ### PATTERN_LOAD (R508, R511) -/

/-- The pack store (R507, R567): bytes free. -/
def packFree (p : Pkg) : Nat := 0x1000000 - (p.integ.packs.map fun k => k.bytes.length).sum

def packIn (p : Pkg) (n : Nat) : Option Pack := p.integ.packs.find? fun k => k.slot == n

/-- The payload breaks R508. -/
def loadBad (b : List Byte) : Bool :=
  let n := le b 4 4
  1 < le b 0 1 || le b 1 1 == 0 || 7 < le b 1 1 || !zeros b 2 2 || !zeros b 16 48 ||
    (if le b 0 1 == 0 then n < 4819 || 4194304 < n || !addrOk (le b 8 8) 64 n else n != 0 || le b 8 8 != 0)

/-- The pack's signature verifies under an enrolled key (R509, R511). -/
def packSigned (f : Flash) (b : List Byte) : Bool :=
  match namedKey f (le b 4 1) with
  | some key => Config.mlDsaVerify key (sha3_512 (b.take (kBody b))) (b.drop (kBody b))
  | none => false

/-- A pack that was read, in the order of R511. -/
def loadPack (w : Who) (slot : Nat) (b : List Byte) (set : Settings) (p : Pkg) : Pkg :=
  if packHeadBad b then answer w stBadParam 0 0 p
  else if !packSigned p.flash b then answer w stAuth 0 0 (log 0x0C02 stAuth 0xFFFF [] p)
  else if BitVec.toNat set.stepping != le b 5 1 then answer w stBadParam 0xFFFF 0 p
  else match (List.range (kCount b)).find? (patternBad b) with
    | some n => answer w stBadParam n 0 p
    | none =>
      if (packIn p slot).isSome then answer w stBadState 0 0 p
      else if packFree p < b.length then answer w stBadState (min 0xFFFF (packFree p / 1024)) 0 p
      else answer w stOk 0 0 { p with integ.packs := p.integ.packs ++ [⟨slot, b, le b 4 1⟩] }

def patternLoad (w : Who) (b : List Byte) (set : Settings) (p : Pkg) : Pkg :=
  let slot := le b 1 1
  if loadBad b then answer w stBadParam 0 0 p
  else if le b 0 1 == 1 then
    if (packIn p slot).isNone then answer w stBadState 0 0 p
    else answer w stOk 0 0 { p with integ.packs := p.integ.packs.filter fun k => k.slot != slot }
  else match readError set p (le b 8 8) (le b 4 4) with
    | some x => answer w stMem 0 0 (memError set x p)
    | none => loadPack w slot (readMem set p (le b 8 8) (le b 4 4)) set p

def execPatternLoad (q : Nat) (s : State) : Host.Outcome State Fault Refusal := onPacketP q 0x0B01 patternLoad s

/-! ### One run of a pattern (R510, R513) -/

/-- Add the scratch base to the field of `n` bytes at offset `o`. -/
def rebase (o n base : Nat) (bs : List Byte) : List Byte :=
  bs.take o ++ leBytes n (le bs o n + base) ++ bs.drop (o + n)

/-- A tensor descriptor with ADDR, and SCALE_ADDR where it has scales, moved to the scratch. -/
def rebaseTensor (base : Nat) (bs : List Byte) : List Byte :=
  let t := parseTensor bs
  let bs := rebase 0 6 base bs
  if t.scaled then rebase 57 6 base bs else bs

/-- A task with its addresses moved to the scratch. -/
def rebaseTask (base : Nat) (d : List Byte) : List Byte :=
  let m := matOf d
  let d := rebase 48 8 base d
  if tType d == 0x10 then d
  else
    let d := if m.epi == 0 then d else rebase 88 8 base d
    if tType d == 0x02 then rebase 72 8 base d else d

/-- The group table of a pattern in the scratch, with the addresses of its entries moved there. -/
def rebaseTable (set : Settings) (base : Nat) (d : List Byte) (ts : List (List Byte)) (p : Pkg) : Pkg :=
  if tType d != 0x02 then p
  else
    let m := parseMat true (tBody d)
    let scaled (k : Nat) : Bool := (parseTensor (ts.getD k [])).scaled
    (List.range m.gcount).foldl (fun q g =>
      let e := readMem set q (m.table + 64 * g) 64
      let e := rebase 24 6 base (rebase 12 6 base (rebase 0 6 base e))
      let e := if scaled m.a then rebase 6 6 base e else e
      writeMem set (m.table + 64 * g) (if scaled m.b then rebase 18 6 base e else e) q) p

/-- DATA goes into the slice, then the descriptors at TDESC_BASE. -/
def loadScratch (set : Settings) (base : Nat) (b e d : List Byte) (p : Pkg) : Pkg :=
  let p := writeMem set base (patData b e) p
  let p := writeMem set (tBase d) ((patTensors b e).flatMap (rebaseTensor base)) p
  rebaseTable set base d (patTensors b e) p

/-- The instance that a run of pattern `n` is, on its context; `n` is S of R142. -/
def patternInst (j1 : Bool) (n : Nat) (d : List Byte) (p : Pkg) : Inst :=
  { commandInst .nobody 0x0B02 d [.whole] p with num := n, j1, step := none, inStep := false }

/-- The task of a run as it would launch, or how it fails. -/
def patternTask (set : Settings) (i : Inst) (d : List Byte) (core : Nat) (p : Pkg) :
    Except (Nat × Option Nat) Run :=
  if tType d == 0x10 then
    let c := parseChain (tBody d)
    match prepare set p i d (chainOuts c) with
    | .fails st x => .error (st, x)
    | .go tn holds =>
      if chainTensorsBad c (fun k => tn.getD k noTensor) (tn.getD c.iter noTensor).ext false then .error (stBadParam, none)
      else .ok (chainRun set p i 0 core tn holds)
  else do
    let ps ← readProducts set p i d
    let placed ← placeProducts set p i d .whole ps
    pure (matrixRun set p i 0 core ps.1 placed.1 placed.2)

/-- A tile that the ledger refuses. -/
def tileRefused (tau : Nat) : Work → Bool
  | .tile t =>
    let te := tolerance tau t.kLen
    t.checked && (rowVerdicts t te ++ colVerdicts t te).elem .fail
  | .strip _ _ => false

def uncheck : Work → Work
  | .tile t => .tile { t with checked := false }
  | w => w

/-- The effects of R145 on the core of a pattern run, whose tile at the front of `work` the ledger refused. R516 counts the
ledger failure beside the failed run (DEDUCED, log entry 76). -/
def patternMiss (set : Settings) (r : Run) (work : List Work) (p : Pkg) : Pkg :=
  match work with
  | .tile t :: _ => countFault set r.unit (ledgerMissed r.unit r.task t (tolerance r.tau t.kLen) p)
  | _ => p

/-- Run the task of a pattern to its end, or to the first tile that its ledger refuses (R145); whether it failed. -/
def finishPattern (set : Settings) (d : List Byte) (r : Run) (p : Pkg) : Pkg × Bool :=
  let sound := r.work.takeWhile fun w => !tileRefused r.tau w
  let rest := r.work.drop sound.length
  let work := openWork (expandTile set p d 0 r) (sound.map uncheck)
  match applyFront set (fun _ => true) (fun _ => 0) work 0 p with
  | (p, _, _, some x) => (memError set x p, true)
  | (p, _, _, none) =>
    if !rest.isEmpty then (patternMiss set r rest p, true)
    else
      let p := match r.err with | some x => memError set x p | none => p
      (if r.fate == 0 then writeSummary r.iid r.summary p else p, r.fate != 0)

/-- One run of pattern `n` on a core: `true` where it fails. A unit whose hardware gives another result is the free value
`Config.patternFault` (log entry 17). -/
def runPattern (set : Settings) (j1 : Bool) (base : Nat) (b : List Byte) (n core : Nat) (p : Pkg) : Pkg × Bool :=
  let e := patternOf b n
  let d := rebaseTask base (patTask b e)
  let faulty := Config.patternFault p.free
  let p := { p with free := p.free + 1 }
  match writeError set p base (patNeed e) with
  | some x => (memError set x p, true)
  | none =>
    let p := loadScratch set base b e d p
    match patternTask set (patternInst j1 n d p) d core p with
    | .error (_, x) => (match x with | some a => memError set a p | none => p, true)
    | .ok r =>
      let (p, failed) := finishPattern set d r p
      let got := sha3_512 (messageData set p (r.tensors.getD (le e 1 1) noTensor))
      (p, failed || faulty || got != (e.drop 32).take 64)

/-! ### PATTERN_RUN (R512 to R514) -/

def rMask (b : List Byte) : Nat := le b 2 2
def rFirst (b : List Byte) : Nat := le b 4 2
def rScratch (b : List Byte) : Nat := le b 8 8
def rSize (b : List Byte) : Nat := le b 16 8
def rResults (b : List Byte) : Nat := le b 24 8

/-- The pack in a slot; slot 0 holds the resident pack of the image that runs (R507). -/
def packBytes (p : Pkg) (slot : Nat) : Option (List Byte) :=
  if slot == 0 then some (Config.residentPack p.mgt.image.body) else (packIn p slot).map (·.bytes)

/-- Patterns a command selects: none where the range leaves the pack. -/
def patternsOf (b pack : List Byte) : Option (List Nat) :=
  let n := if le b 6 2 == 0 then kCount pack - rFirst b else le b 6 2
  if rFirst b < kCount pack && rFirst b + n ≤ kCount pack then some ((List.range n).map (· + rFirst b)) else none

/-- The payload breaks R512. -/
def runBad (p : Pkg) (b : List Byte) : Bool :=
  7 < le b 0 1 || 1 < le b 1 1 || rMask b == 0 || 1 < le b 32 1 || !zeros b 33 31 || rSize b % 1024 != 0 ||
    2 ^ 48 ≤ rScratch b || rScratch b % 64 != 0 || !addrOk (rResults b) 64 512 ||
    !mayAddress p (le b 1 1 == 1) (rScratch b) (rSize b)

/-- What the runs of one grove found: the runs, and the failed ones as (pattern, core). -/
def runGrove (set : Settings) (j1 : Bool) (base : Nat) (pack : List Byte) (pats : List Nat) (g : Nat) (p : Pkg) :
    Pkg × List (Nat × Nat) :=
  (pats.flatMap fun n => (List.range 32).map fun c => (n, c)).foldl (fun acc x =>
    let r := runPattern set j1 base pack x.1 (32 * g + x.2) acc.1
    (r.1, if r.2 then acc.2 ++ [x] else acc.2)) (p, [])

/-- The result entry of a grove (R514); `fails` is absent for a grove that ran nothing. -/
def resultEntry (g : Nat) (pack : List Byte) (runs : Nat) (fails : Option (List (Nat × Nat))) (p : Pkg) : List Byte :=
  let st := match fails with | none => stGroveFenced | some [] => stOk | some _ => stLedger
  let fs := fails.getD []
  let first := fs.headD (0xFFFF, 0xFF)
  leBytes 1 g ++ leBytes 1 st ++ leBytes 2 (kId pack) ++ leBytes 2 (kVersion pack) ++
    leBytes 2 (if fails.isSome then runs else 0) ++ leBytes 2 fs.length ++ leBytes 2 first.1 ++ leBytes 1 first.2 ++
    [0, 0, 0] ++ leBytes 8 (now p) ++ List.replicate 8 0

/-- What a failed run leaves beside its result (R514, R516). -/
def noteFail (set : Settings) (count : Bool) (pack : List Byte) (pat core : Nat) (p : Pkg) : Pkg :=
  let p := log 0x0B01 stLedger core [d2 (kId pack), d2 pat, d2 core] p
  if count then countFault set core p else p

/-- Run the selected patterns on the groves of the mask, write the results and answer. -/
def runPatterns (w : Who) (b pack : List Byte) (pats : List Nat) (set : Settings) (p : Pkg) : Pkg :=
  let slice := rSize b / 16
  let j1 := le b 1 1 == 1
  let runs := 32 * pats.length
  let takes := (List.range 16).map fun g => bit (rMask b) g && groveUsable p g
  let r := (List.range 16).foldl (fun (acc : Pkg × List (Option (List (Nat × Nat)))) g =>
    if takes.getD g false then
      let x := runGrove set j1 (rScratch b + g * slice) pack pats g acc.1
      (x.1, acc.2 ++ [some x.2])
    else (acc.1, acc.2 ++ [none])) (p, [])
  let all := (List.range 16).flatMap fun g => ((r.2.getD g none).getD []).map fun x => (x.1, 32 * g + x.2)
  let p := all.foldl (fun q x => noteFail set (bit (le b 32 1) 0) pack x.1 x.2 q) r.1
  let out := (List.range 16).flatMap fun g => resultEntry g pack runs (r.2.getD g none) p
  match writeError set p (rResults b) 512 with
  | some x => answer w stMem 0 0 (memError set x p)
  | none =>
    let p := writeMem set (rResults b) out p
    match all with
    | [] => answer w stOk 0xFFFF 0 p
    | x :: _ => answer w stLedger (x.2 / 32) all.length p

def patternRun (w : Who) (b : List Byte) (set : Settings) (p : Pkg) : Pkg :=
  if runBad p b then answer w stBadParam 0 0 p
  else match packBytes p (le b 0 1) with
    | none => answer w stBadParam 0 0 p
    | some pack => match patternsOf b pack with
      | none => answer w stBadParam 0 0 p
      | some pats =>
        if pats.any fun n => rSize b / 16 < patNeed (patternOf pack n) then answer w stBadParam 0 0 p
        else if set.envAct == 3 || (if le b 1 1 == 1 then !set.filler else stepBusy p) then answer w stBadState 0 0 p
        else finish set (runPatterns w b pack pats set p)

def execPatternRun (q : Nat) (s : State) : Host.Outcome State Fault Refusal := onPacketP q 0x0B02 patternRun s

end Sys2Proof.Machine
end

