-- ==== Sys2Proof/Machine/Startup.lean ====
section
/-! DEFINITION. Start-up (R553 to R556), package reset (R535) and the phases' outcomes. -/

namespace Sys2Proof.Machine

def modBoot (f : Boot → Boot) (p : Pkg) : Pkg := { p with boot := f p.boot }

/-- Start-up is in a phase. -/
def inPhase (p : Pkg) (n : Nat) : Bool := p.boot.phase == n && !p.boot.off

/-! ### Power and qualification (R541, R553, R555) -/

/-- V36 enters its window: input qualification begins (R541, R553). A brown-out that the backup domain recorded shows in
BROWNOUT_LAST (R542). -/
def powerOn (p : Pkg) : Pkg :=
  if !p.boot.off then p
  else { p with boot := { phase := 0 }, pwr.brownoutLast := p.flash.brownout, flash.brownout := false }

def execPowerOn (s : State) : Host.Outcome State Fault Refusal := onP (fun _ p => powerOn p) s

/-- V36 has stayed within its window for 5 s (R553). -/
def execQualificationEnd (s : State) : Host.Outcome State Fault Refusal :=
  onP (fun _ p => if inPhase p 0 then modBoot (fun b => { b with phase := 1 }) p else p) s

/-- One second after a failure of phase 1 qualification begins again, up to three times (R555). -/
def execQualificationRetry (s : State) : Host.Outcome State Fault Refusal :=
  onP (fun _ p =>
    if p.boot.off && 0 < p.boot.qualFails && !p.boot.stopped then modBoot (fun b => { b with off := false, phase := 0 }) p
    else p) s

/-! ### Phases 1 and 2 -/

/-- What start-up latches from flash: the lane plan (R34, R389) and the stored FT_CONFIG (R449). -/
def latchFlash (s : State) : State :=
  let f := s.p.flash
  { s with
    set := { s.set with lanes := s.set.nextPlan }
    p := { s.p with ft.priority := f.ftPriority, ft.parentMask := f.ftMask, ft.uncertLimit := f.ftLimit } }

/-- The boot ROM runs: the boot is counted and entry 0 of the log is written (R570); a calendar that stopped is invalid
(R453). -/
def bootRom (p : Pkg) : Pkg :=
  let n := (p.flash.bootCount + 1) % 2 ^ 32
  let p := if p.cal.stopFlag then { invalidateCal p with cal.stopFlag := false } else p
  log 0x0C04 0 0xFFFF [d4 n] { p with flash.bootCount := n }

/-- Phase 1 ends: with the rails up, the boot ROM runs; without, the converters stop (R555). -/
def phase1 (railsOk : Bool) (s : State) : State :=
  if !inPhase s.p 1 then s
  else if railsOk then
    let s := latchFlash s
    { s with p := modBoot (fun b => { b with phase := 2, qualFails := 0 }) (bootRom s.p) }
  else
    { s with p := modBoot (fun b => { b with
        off := true, phase := 0, qualFails := b.qualFails + 1, stopped := 3 < b.qualFails + 1 }) s.p }

def execPhase1End (railsOk : Bool) (s : State) : Host.Outcome State Fault Refusal := .next (phase1 railsOk s)

/-- Phase 2 ends: the verified image runs, or recovery wait begins (R553, R555, R579). The host link is up. -/
def phase2 (p : Pkg) : Pkg :=
  if !inPhase p 2 || p.boot.recovery then p
  else
    let p := { p with host.linkUp := true }
    match p.flash.image with
    | some i =>
      if i.valid then { modBoot (fun b => { b with phase := 3 }) p with mgt.image := i }
      else modBoot (fun b => { b with recovery := true }) p
    | none => modBoot (fun b => { b with recovery := true }) p

def execPhase2End (s : State) : Host.Outcome State Fault Refusal := onP (fun _ p => phase2 p) s

/-! ### Phases 3 to 7 -/

/-- R428's checks in order: the reason a die is not released, if any. -/
def releaseReason (r : DieReport) : Option Nat :=
  match r.cap with
  | none => some 5
  | some c =>
    if c.kind != 0 || c.groups != 128 || c.groves != 4 then some 5
    else if c.levelMax < 1 || 1 < c.levelMin then some 1
    else if r.failedGroup.isSome then some 2
    else none

/-- One die at the end of phase 3 (R427, R428). -/
def releaseDie (set : Settings) (d : Nat) (r : DieReport) (p : Pkg) : Pkg :=
  let p := sendCap set d p
  match releaseReason r with
  | some reason =>
    modDie d (fun x => { x with
      state := .notReleased, reason, level := 0, cap := r.cap
      failedGroup := if reason == 2 then r.failedGroup.getD 0xFF else 0xFF }) p
  | none =>
    sendRoles d (modDie d (fun x => { x with level := 1, cap := r.cap, failedGroup := 0xFF }) (setDie d .up 0 p))

def phase3 (reports : List DieReport) (set : Settings) (p : Pkg) : Pkg :=
  if !inPhase p 3 then p
  else
    let p := (List.range 4).foldl (fun q d => releaseDie set d (reports.getD d ⟨none, none⟩) q) p
    refresh (modBoot (fun b => { b with phase := 4 }) p)

def execPhase3End (dies : List DieReport) (s : State) : Host.Outcome State Fault Refusal :=
  onP (phase3 dies) s

/-- Phase 4 ends: every trained stack reads 0, every other is failed (R555, R587); the clocks start at ENV_ACT (R554). -/
def phase4 (failed : List Nat) (s : State) : State :=
  if !inPhase s.p 4 then s
  else
    let bad := (List.range 16).filter failed.elem
    let p := { s.p with
      mem.cells := [], mem.bad := []
      mem.trained := ((List.range 16).filter fun k => !bad.elem k).foldl setBit 0 }
    let p := bad.foldl (fun q k => failStack k q) p
    let s := { s with p := modBoot (fun b => { b with phase := 5 }) p }
    setEnvAct (envGiven s.set.env s.p.pwr) s

def execPhase4End (failed : List Nat) (s : State) : Host.Outcome State Fault Refusal := .next (phase4 failed s)

/-- A grove that fails its probe is fenced, with fault count 15 on the failing core (R555). -/
def failGrove (set : Settings) (x : Nat × Nat) (p : Pkg) : Pkg :=
  fenceGrove set x.1 false
    { p with integ.faults := modAt p.integ.faults (32 * x.1 + x.2) fun _ => 15 }

/-- Ports begin to train (R390). -/
def startPorts (set : Settings) (p : Pkg) : Pkg :=
  (List.range (portCount set.lanes)).foldl (fun q i =>
    setPortState i .training (modPort i (fun x => { x with phase := .detect, reason := 0 }) q)) p

/-- Phase 5 ends: `failed` names groves and the core-in-grove at fault; the ports train (R553, R555). -/
def phase5 (failed : List (Nat × Nat)) (set : Settings) (p : Pkg) : Pkg :=
  if !inPhase p 5 then p
  else
    let p := (failed.filter fun x => x.1 < 16 && x.2 < 32).foldl (fun q x => failGrove set x q) p
    startPorts set (modBoot (fun b => { b with phase := 6 }) p)

def execPhase5End (failed : List (Nat × Nat)) (s : State) : Host.Outcome State Fault Refusal := onP (phase5 failed) s

/-- Phase 6 ends when every port is UP or DOWN (R553); fabric time begins to listen (R446). -/
def phase6 (set : Settings) (p : Pkg) : Pkg :=
  if inPhase p 6 && p.links.ports.all fun q => q.state == .up || q.state == .down then
    beginListen set.serial (modBoot (fun b => { b with phase := 7 }) p)
  else p

def execPhase6End (s : State) : Host.Outcome State Fault Refusal := onP phase6 s

/-- Phase 7 ends once fabric time is LOCKED, or at its bound with STATE at FREE (R446, R555). -/
def execPhase7End (s : State) : Host.Outcome State Fault Refusal :=
  onP (fun _ p => if inPhase p 7 then modBoot (fun b => { b with phase := 8 }) p else p) s

/-- READY (R488, R553); the fused security version follows the image's (R580). -/
def ready (p : Pkg) : Pkg :=
  if inPhase p 8 && !p.boot.ready then
    raise 384 { p with boot.ready := true, flash.fusedSvn := max p.flash.fusedSvn p.mgt.image.svn }
  else p

def execReady (s : State) : Host.Outcome State Fault Refusal := onP (fun _ p => ready p) s

/-! ### Package reset (R535) -/

/-- The OK of a RESET_UNIT at level PACKAGE is still to be posted. -/
def resetUnposted (p : Pkg) : Bool := p.host.queues.any fun q => q.due.any fun r => r.opcode == 0x0D01 && r.status == stOk

/-- The machine as a package reset leaves it: start-up begins at phase 1. Flash, fuses, the calendar, the presence of the
REFTIME clock and PERST_N are outside it. -/
def afterReset (s : State) : State :=
  { s with
    set := restarted s.set
    p := {
      mgt := { image := s.p.mgt.image }
      flash := s.p.flash
      cal := { s.p.cal with waits := [], hiLatch := none }
      ft := { refclk := s.p.ft.refclk }
      out := s.p.out
      free := s.p.free
      host := { perst := s.p.host.perst } } }

def packageReset (s : State) : State :=
  if s.p.boot.resetDue && !resetUnposted s.p && !s.p.boot.off then afterReset s else s

def execPackageReset (s : State) : Host.Outcome State Fault Refusal := .next (packageReset s)

end Sys2Proof.Machine
end

