-- ==== Sys2Proof/Machine/Wdi.lean ====
section
/-! DEFINITION. The Worah Die Interface (R421 to R426, R430, R465): flits that arrive, requests, a group's retrain. -/

namespace Sys2Proof.Machine

/-! ### Requests (R424) -/

/-- The elements of an accumulate: of the format the operation names. -/
def accumVals (r : WdiReq) (data : List Byte) : List (Nat × W32) :=
  let wide := r.op == 2
  let n := if wide then 4 else 2
  (List.range (64 * r.len / n)).map fun i =>
    (r.addr + n * i, decodeF32 (if wide then .fp32 else .bf16) (le data (n * i) n) none)

def accumOps (r : WdiReq) (data : List Byte) : List WOp :=
  (accumVals r data).map fun x => .accum 0xFFFF x.1 (r.op == 2) x.2

/-- The quadrant whose stacks hold a block (R365). -/
def quadrantOf (set : Settings) (a : Nat) : Nat := stackOf set a / 4

/-- The role of the group carries the request (R422): MEM those for the die's own stacks; XDIE those for the stacks and
units of the quadrant DEST, which is not the die's own, or of the base die; COLL accumulates; CTRL the operations. What a
role does not carry is answered BAD_PARAM (DESIGN CHOICE, log entry 84). -/
def carries (set : Settings) (d g dest : Nat) (r : WdiReq) : Bool :=
  match roleOf g with
  | 0 => r.op < 4 && quadrantOf set r.addr == d
  | 1 => if r.op < 4 then dest < 4 && dest != d && quadrantOf set r.addr == dest else dest < 5 && dest != d
  | 2 => r.op == 2 || r.op == 3
  | _ => 4 ≤ r.op

/-- A request with a fault of its own, or one that leaves the stack region (R424). -/
def reqBad (set : Settings) (d g dest : Nat) (r : WdiReq) (data : List Byte) : Bool :=
  7 < r.op || 1 < r.ctx ||
    (r.op < 4 && ((r.len != 1 && r.len != 2) || r.addr % 64 != 0 || !inStack r.addr (64 * r.len))) ||
    (1 ≤ r.op && r.op < 4 && data.length < 64 * r.len) || !carries set d g dest r

/-- An access of a die's unit that met an uncorrectable error: its task in that context fails (R378). -/
def failIssuer (set : Settings) (r : WdiReq) (p : Pkg) : Pkg :=
  failRuns set (fun x => x.unit == r.unit && x.j1 == (r.ctx == 1)) (fun _ => stMem) p

/-- The running reduction into whose DST an accumulate on a COLL group goes, while sources wait for each other in their
slots (R312, R372). -/
def slotColl (set : Settings) (p : Pkg) (g : Nat) (r : WdiReq) : Option Coll :=
  if roleOf g != 2 || set.arrival then none
  else p.colls.running.find? fun c =>
    let t := dstOf c
    c.ctx.isSome && (c.type == 0x40 || c.type == 0x42) && r.slot < (cSources c.body).length &&
      t.addr ≤ r.addr && r.addr < t.addr + t.size * elemBytes t

/-- An operand goes into its slot; with the last of its sources the sum of R312 is added to the destination (R372; which
accumulates have a slot is a DESIGN CHOICE, log entry 85). -/
def takeOperand (set : Settings) (c : Coll) (r : WdiReq) (data : List Byte) (p : Pkg) : Pkg × Option Nat :=
  let wide := r.op == 2
  let here (s : SlotIn) : Bool := s.addr == r.addr && s.wide == wide
  let mine : SlotIn := ⟨r.addr, wide, r.slot, (accumVals r data).map (·.2)⟩
  let slots := c.slots.filter (fun s => !(here s && s.slot == r.slot)) ++ [mine]
  let parts := (List.range (cSources c.body).length).filterMap fun i => slots.find? fun s => here s && s.slot == i
  if parts.length < (cSources c.body).length then
    (modColl c.iid c.task (fun c => { c with slots := slots }) p, none)
  else
    let n := if wide then 4 else 2
    let vs := sumSources (parts.map (·.vals))
    applyOps set (((List.range vs.length).zip vs).map fun x => .accum (dstOf c).hslot (r.addr + n * x.1) wide x.2)
      (modColl c.iid c.task (fun c => { c with slots := slots.filter fun s => !here s }) p)

/-- A READ, WRITE or accumulate (R371, R372, R378, R379, R424). -/
def memRequest (d g : Nat) (r : WdiReq) (data : List Byte) (set : Settings) (p : Pkg) : Pkg :=
  let n := 64 * r.len
  let fails (x : Nat) (p : Pkg) : Pkg := respond d g r.tag stMem [] (failIssuer set r (memError set x p))
  if r.op == 0 then
    match readError set p r.addr n with
    | some x => fails x p
    | none => respond d g r.tag stOk (readMem set p r.addr n) p
  else
    match (if r.op == 1 then applyOps set [.bytes r.addr (data.take n)] p
           else match slotColl set p g r with
             | some c => takeOperand set c r data p
             | none => applyOps set (accumOps r data) p) with
    | (p, some x) => fails x p
    | (p, none) => respond d g r.tag stOk [] p

/-- A control core's signal that it ends its service (R464, R465): byte 4 of ARG is 1 and all others 0. -/
def endsService (r : WdiReq) : Bool := r.op == 7 && padTo 17 r.arg == [0, 0, 0, 0, 1] ++ List.replicate 12 0

/-- The end of service of a firmware target. -/
def endService (t : Nat) (p : Pkg) : Pkg :=
  if t ≤ 16 && p.ic.running.getD t [] != [] then
    icDeliver t { p with ic.running := modAt p.ic.running t fun st => st.drop 1 }
  else p

/-- A CTRL operation for another die's unit crosses the network and waits there; a die that is not UP has it completed
with DIE_FENCED (R25, R426, R430). -/
def forward (d g dest : Nat) (r : WdiReq) (p : Pkg) : Pkg :=
  if (p.dies.getD dest {}).state == .up then sendRequest dest (some (d, g, r.tag)) r p
  else respond d g r.tag stDieFenced [] p

/-- A request entry is served (R424); those of a die that is not UP are discarded (R430). A CTRL operation for the base
die completes OK: what its ARG carries is laid out only for INTERRUPT (log entry 23). -/
def serveRequest (d g dest : Nat) (r : WdiReq) (data : List Byte) (set : Settings) (p : Pkg) : Pkg :=
  if (p.dies.getD d {}).state != .up then p
  else if reqBad set d g dest r data then respond d g r.tag stBadParam [] p
  else if r.op < 4 then memRequest d g r data set p
  else if roleOf g == 1 && dest < 4 then forward d g dest r p
  else
    let t := r.unit - 0x0200
    let mine := 0x0200 ≤ r.unit && r.unit < 0x0210 && t / 4 == d
    respond d g r.tag stOk [] (if endsService r && mine then endService t p else p)

/-- The errors that the codes find in the request's access (R377); then it is served. -/
def execWdiRequest (die : Nat) (req : WdiReq) (data : List Byte) (s : State) (group : Nat := 0) (dest : Nat := 0)
    (errs : List MemErr := []) :
    Host.Outcome State Fault Refusal :=
  onP (fun set p =>
    serveRequest die group dest req data set (if (p.dies.getD die {}).state == .up then foundErrors errs p else p)) s

/-! ### A group's retrain (R425) -/

/-- A group begins to retrain. -/
def groupRetrain (d g : Nat) (p : Pkg) : Pkg :=
  if (p.dies.getD d {}).state == .up && g < 128 then modLaneGroup d g (fun y => { y with retraining := true }) p else p

/-- A group fails: the die is fenced and given rung 3 (R425, R430, R527). -/
def groupFails (d g : Nat) (set : Settings) (p : Pkg) : Pkg :=
  if (p.dies.getD d {}).state != .up then p
  else loseDie d 2 4 set (modDie d (fun x => { x with failedGroup := g }) p)

def execWdiGroupRetrain (die group : Nat) (s : State) : Host.Outcome State Fault Refusal :=
  onP (fun _ p => groupRetrain die group p) s

/-- The retrain ends: the group serves again, its flits resent, or it is failed. -/
def retrainEnds (d g : Nat) (ok : Bool) (set : Settings) (p : Pkg) : Pkg :=
  if (p.dies.getD d {}).state != .up || !(laneGroup p d g).retraining then p
  else
    let p := modLaneGroup d g (fun y => { y with retraining := false, frontReplays := 0 }) p
    if ok then drainFlits d g (replayFlits d g p) else groupFails d g set p

def execWdiGroupRetrainEnd (die group : Nat) (ok : Bool) (s : State) : Host.Outcome State Fault Refusal :=
  onP (retrainEnds die group ok) s

/-! ### Flits that arrive (R423, R425) -/

/-- A failed flit is discarded with every later one until replay, and a NAK is returned for each that fails (R425). -/
def badFlit (d g : Nat) (p : Pkg) : Pkg :=
  let p := modDie d (fun x => { x with crc := satAdd 0xFFFF x.crc 1, replay := satAdd 0xFFFF x.replay 1 }) p
  idleFlit d g true (detect 4 (modLaneGroup d g (fun y => { y with skipping := true }) p))

/-- The flits that an ACK releases from the replay buffer: those up to the one it names. -/
def afterAck (ack : Nat) (l : List (FlitHdr × List Byte)) : List (FlitHdr × List Byte) :=
  if l.any fun x => x.1.seq == ack then (l.dropWhile fun x => x.1.seq != ack).drop 1 else l

/-- ACK, NAK and credits of a flit (R423, R425): a NAK has the flits after ACK sent again; a group that replays one flit
8 times retrains. -/
def takeFlitLink (d g : Nat) (h : FlitHdr) (p : Pkg) : Pkg :=
  let y := laneGroup p d g
  let left := afterAck h.ack y.sent
  let again := h.nak && !left.isEmpty
  let p := modLaneGroup d g (fun y => { y with
    sent := left, frontReplays := (if left.length == y.sent.length then y.frontReplays else 0) + b2n again
    credits := modAt y.credits h.cflow fun c => c + h.credit }) p
  let p := if again then replayFlits d g p else p
  drainFlits d g (if 8 ≤ (laneGroup p d g).frontReplays then groupRetrain d g p else p)

/-- A completion from a die ends what waited under its TAG (R424); an entry of zeros is not in use. -/
def takeCompletion (d : Nat) (b : List Byte) (p : Pkg) : Pkg :=
  match (p.dies.getD d {}).waiting.find? fun w => w.tag == le b 0 2 with
  | some w =>
    completeWait w (le b 2 1) (modDie d (fun x => { x with waiting := x.waiting.filter fun v => v.tag != w.tag }) p)
  | none => p

/-- One entry of a REQ flit: a write or an accumulate waits for its data, everything else is served; an entry of zeros is
not in use. -/
def takeEntry (d g dest : Nat) (set : Settings) (b : List Byte) (p : Pkg) : Pkg :=
  let r := reqOf b
  if b.all (· == 0) then p
  else if 1 ≤ r.op && r.op < 4 then modLaneGroup d g (fun y => { y with data := y.data ++ [r] }) p
  else serveRequest d g dest r [] set p

/-- A DATA flit completes the write or accumulate of its TAG (R424). -/
def takeFlitData (d g dest tag : Nat) (data : List Byte) (set : Settings) (p : Pkg) : Pkg :=
  match (laneGroup p d g).data.find? fun r => r.tag == tag with
  | some r =>
    serveRequest d g dest r data set
      (modLaneGroup d g (fun y => { y with data := y.data.filter fun q => q.tag != tag }) p)
  | none => p

/-- What a flit that is taken in carries (R423, R424): a CAP or FENCE flit of a die that is UP asks for nothing. -/
def useFlit (d g : Nat) (h : FlitHdr) (data : List Byte) (set : Settings) (p : Pkg) : Pkg :=
  match h.type with
  | 1 => (chunksOf 32 4 data).foldl (fun q b => takeEntry d g h.dest set b q) p
  | 2 => takeFlitData d g h.dest h.tag data set p
  | 3 => (chunksOf 16 8 data).foldl (fun q b => takeCompletion d b q) p
  | _ => p

/-- ACK and credits that no other flit took along go back with an IDLE flit. -/
def acknowledge (d g : Nat) (p : Pkg) : Pkg :=
  if (p.dies.getD d {}).state == .up && !(laneGroup p d g).retraining && (laneGroup p d g).owed.any (0 < ·) then
    idleFlit d g false p
  else p

/-- A good flit: an IDLE flit gives its link fields, while flits are not being discarded; another in SEQ order is taken;
one out of order is to be replayed, and is counted among the replayed flits. -/
def goodFlit (d g : Nat) (h : FlitHdr) (data : List Byte) (set : Settings) (p : Pkg) : Pkg :=
  let y := laneGroup p d g
  if h.type == 0 then (if y.skipping then p else takeFlitLink d g h p)
  else if h.seq != y.rxSeq then modDie d (fun x => { x with replay := satAdd 0xFFFF x.replay 1 }) p
  else
    let p := modLaneGroup d g (fun y => { y with
      rxSeq := (y.rxSeq + 1) % 1024, skipping := false, owed := modAt y.owed h.flow fun n => n + 1 }) p
    acknowledge d g (useFlit d g h data set (takeFlitLink d g h p))

/-- A flit crosses the network to another quadrant, where its CRC is checked again (R426). -/
def crosses (d g : Nat) (h : FlitHdr) : Bool := roleOf g == 1 && h.dest < 4 && h.dest != d

/-- A flit arrives; those of a die that is not UP are discarded (R430), and a group that retrains carries none. `far` is
the check at the far quadrant: what fails it is treated as failed on arrival (DESIGN CHOICE, log entry 84). -/
def takeFlit (d g : Nat) (h : FlitHdr) (data : List Byte) (crc : Nat) (far : Bool) (errs : List MemErr) (set : Settings)
    (p : Pkg) : Pkg :=
  if (p.dies.getD d {}).state != .up || 128 ≤ g || (laneGroup p d g).retraining then p
  else if crc == flitCrc h data && (far || !crosses d g h) then goodFlit d g h (padTo 128 data) set (foundErrors errs p)
  else badFlit d g p

def execWdiFlitReceive (die group : Nat) (h : FlitHdr) (data : List Byte) (crc : Nat) (s : State) (far : Bool := true)
    (errs : List MemErr := []) : Host.Outcome State Fault Refusal :=
  onP (takeFlit die group h data crc far errs) s

end Sys2Proof.Machine
end

