-- ==== Sys2Proof/Machine/Dispatch.lean ====
section
/-! DEFINITION. The dispatch: one arm for each command. -/

namespace Sys2Proof.Machine

def exec (i : Instr) (s : State) : Host.Outcome State Fault Refusal :=
  match i with
  | .nop r => Sys2Proof.Machine.execNop r s
  | .identify r => Sys2Proof.Machine.execIdentify r s
  | .setMode q => Sys2Proof.Machine.execSetMode q s
  | .getStatus r => Sys2Proof.Machine.execGetStatus r s
  | .linkConfig q => Sys2Proof.Machine.execLinkConfig q s
  | .copy q => Sys2Proof.Machine.execCopy q s
  | .fillerConfig q => Sys2Proof.Machine.execFillerConfig q s
  | .matmul q => Sys2Proof.Machine.execMatmul q s
  | .groupedMatmul q => Sys2Proof.Machine.execGroupedMatmul q s
  | .vchain q => Sys2Proof.Machine.execVchain q s
  | .taskGraphSubmit q => Sys2Proof.Machine.execTaskGraphSubmit q s
  | .branchTableLoad q => Sys2Proof.Machine.execBranchTableLoad q s
  | .hollowConfig q => Sys2Proof.Machine.execHollowConfig q s
  | .ringConfig q => Sys2Proof.Machine.execRingConfig q s
  | .stageConfig q => Sys2Proof.Machine.execStageConfig q s
  | .fixtureLoad q => Sys2Proof.Machine.execFixtureLoad q s
  | .collGroupConfig q => Sys2Proof.Machine.execCollGroupConfig q s
  | .collStart q => Sys2Proof.Machine.execCollStart q s
  | .retract q => Sys2Proof.Machine.execRetract q s
  | .reshard q => Sys2Proof.Machine.execReshard q s
  | .stepOpen q => Sys2Proof.Machine.execStepOpen q s
  | .stepSeal q => Sys2Proof.Machine.execStepSeal q s
  | .stepCommit q => Sys2Proof.Machine.execStepCommit q s
  | .stepAbort q => Sys2Proof.Machine.execStepAbort q s
  | .updateConfig q => Sys2Proof.Machine.execUpdateConfig q s
  | .healthRead q => Sys2Proof.Machine.execHealthRead q s
  | .ftStatus q => Sys2Proof.Machine.execFtStatus q s
  | .calSet q => Sys2Proof.Machine.execCalSet q s
  | .ftConfig q => Sys2Proof.Machine.execFtConfig q s
  | .patternLoad q => Sys2Proof.Machine.execPatternLoad q s
  | .patternRun q => Sys2Proof.Machine.execPatternRun q s
  | .fwStage r => Sys2Proof.Machine.execFwStage r s
  | .fwInstall r => Sys2Proof.Machine.execFwInstall r s
  | .attest r => Sys2Proof.Machine.execAttest r s
  | .logRead r => Sys2Proof.Machine.execLogRead r s
  | .resetUnit r => Sys2Proof.Machine.execResetUnit r s
  | .dumpRead r => Sys2Proof.Machine.execDumpRead r s
  | .sensorRead via => Sys2Proof.Machine.execSensorRead via s
  | .alertRead via => Sys2Proof.Machine.execAlertRead via s
  | .keyEnrol via body => Sys2Proof.Machine.execKeyEnrol via body s
  | .setEndpointId via eid => Sys2Proof.Machine.execSetEndpointId via eid s
  | .getEndpointId via => Sys2Proof.Machine.execGetEndpointId via s
  | .getMctpVersionSupport via => Sys2Proof.Machine.execGetMctpVersionSupport via s
  | .getMessageTypeSupport via => Sys2Proof.Machine.execGetMessageTypeSupport via s
  | .alertResponseAddress => Sys2Proof.Machine.execAlertResponseAddress s
  | .hostSqBell q value => Sys2Proof.Machine.execHostSqBell q value s
  | .hostCqBell q value => Sys2Proof.Machine.execHostCqBell q value s
  | .queueEnable q => Sys2Proof.Machine.execQueueEnable q s
  | .queueDisable q => Sys2Proof.Machine.execQueueDisable q s
  | .queueDrained q => Sys2Proof.Machine.execQueueDrained q s
  | .queueResume q => Sys2Proof.Machine.execQueueResume q s
  | .queueFlush q resume => Sys2Proof.Machine.execQueueFlush q resume s
  | .hostFenceWrite f value => Sys2Proof.Machine.execHostFenceWrite f value s
  | .packetRead q bytes => Sys2Proof.Machine.execPacketRead q bytes s
  | .sqFetchError q => Sys2Proof.Machine.execSqFetchError q s
  | .replyPost q => Sys2Proof.Machine.execReplyPost q s
  | .hostWriteError q => Sys2Proof.Machine.execHostWriteError q s
  | .pkgMemMapWrite value => Sys2Proof.Machine.execPkgMemMapWrite value s
  | .icPendClear w value => Sys2Proof.Machine.execIcPendClear w value s
  | .icMaskSet w value => Sys2Proof.Machine.execIcMaskSet w value s
  | .icMaskClr w value => Sys2Proof.Machine.execIcMaskClr w value s
  | .icMaskWrite w value => Sys2Proof.Machine.execIcMaskWrite w value s
  | .icSrcPrioWrite src value => Sys2Proof.Machine.execIcSrcPrioWrite src value s
  | .icSrcTargetWrite src value => Sys2Proof.Machine.execIcSrcTargetWrite src value s
  | .icThreshWrite target value => Sys2Proof.Machine.execIcThreshWrite target value s
  | .icBell value => Sys2Proof.Machine.execIcBell value s
  | .ftNowLoRead wide => Sys2Proof.Machine.execFtNowLoRead wide s
  | .calTimeLoRead => Sys2Proof.Machine.execCalTimeLoRead s
  | .mgtLogSeqLoRead => Sys2Proof.Machine.execMgtLogSeqLoRead s
  | .mgtAlertClear value => Sys2Proof.Machine.execMgtAlertClear value s
  | .mgtAlertMaskWrite value => Sys2Proof.Machine.execMgtAlertMaskWrite value s
  | .pwrLimitWrite value => Sys2Proof.Machine.execPwrLimitWrite value s
  | .msixEnable enable masked cfg => Sys2Proof.Machine.execMsixEnable enable masked s cfg
  | .bar2Read offset len errs => Sys2Proof.Machine.execBar2Read offset len s errs
  | .bar2Write offset data errs => Sys2Proof.Machine.execBar2Write offset data s errs
  | .registerWrite offset size value => Sys2Proof.Machine.execRegisterWrite offset size value s
  | .perstN asserted => Sys2Proof.Machine.execPerstN asserted s
  | .matrixProduct inst task => Sys2Proof.Machine.execMatrixProduct inst task s
  | .groupedMatrixProduct inst task => Sys2Proof.Machine.execGroupedMatrixProduct inst task s
  | .vectorChain inst task => Sys2Proof.Machine.execVectorChain inst task s
  | .push inst task => Sys2Proof.Machine.execPush inst task s
  | .drain inst task => Sys2Proof.Machine.execDrain inst task s
  | .segmentRelease inst task => Sys2Proof.Machine.execSegmentRelease inst task s
  | .send inst task => Sys2Proof.Machine.execSend inst task s
  | .sendTransmit inst task => Sys2Proof.Machine.execSendTransmit inst task s
  | .reduceScatter inst task => Sys2Proof.Machine.execReduceScatter inst task s
  | .allGather inst task => Sys2Proof.Machine.execAllGather inst task s
  | .allReduce inst task => Sys2Proof.Machine.execAllReduce inst task s
  | .permute inst task => Sys2Proof.Machine.execPermute inst task s
  | .copyTask inst task => Sys2Proof.Machine.execCopyTask inst task s
  | .join inst task => Sys2Proof.Machine.execJoin inst task s
  | .branch inst task => Sys2Proof.Machine.execBranch inst task s
  | .taskComplete inst task errs => Sys2Proof.Machine.execTaskComplete inst task s errs
  | .j1TileEnd core => Sys2Proof.Machine.execJ1TileEnd core s
  | .prefetch inst task => Sys2Proof.Machine.execPrefetch inst task s
  | .tileLedgerCheck inst task faults => Sys2Proof.Machine.execTileLedgerCheck inst task faults s
  | .shadowCompare inst task strip stage lane shadow pass => Sys2Proof.Machine.execShadowCompare inst task strip stage lane shadow s pass
  | .shadowIndexAdvance core => Sys2Proof.Machine.execShadowIndexAdvance core s
  | .fixtureLaunch stage => Sys2Proof.Machine.execFixtureLaunch stage s
  | .fixtureHung stage => Sys2Proof.Machine.execFixtureHung stage s
  | .stageMessageReceive h data => Sys2Proof.Machine.execStageMessageReceive h data s
  | .stageCreditReceive h => Sys2Proof.Machine.execStageCreditReceive h s
  | .stageResetReceive h => Sys2Proof.Machine.execStageResetReceive h s
  | .collDataReceive h payload digest errs => Sys2Proof.Machine.execCollDataReceive h payload digest s errs
  | .collPrepassReceive h payload digest => Sys2Proof.Machine.execCollPrepassReceive h payload digest s
  | .collVerdictReceive h digest => Sys2Proof.Machine.execCollVerdictReceive h digest s
  | .retractReceive h digest => Sys2Proof.Machine.execRetractReceive h digest s
  | .reshardPieceReceive h payload digest => Sys2Proof.Machine.execReshardPieceReceive h payload digest s
  | .reshardAckReceive h digest => Sys2Proof.Machine.execReshardAckReceive h digest s
  | .sealComplete => Sys2Proof.Machine.execSealComplete s
  | .sealTimeout => Sys2Proof.Machine.execSealTimeout s
  | .closingSweep failed => Sys2Proof.Machine.execClosingSweep failed s
  | .commitComplete shadowFault => Sys2Proof.Machine.execCommitComplete shadowFault s
  | .abortComplete => Sys2Proof.Machine.execAbortComplete s
  | .hppFrameReceive port frame fecOk corrected lane => Sys2Proof.Machine.execHppFrameReceive port frame fecOk corrected s lane
  | .frameForward port => Sys2Proof.Machine.execFrameForward port s
  | .helloReceive port h => Sys2Proof.Machine.execHelloReceive port h s
  | .portTrainingPhaseEnd port laneRev deskew => Sys2Proof.Machine.execPortTrainingPhaseEnd port laneRev s deskew
  | .portTrainingTimeout port => Sys2Proof.Machine.execPortTrainingTimeout port s
  | .portRetrain port => Sys2Proof.Machine.execPortRetrain port s
  | .portDown port => Sys2Proof.Machine.execPortDown port s
  | .wdiFlitReceive die group h data crc far errs => Sys2Proof.Machine.execWdiFlitReceive die group h data crc s far errs
  | .wdiRequest die req data group dest errs => Sys2Proof.Machine.execWdiRequest die req data s group dest errs
  | .wdiGroupRetrain die group => Sys2Proof.Machine.execWdiGroupRetrain die group s
  | .interruptEndOfService target => Sys2Proof.Machine.execInterruptEndOfService target s
  | .dieClockLoss die => Sys2Proof.Machine.execDieClockLoss die s
  | .dieClockReturn die report => Sys2Proof.Machine.execDieClockReturn die report s
  | .timeReqSend port => Sys2Proof.Machine.execTimeReqSend port s
  | .timeReqReceive port m => Sys2Proof.Machine.execTimeReqReceive port m s
  | .timeRespReceive port m => Sys2Proof.Machine.execTimeRespReceive port m s
  | .timeRespTimeout port => Sys2Proof.Machine.execTimeRespTimeout port s
  | .rootLoss => Sys2Proof.Machine.execRootLoss s
  | .listenEnd => Sys2Proof.Machine.execListenEnd s
  | .reftimeMark => Sys2Proof.Machine.execReftimeMark s
  | .markMiss => Sys2Proof.Machine.execMarkMiss s
  | .reftimeLoss => Sys2Proof.Machine.execReftimeLoss s
  | .reftimeRestore => Sys2Proof.Machine.execReftimeRestore s
  | .calSetLoad => Sys2Proof.Machine.execCalSetLoad s
  | .calMiss => Sys2Proof.Machine.execCalMiss s
  | .watchdogExpiry unit ctx => Sys2Proof.Machine.execWatchdogExpiry unit ctx s
  | .checkerProbe unit pass => Sys2Proof.Machine.execCheckerProbe unit pass s
  | .faultDecay => Sys2Proof.Machine.execFaultDecay s
  | .crashItemTimeout kind index => Sys2Proof.Machine.execCrashItemTimeout kind index s
  | .crashRecordCollected => Sys2Proof.Machine.execCrashRecordCollected s
  | .rungComplete probePass => Sys2Proof.Machine.execRungComplete probePass s
  | .rungTimeout => Sys2Proof.Machine.execRungTimeout s
  | .stackScrub stack corrected bad => Sys2Proof.Machine.execStackScrub stack corrected bad s
  | .stackInterfaceLoss stack => Sys2Proof.Machine.execStackInterfaceLoss stack s
  | .mgtWatchdogRestart => Sys2Proof.Machine.execMgtWatchdogRestart s
  | .mgtRestartComplete => Sys2Proof.Machine.execMgtRestartComplete s
  | .fwFlashWriteDone => Sys2Proof.Machine.execFwFlashWriteDone s
  | .packageReset => Sys2Proof.Machine.execPackageReset s
  | .powerOn => Sys2Proof.Machine.execPowerOn s
  | .qualificationEnd => Sys2Proof.Machine.execQualificationEnd s
  | .phase1End railsOk => Sys2Proof.Machine.execPhase1End railsOk s
  | .phase2End => Sys2Proof.Machine.execPhase2End s
  | .phase3End dies => Sys2Proof.Machine.execPhase3End dies s
  | .phase4End failed => Sys2Proof.Machine.execPhase4End failed s
  | .phase5End failed => Sys2Proof.Machine.execPhase5End failed s
  | .phase6End => Sys2Proof.Machine.execPhase6End s
  | .phase7End => Sys2Proof.Machine.execPhase7End s
  | .ready => Sys2Proof.Machine.execReady s
  | .supplyUnder vin => Sys2Proof.Machine.execSupplyUnder vin s
  | .supplyOver vin => Sys2Proof.Machine.execSupplyOver vin s
  | .supplyNormal vin => Sys2Proof.Machine.execSupplyNormal vin s
  | .brownOut vin => Sys2Proof.Machine.execBrownOut vin s
  | .connectorOpen ia ib => Sys2Proof.Machine.execConnectorOpen ia ib s
  | .connectorHoldRelease ia ib => Sys2Proof.Machine.execConnectorHoldRelease ia ib s
  | .currentHold ia ib => Sys2Proof.Machine.execCurrentHold ia ib s
  | .currentHoldRelease ia ib => Sys2Proof.Machine.execCurrentHoldRelease ia ib s
  | .powerHold watts => Sys2Proof.Machine.execPowerHold watts s
  | .powerHoldRelease watts => Sys2Proof.Machine.execPowerHoldRelease watts s
  | .thermalHold sensor temp => Sys2Proof.Machine.execThermalHold sensor temp s
  | .thermalHoldRelease temps => Sys2Proof.Machine.execThermalHoldRelease temps s
  | .envActRise => Sys2Proof.Machine.execEnvActRise s
  | .corePark core => Sys2Proof.Machine.execCorePark core s
  | .thermalTrip sensor temp => Sys2Proof.Machine.execThermalTrip sensor temp s
  | .tripRecovery die temps => Sys2Proof.Machine.execTripRecovery die temps s
  | .railFault r => Sys2Proof.Machine.execRailFault r s
  | .railRecovery die => Sys2Proof.Machine.execRailRecovery die s
  | .launchAt q => Sys2Proof.Machine.execLaunchAt q s
  | .qualificationRetry => Sys2Proof.Machine.execQualificationRetry s
  | .calendarStop => Sys2Proof.Machine.execCalendarStop s
  | .ftUncert => Sys2Proof.Machine.execFtUncert s
  | .wdiGroupRetrainEnd die group ok => Sys2Proof.Machine.execWdiGroupRetrainEnd die group ok s

end Sys2Proof.Machine
end

