-- ==== Sys2Proof/WellFormed.lean ====
section
/-! DEFINITION. Well-formed commands: every operand within the range that the manual gives it. The machine's meanings
check for themselves what the manual has them check; this says which commands a sender can send at all. -/

namespace Sys2Proof

/-- A submission queue 0 to 63 (R467). -/
def queueOk (q : Nat) : Bool := q < 64

/-- A request by packet names a queue; one over MCTP may have any body (R576). -/
def Route.ok : Route → Bool
  | .queue q => queueOk q
  | .mctp _ _ => true

/-- A 32-bit register value (R22). -/
def word32 (v : Nat) : Bool := v < 2 ^ 32

/-- The task indices of a graph (R77). -/
def taskOk (t : Nat) : Bool := t < 16384

def coreOk (c : Nat) : Bool := c < 512
def dieOk (d : Nat) : Bool := d < 4
def stackOk (k : Nat) : Bool := k < 16
/-- A hosted stage 0 to 7 (R270). -/
def stageOk (n : Nat) : Bool := n < 8
/-- A port of the largest lane plan (R389). -/
def portOk (i : Nat) : Bool := i < 12
/-- A lane group 0 to 127 of a die (R422). -/
def laneGroupOk (g : Nat) : Bool := g < 128
/-- A temperature sensor (R549, R558). -/
def sensorOk (i : Nat) : Bool := i < 64

/-- Unit codes of R531. -/
def unitCode (u : Nat) : Bool :=
  u < 0x0210 || (0x0300 ≤ u && u < 0x0306) || (0x0400 ≤ u && u < 0x0404) || (0x0500 ≤ u && u < 0x050C) ||
    (0x0600 ≤ u && u < 0x0610) || u == 0xFFFF

/-- Fields of a stage-link header within their widths (R277). -/
def StageHdr.ok (h : StageHdr) : Bool :=
  h.kind < 4 && h.depth < 256 && h.dstStage < 2 ^ 16 && h.srcStage < 2 ^ 16 && h.gen < 2 ^ 16 && h.mb < 2 ^ 16 &&
    h.epoch < 2 ^ 16 && h.length < 2 ^ 32

/-- Fields of a collective header within their widths (R325). -/
def CollHdr.ok (h : CollHdr) : Bool :=
  h.kind < 4 && h.type < 256 && h.group < 4 && h.flags < 256 && h.rid < 2 ^ 32 && h.step < 2 ^ 64 && h.gen < 2 ^ 16 &&
    h.epoch < 2 ^ 16 && h.version < 2 ^ 16 && h.srcPos < 4096 && h.chunk < 4096 && h.enc < 256 && h.length < 2 ^ 32

/-- Fields of a reshard header within their widths (R352). -/
def ReshardHdr.ok (h : ReshardHdr) : Bool :=
  h.kind < 2 && h.array < 6 && h.newEpoch < 2 ^ 16 && h.srcPkg < 2 ^ 32 && h.length < 2 ^ 32

/-- Fields of a flit header within their widths (R423). -/
def FlitHdr.ok (h : FlitHdr) : Bool :=
  h.type < 16 && h.flow < 4 && h.seq < 1024 && h.ack < 1024 && h.cflow < 4 && h.credit < 64 && h.tag < 2 ^ 16 &&
    h.dest < 16

/-- Fields of a request entry within their widths (R424). -/
def WdiReq.ok (r : WdiReq) : Bool :=
  r.addr < 2 ^ 48 && r.op < 256 && r.len < 256 && r.tag < 2 ^ 16 && r.unit < 2 ^ 16 && r.slot < 2 ^ 16 && r.ctx < 256 &&
    r.arg.length ≤ 17

/-- Fields of a capability word within their widths (R427). -/
def CapWord.ok (c : CapWord) : Bool :=
  c.kind < 256 && c.levelMin < 256 && c.levelMax < 256 && c.maker < 2 ^ 16 && c.revision < 2 ^ 16 && c.features < 2 ^ 32 &&
    c.groups < 2 ^ 16 && c.groves < 2 ^ 16

/-- What start-up sees of a die: a capability word, and a lane group that failed (R427, R428). -/
def DieReport.ok (r : DieReport) : Bool := r.cap.all CapWord.ok && r.failedGroup.all laneGroupOk

/-- Fields of a time message within their widths (R441). -/
def TimeMsg.ok (m : TimeMsg) : Bool :=
  m.kind < 2 && m.priority < 256 && m.hops < 64 && m.seq < 2 ^ 32 && m.rootSerial < 2 ^ 64 && m.t2 < 2 ^ 64 &&
    m.reqId < 2 ^ 32 && m.uncert < 2 ^ 32 && m.tstamp < 2 ^ 64

/-- An error lies in a unit of its kind (R385). -/
def MemErr.ok (e : MemErr) : Bool :=
  (e.kind == 0 && stackOk e.unit) || (e.kind == 1 && dieOk e.unit) || (e.kind == 2 && coreOk e.unit)

/-- The rails of R568. -/
def Rail.ok : Rail → Bool
  | .die d => dieOk d
  | .stack s => stackOk s
  | .base => true

/-- Sizes that a configuration request can name: powers of two, 128 to 4096 bytes, and 1 MiB to 2^63 bytes of a resizable BAR. -/
def CfgWrite.ok (c : CfgWrite) : Bool :=
  [128, 256, 512, 1024, 2048, 4096].elem c.maxPayload && [128, 256, 512, 1024, 2048, 4096].elem c.maxRead &&
    20 ≤ c.bar2Log2 && c.bar2Log2 < 64

/-- A command whose operands lie in their ranges. -/
def Instr.wf : Instr → Bool
  | .nop r => r.ok
  | .identify r => r.ok
  | .setMode q => queueOk q
  | .getStatus r => r.ok
  | .linkConfig q => queueOk q
  | .copy q => queueOk q
  | .fillerConfig q => queueOk q
  | .matmul q => queueOk q
  | .groupedMatmul q => queueOk q
  | .vchain q => queueOk q
  | .taskGraphSubmit q => queueOk q
  | .branchTableLoad q => queueOk q
  | .hollowConfig q => queueOk q
  | .ringConfig q => queueOk q
  | .stageConfig q => queueOk q
  | .fixtureLoad q => queueOk q
  | .collGroupConfig q => queueOk q
  | .collStart q => queueOk q
  | .retract q => queueOk q
  | .reshard q => queueOk q
  | .stepOpen q => queueOk q
  | .stepSeal q => queueOk q
  | .stepCommit q => queueOk q
  | .stepAbort q => queueOk q
  | .updateConfig q => queueOk q
  | .healthRead q => queueOk q
  | .ftStatus q => queueOk q
  | .calSet q => queueOk q
  | .ftConfig q => queueOk q
  | .patternLoad q => queueOk q
  | .patternRun q => queueOk q
  | .fwStage r => r.ok
  | .fwInstall r => r.ok
  | .attest r => r.ok
  | .logRead r => r.ok
  | .resetUnit r => r.ok
  | .dumpRead r => r.ok
  | .sensorRead _ => true
  | .alertRead _ => true
  | .keyEnrol _ _ => true
  | .setEndpointId _ eid => eid < 256
  | .getEndpointId _ => true
  | .getMctpVersionSupport _ => true
  | .getMessageTypeSupport _ => true
  | .alertResponseAddress => true
  | .hostSqBell q value => queueOk q && word32 value
  | .hostCqBell q value => queueOk q && word32 value
  | .queueEnable q => queueOk q
  | .queueDisable q => queueOk q
  | .queueDrained q => queueOk q
  | .queueResume q => queueOk q
  | .queueFlush q _ => queueOk q
  | .hostFenceWrite f value => f < 1024 && word32 value
  | .packetRead q bytes => queueOk q && 64 ≤ bytes.length && bytes.length ≤ 4160
  | .sqFetchError q => queueOk q
  | .replyPost q => queueOk q
  | .hostWriteError q => queueOk q
  | .pkgMemMapWrite value => word32 value
  | .icPendClear w value => w < 32 && word32 value
  | .icMaskSet w value => w < 32 && word32 value
  | .icMaskClr w value => w < 32 && word32 value
  | .icMaskWrite w value => w < 32 && word32 value
  | .icSrcPrioWrite src value => src < 1024 && word32 value
  | .icSrcTargetWrite src value => src < 1024 && word32 value
  | .icThreshWrite target value => target < 96 && word32 value
  | .icBell value => word32 value
  | .ftNowLoRead _ => true
  | .calTimeLoRead => true
  | .mgtLogSeqLoRead => true
  | .mgtAlertClear value => word32 value
  | .mgtAlertMaskWrite value => word32 value
  | .pwrLimitWrite value => word32 value
  | .msixEnable _ _ cfg => cfg.ok
  | .bar2Read _ len errs => len ≤ 4096 && errs.all MemErr.ok
  | .bar2Write _ data errs => data.length ≤ 4096 && errs.all MemErr.ok
  | .registerWrite offset size value => offset < 0x4000000 && (size == 4 || size == 8) && value < 2 ^ (8 * size)
  | .perstN _ => true
  | .matrixProduct _ task => taskOk task
  | .groupedMatrixProduct _ task => taskOk task
  | .vectorChain _ task => taskOk task
  | .push _ task => taskOk task
  | .drain _ task => taskOk task
  | .segmentRelease _ task => taskOk task
  | .send _ task => taskOk task
  | .sendTransmit _ task => taskOk task
  | .reduceScatter _ task => taskOk task
  | .allGather _ task => taskOk task
  | .allReduce _ task => taskOk task
  | .permute _ task => taskOk task
  | .copyTask _ task => taskOk task
  | .join _ task => taskOk task
  | .branch _ task => taskOk task
  | .taskComplete _ task errs => taskOk task && errs.all MemErr.ok
  | .j1TileEnd core => coreOk core
  | .prefetch _ task => taskOk task
  | .tileLedgerCheck _ task _ => taskOk task
  | .shadowCompare _ task _ stage _ _ _ => taskOk task && stage < 8
  | .shadowIndexAdvance core => coreOk core
  | .fixtureLaunch stage => stageOk stage
  | .fixtureHung stage => stageOk stage
  | .stageMessageReceive h data => h.ok && data.length == h.length
  | .stageCreditReceive h => h.ok
  | .stageResetReceive h => h.ok
  | .collDataReceive h payload digest errs => h.ok && payload.length == h.length && digest < 2 ^ 64 && errs.all MemErr.ok
  | .collPrepassReceive h payload digest => h.ok && payload.length == h.length && digest < 2 ^ 64
  | .collVerdictReceive h digest => h.ok && digest < 2 ^ 64
  | .retractReceive h digest => h.ok && digest < 2 ^ 64
  | .reshardPieceReceive h payload digest => h.ok && payload.length == h.length && digest < 2 ^ 64
  | .reshardAckReceive h digest => h.ok && digest < 2 ^ 64
  | .sealComplete => true
  | .sealTimeout => true
  | .closingSweep failed => failed.all unitCode
  | .commitComplete fault => fault.all coreOk
  | .abortComplete => true
  | .hppFrameReceive port frame _ _ lane => portOk port && lane < 8 && frame.length == 512
  | .frameForward port => portOk port
  | .helloReceive port h => portOk port && h.plan < 4 && h.port < 16
  | .portTrainingPhaseEnd port _ deskew => portOk port && deskew.length ≤ 8
  | .portTrainingTimeout port => portOk port
  | .portRetrain port => portOk port
  | .portDown port => portOk port
  | .wdiFlitReceive die group h data crc _ errs =>
    dieOk die && laneGroupOk group && h.ok && data.length ≤ 128 && word32 crc && errs.all MemErr.ok
  | .wdiRequest die req data group dest errs =>
    dieOk die && laneGroupOk group && dest < 16 && req.ok && data.length ≤ 128 && errs.all MemErr.ok
  | .wdiGroupRetrain die group => dieOk die && laneGroupOk group
  | .interruptEndOfService target => target ≤ 16
  | .dieClockLoss die => dieOk die
  | .dieClockReturn die report => dieOk die && report.ok
  | .timeReqSend port => portOk port
  | .timeReqReceive port m => portOk port && m.ok
  | .timeRespReceive port m => portOk port && m.ok
  | .timeRespTimeout port => portOk port
  | .rootLoss => true
  | .listenEnd => true
  | .reftimeMark => true
  | .markMiss => true
  | .reftimeLoss => true
  | .reftimeRestore => true
  | .calSetLoad => true
  | .calMiss => true
  | .watchdogExpiry unit ctx => unitCode unit && ctx < 2
  | .checkerProbe unit _ => unitCode unit
  | .faultDecay => true
  | .crashItemTimeout kind _ => kind < 256
  | .crashRecordCollected => true
  | .rungComplete _ => true
  | .rungTimeout => true
  | .stackScrub stack _ _ => stackOk stack
  | .stackInterfaceLoss stack => stackOk stack
  | .mgtWatchdogRestart => true
  | .mgtRestartComplete => true
  | .fwFlashWriteDone => true
  | .packageReset => true
  | .powerOn => true
  | .qualificationEnd => true
  | .phase1End _ => true
  | .phase2End => true
  | .phase3End dies => dies.length == 4 && dies.all DieReport.ok
  | .phase4End failed => failed.all stackOk
  | .phase5End failed => failed.all fun x => x.1 < 16 && x.2 < 32
  | .phase6End => true
  | .phase7End => true
  | .ready => true
  | .supplyUnder vin => vin < 2 ^ 32
  | .supplyOver vin => vin < 2 ^ 32
  | .supplyNormal vin => vin < 2 ^ 32
  | .brownOut vin => vin < 2 ^ 32
  | .connectorOpen ia ib => ia < 2 ^ 16 && ib < 2 ^ 16
  | .connectorHoldRelease ia ib => ia < 2 ^ 16 && ib < 2 ^ 16
  | .currentHold ia ib => ia < 2 ^ 16 && ib < 2 ^ 16
  | .currentHoldRelease ia ib => ia < 2 ^ 16 && ib < 2 ^ 16
  | .powerHold watts => watts < 2 ^ 16
  | .powerHoldRelease watts => watts < 2 ^ 16
  | .thermalHold sensor _ => sensorOk sensor
  | .thermalHoldRelease temps => temps.length == 64
  | .envActRise => true
  | .corePark core => coreOk core
  | .thermalTrip sensor _ => sensorOk sensor
  | .tripRecovery die temps => dieOk die && temps.length == 64
  | .railFault r => r.ok
  | .railRecovery die => dieOk die
  | .launchAt q => queueOk q
  | .qualificationRetry => true
  | .calendarStop => true
  | .ftUncert => true
  | .wdiGroupRetrainEnd die group _ => dieOk die && laneGroupOk group

end Sys2Proof
end

