-- ==== Sys2Proof/Safety.lean ====
section
/-! DEFINITION. What claims speak of: legal settings, canonical memory, a request that comes to
its meaning, and what interrupts and the flits that carry them may change. -/

namespace Sys2Proof.Machine

/-- A pending envelope names P0 to P3 (R32, R494). -/
def PendMode.wf (m : PendMode) : Bool := match m.env with | some e => e < 4 | none => true

/-- Legal settings: ENV and ENV_ACT name envelopes, ENV_ACT is never clocked higher than ENV (R35, R545), the lane plans
are plans of R389, and the interleave has legal values (R364). -/
def Settings.wf (t : Settings) : Bool :=
  t.env < 4 && t.envAct < 4 && t.env ≤ t.envAct && t.lanes < 3 && t.nextPlan < 3 && t.granule < 3 && t.spread < 2 &&
    (match t.pend with | some m => m.wf | none => true)

/-- The settings are legal and memory is in its canonical form. -/
def State.safe (s : State) : Bool := s.set.wf && Memory.wf s.p.mem.cells

/-- A request by packet or by MCTP comes to its meaning (R478, R479, R485, R576): who is to be answered, the payload,
and the package's state with the packet started. -/
def Takes (s : State) (r : Route) (op : Nat) (w : Who) (b : List Byte) (p : Pkg) : Prop :=
  match r with
  | .queue q => ∃ pk, startPacket s.p q op = some (pk, p) ∧ gate p op = none ∧ w = .queue q pk.num ∧ b = pk.payload
  | .mctp via body => mctpOpen s.p = true ∧ zeros body 0 2 = true ∧ w = .mctp via ∧ b = body.drop 2 ∧ p = s.p

/-- `b` is `a` but for its lane groups, the requests that wait on it and the count of flits replayed. -/
def SameDie (a b : Die) : Prop :=
  b = { a with groups := b.groups, waiting := b.waiting, lastTag := b.lastTag, replay := b.replay }

/-- `q` is `p` but for the interrupt controller, the outputs and the flits and requests that go to the dies. -/
def SameIc (p q : Pkg) : Prop :=
  q = { p with ic := q.ic, out := q.out, dies := q.dies } ∧ ∀ d, SameDie (p.dies.getD d {}) (q.dies.getD d {})

end Sys2Proof.Machine
end

