-- ==== Sys2Proof/Laws/State.lean ====
section
/-! SUPPORT. One lemma for each field and each update of the package's state: what the update makes of the field it
changes, and that it leaves the others. -/

namespace Sys2Proof.Machine

/-! ### modQueue -/

@[simp] theorem modQueue_host (q : Nat) (f : Queue → Queue) (p : Pkg) :
    (modQueue q f p).host = { p.host with queues := modAt p.host.queues q f } := rfl
@[simp] theorem modQueue_out (q : Nat) (f : Queue → Queue) (p : Pkg) : (modQueue q f p).out = p.out := rfl
@[simp] theorem modQueue_ft (q : Nat) (f : Queue → Queue) (p : Pkg) : (modQueue q f p).ft = p.ft := rfl
@[simp] theorem modQueue_cal (q : Nat) (f : Queue → Queue) (p : Pkg) : (modQueue q f p).cal = p.cal := rfl
@[simp] theorem modQueue_ic (q : Nat) (f : Queue → Queue) (p : Pkg) : (modQueue q f p).ic = p.ic := rfl
@[simp] theorem modQueue_mem (q : Nat) (f : Queue → Queue) (p : Pkg) : (modQueue q f p).mem = p.mem := rfl
@[simp] theorem modQueue_links (q : Nat) (f : Queue → Queue) (p : Pkg) : (modQueue q f p).links = p.links := rfl
@[simp] theorem modQueue_dies (q : Nat) (f : Queue → Queue) (p : Pkg) : (modQueue q f p).dies = p.dies := rfl
@[simp] theorem modQueue_integ (q : Nat) (f : Queue → Queue) (p : Pkg) : (modQueue q f p).integ = p.integ := rfl
@[simp] theorem modQueue_pwr (q : Nat) (f : Queue → Queue) (p : Pkg) : (modQueue q f p).pwr = p.pwr := rfl
@[simp] theorem modQueue_boot (q : Nat) (f : Queue → Queue) (p : Pkg) : (modQueue q f p).boot = p.boot := rfl
@[simp] theorem modQueue_mgt (q : Nat) (f : Queue → Queue) (p : Pkg) : (modQueue q f p).mgt = p.mgt := rfl
@[simp] theorem modQueue_flash (q : Nat) (f : Queue → Queue) (p : Pkg) : (modQueue q f p).flash = p.flash := rfl
@[simp] theorem modQueue_tasks (q : Nat) (f : Queue → Queue) (p : Pkg) : (modQueue q f p).tasks = p.tasks := rfl
@[simp] theorem modQueue_step (q : Nat) (f : Queue → Queue) (p : Pkg) : (modQueue q f p).step = p.step := rfl
@[simp] theorem modQueue_upd (q : Nat) (f : Queue → Queue) (p : Pkg) : (modQueue q f p).upd = p.upd := rfl
@[simp] theorem modQueue_hollow (q : Nat) (f : Queue → Queue) (p : Pkg) : (modQueue q f p).hollow = p.hollow := rfl
@[simp] theorem modQueue_rings (q : Nat) (f : Queue → Queue) (p : Pkg) : (modQueue q f p).rings = p.rings := rfl
@[simp] theorem modQueue_pipe (q : Nat) (f : Queue → Queue) (p : Pkg) : (modQueue q f p).pipe = p.pipe := rfl
@[simp] theorem modQueue_colls (q : Nat) (f : Queue → Queue) (p : Pkg) : (modQueue q f p).colls = p.colls := rfl
@[simp] theorem modQueue_reshard (q : Nat) (f : Queue → Queue) (p : Pkg) : (modQueue q f p).reshard = p.reshard := rfl
@[simp] theorem modQueue_free (q : Nat) (f : Queue → Queue) (p : Pkg) : (modQueue q f p).free = p.free := rfl

/-! ### modFt -/

@[simp] theorem modFt_host (f : Ft → Ft) (p : Pkg) : (modFt f p).host = p.host := rfl
@[simp] theorem modFt_out (f : Ft → Ft) (p : Pkg) : (modFt f p).out = p.out := rfl
@[simp] theorem modFt_ft (f : Ft → Ft) (p : Pkg) : (modFt f p).ft = f p.ft := rfl
@[simp] theorem modFt_cal (f : Ft → Ft) (p : Pkg) : (modFt f p).cal = p.cal := rfl
@[simp] theorem modFt_ic (f : Ft → Ft) (p : Pkg) : (modFt f p).ic = p.ic := rfl
@[simp] theorem modFt_mem (f : Ft → Ft) (p : Pkg) : (modFt f p).mem = p.mem := rfl
@[simp] theorem modFt_links (f : Ft → Ft) (p : Pkg) : (modFt f p).links = p.links := rfl
@[simp] theorem modFt_dies (f : Ft → Ft) (p : Pkg) : (modFt f p).dies = p.dies := rfl
@[simp] theorem modFt_integ (f : Ft → Ft) (p : Pkg) : (modFt f p).integ = p.integ := rfl
@[simp] theorem modFt_pwr (f : Ft → Ft) (p : Pkg) : (modFt f p).pwr = p.pwr := rfl
@[simp] theorem modFt_boot (f : Ft → Ft) (p : Pkg) : (modFt f p).boot = p.boot := rfl
@[simp] theorem modFt_mgt (f : Ft → Ft) (p : Pkg) : (modFt f p).mgt = p.mgt := rfl
@[simp] theorem modFt_flash (f : Ft → Ft) (p : Pkg) : (modFt f p).flash = p.flash := rfl
@[simp] theorem modFt_tasks (f : Ft → Ft) (p : Pkg) : (modFt f p).tasks = p.tasks := rfl
@[simp] theorem modFt_step (f : Ft → Ft) (p : Pkg) : (modFt f p).step = p.step := rfl
@[simp] theorem modFt_upd (f : Ft → Ft) (p : Pkg) : (modFt f p).upd = p.upd := rfl
@[simp] theorem modFt_hollow (f : Ft → Ft) (p : Pkg) : (modFt f p).hollow = p.hollow := rfl
@[simp] theorem modFt_rings (f : Ft → Ft) (p : Pkg) : (modFt f p).rings = p.rings := rfl
@[simp] theorem modFt_pipe (f : Ft → Ft) (p : Pkg) : (modFt f p).pipe = p.pipe := rfl
@[simp] theorem modFt_colls (f : Ft → Ft) (p : Pkg) : (modFt f p).colls = p.colls := rfl
@[simp] theorem modFt_reshard (f : Ft → Ft) (p : Pkg) : (modFt f p).reshard = p.reshard := rfl
@[simp] theorem modFt_free (f : Ft → Ft) (p : Pkg) : (modFt f p).free = p.free := rfl

/-! ### modTime -/

@[simp] theorem modTime_host (i : Nat) (f : PortTime → PortTime) (p : Pkg) : (modTime i f p).host = p.host := rfl
@[simp] theorem modTime_out (i : Nat) (f : PortTime → PortTime) (p : Pkg) : (modTime i f p).out = p.out := rfl
@[simp] theorem modTime_ft (i : Nat) (f : PortTime → PortTime) (p : Pkg) :
    (modTime i f p).ft = { p.ft with ports := modAt p.ft.ports i f } := rfl
@[simp] theorem modTime_cal (i : Nat) (f : PortTime → PortTime) (p : Pkg) : (modTime i f p).cal = p.cal := rfl
@[simp] theorem modTime_ic (i : Nat) (f : PortTime → PortTime) (p : Pkg) : (modTime i f p).ic = p.ic := rfl
@[simp] theorem modTime_mem (i : Nat) (f : PortTime → PortTime) (p : Pkg) : (modTime i f p).mem = p.mem := rfl
@[simp] theorem modTime_links (i : Nat) (f : PortTime → PortTime) (p : Pkg) : (modTime i f p).links = p.links := rfl
@[simp] theorem modTime_dies (i : Nat) (f : PortTime → PortTime) (p : Pkg) : (modTime i f p).dies = p.dies := rfl
@[simp] theorem modTime_integ (i : Nat) (f : PortTime → PortTime) (p : Pkg) : (modTime i f p).integ = p.integ := rfl
@[simp] theorem modTime_pwr (i : Nat) (f : PortTime → PortTime) (p : Pkg) : (modTime i f p).pwr = p.pwr := rfl
@[simp] theorem modTime_boot (i : Nat) (f : PortTime → PortTime) (p : Pkg) : (modTime i f p).boot = p.boot := rfl
@[simp] theorem modTime_mgt (i : Nat) (f : PortTime → PortTime) (p : Pkg) : (modTime i f p).mgt = p.mgt := rfl
@[simp] theorem modTime_flash (i : Nat) (f : PortTime → PortTime) (p : Pkg) : (modTime i f p).flash = p.flash := rfl
@[simp] theorem modTime_tasks (i : Nat) (f : PortTime → PortTime) (p : Pkg) : (modTime i f p).tasks = p.tasks := rfl
@[simp] theorem modTime_step (i : Nat) (f : PortTime → PortTime) (p : Pkg) : (modTime i f p).step = p.step := rfl
@[simp] theorem modTime_upd (i : Nat) (f : PortTime → PortTime) (p : Pkg) : (modTime i f p).upd = p.upd := rfl
@[simp] theorem modTime_hollow (i : Nat) (f : PortTime → PortTime) (p : Pkg) :
    (modTime i f p).hollow = p.hollow := rfl
@[simp] theorem modTime_rings (i : Nat) (f : PortTime → PortTime) (p : Pkg) : (modTime i f p).rings = p.rings := rfl
@[simp] theorem modTime_pipe (i : Nat) (f : PortTime → PortTime) (p : Pkg) : (modTime i f p).pipe = p.pipe := rfl
@[simp] theorem modTime_colls (i : Nat) (f : PortTime → PortTime) (p : Pkg) : (modTime i f p).colls = p.colls := rfl
@[simp] theorem modTime_reshard (i : Nat) (f : PortTime → PortTime) (p : Pkg) :
    (modTime i f p).reshard = p.reshard := rfl
@[simp] theorem modTime_free (i : Nat) (f : PortTime → PortTime) (p : Pkg) : (modTime i f p).free = p.free := rfl

/-! ### modPort -/

@[simp] theorem modPort_host (i : Nat) (f : Port → Port) (p : Pkg) : (modPort i f p).host = p.host := rfl
@[simp] theorem modPort_out (i : Nat) (f : Port → Port) (p : Pkg) : (modPort i f p).out = p.out := rfl
@[simp] theorem modPort_ft (i : Nat) (f : Port → Port) (p : Pkg) : (modPort i f p).ft = p.ft := rfl
@[simp] theorem modPort_cal (i : Nat) (f : Port → Port) (p : Pkg) : (modPort i f p).cal = p.cal := rfl
@[simp] theorem modPort_ic (i : Nat) (f : Port → Port) (p : Pkg) : (modPort i f p).ic = p.ic := rfl
@[simp] theorem modPort_mem (i : Nat) (f : Port → Port) (p : Pkg) : (modPort i f p).mem = p.mem := rfl
@[simp] theorem modPort_links (i : Nat) (f : Port → Port) (p : Pkg) :
    (modPort i f p).links = { p.links with ports := modAt p.links.ports i f } := rfl
@[simp] theorem modPort_dies (i : Nat) (f : Port → Port) (p : Pkg) : (modPort i f p).dies = p.dies := rfl
@[simp] theorem modPort_integ (i : Nat) (f : Port → Port) (p : Pkg) : (modPort i f p).integ = p.integ := rfl
@[simp] theorem modPort_pwr (i : Nat) (f : Port → Port) (p : Pkg) : (modPort i f p).pwr = p.pwr := rfl
@[simp] theorem modPort_boot (i : Nat) (f : Port → Port) (p : Pkg) : (modPort i f p).boot = p.boot := rfl
@[simp] theorem modPort_mgt (i : Nat) (f : Port → Port) (p : Pkg) : (modPort i f p).mgt = p.mgt := rfl
@[simp] theorem modPort_flash (i : Nat) (f : Port → Port) (p : Pkg) : (modPort i f p).flash = p.flash := rfl
@[simp] theorem modPort_tasks (i : Nat) (f : Port → Port) (p : Pkg) : (modPort i f p).tasks = p.tasks := rfl
@[simp] theorem modPort_step (i : Nat) (f : Port → Port) (p : Pkg) : (modPort i f p).step = p.step := rfl
@[simp] theorem modPort_upd (i : Nat) (f : Port → Port) (p : Pkg) : (modPort i f p).upd = p.upd := rfl
@[simp] theorem modPort_hollow (i : Nat) (f : Port → Port) (p : Pkg) : (modPort i f p).hollow = p.hollow := rfl
@[simp] theorem modPort_rings (i : Nat) (f : Port → Port) (p : Pkg) : (modPort i f p).rings = p.rings := rfl
@[simp] theorem modPort_pipe (i : Nat) (f : Port → Port) (p : Pkg) : (modPort i f p).pipe = p.pipe := rfl
@[simp] theorem modPort_colls (i : Nat) (f : Port → Port) (p : Pkg) : (modPort i f p).colls = p.colls := rfl
@[simp] theorem modPort_reshard (i : Nat) (f : Port → Port) (p : Pkg) : (modPort i f p).reshard = p.reshard := rfl
@[simp] theorem modPort_free (i : Nat) (f : Port → Port) (p : Pkg) : (modPort i f p).free = p.free := rfl

/-! ### modStep -/

@[simp] theorem modStep_host (f : Step → Step) (p : Pkg) : (modStep f p).host = p.host := rfl
@[simp] theorem modStep_out (f : Step → Step) (p : Pkg) : (modStep f p).out = p.out := rfl
@[simp] theorem modStep_ft (f : Step → Step) (p : Pkg) : (modStep f p).ft = p.ft := rfl
@[simp] theorem modStep_cal (f : Step → Step) (p : Pkg) : (modStep f p).cal = p.cal := rfl
@[simp] theorem modStep_ic (f : Step → Step) (p : Pkg) : (modStep f p).ic = p.ic := rfl
@[simp] theorem modStep_mem (f : Step → Step) (p : Pkg) : (modStep f p).mem = p.mem := rfl
@[simp] theorem modStep_links (f : Step → Step) (p : Pkg) : (modStep f p).links = p.links := rfl
@[simp] theorem modStep_dies (f : Step → Step) (p : Pkg) : (modStep f p).dies = p.dies := rfl
@[simp] theorem modStep_integ (f : Step → Step) (p : Pkg) : (modStep f p).integ = p.integ := rfl
@[simp] theorem modStep_pwr (f : Step → Step) (p : Pkg) : (modStep f p).pwr = p.pwr := rfl
@[simp] theorem modStep_boot (f : Step → Step) (p : Pkg) : (modStep f p).boot = p.boot := rfl
@[simp] theorem modStep_mgt (f : Step → Step) (p : Pkg) : (modStep f p).mgt = p.mgt := rfl
@[simp] theorem modStep_flash (f : Step → Step) (p : Pkg) : (modStep f p).flash = p.flash := rfl
@[simp] theorem modStep_tasks (f : Step → Step) (p : Pkg) : (modStep f p).tasks = p.tasks := rfl
@[simp] theorem modStep_step (f : Step → Step) (p : Pkg) : (modStep f p).step = f p.step := rfl
@[simp] theorem modStep_upd (f : Step → Step) (p : Pkg) : (modStep f p).upd = p.upd := rfl
@[simp] theorem modStep_hollow (f : Step → Step) (p : Pkg) : (modStep f p).hollow = p.hollow := rfl
@[simp] theorem modStep_rings (f : Step → Step) (p : Pkg) : (modStep f p).rings = p.rings := rfl
@[simp] theorem modStep_pipe (f : Step → Step) (p : Pkg) : (modStep f p).pipe = p.pipe := rfl
@[simp] theorem modStep_colls (f : Step → Step) (p : Pkg) : (modStep f p).colls = p.colls := rfl
@[simp] theorem modStep_reshard (f : Step → Step) (p : Pkg) : (modStep f p).reshard = p.reshard := rfl
@[simp] theorem modStep_free (f : Step → Step) (p : Pkg) : (modStep f p).free = p.free := rfl

/-! ### modGroup -/

@[simp] theorem modGroup_host (g : Nat) (f : CollGroup → CollGroup) (p : Pkg) : (modGroup g f p).host = p.host := rfl
@[simp] theorem modGroup_out (g : Nat) (f : CollGroup → CollGroup) (p : Pkg) : (modGroup g f p).out = p.out := rfl
@[simp] theorem modGroup_ft (g : Nat) (f : CollGroup → CollGroup) (p : Pkg) : (modGroup g f p).ft = p.ft := rfl
@[simp] theorem modGroup_cal (g : Nat) (f : CollGroup → CollGroup) (p : Pkg) : (modGroup g f p).cal = p.cal := rfl
@[simp] theorem modGroup_ic (g : Nat) (f : CollGroup → CollGroup) (p : Pkg) : (modGroup g f p).ic = p.ic := rfl
@[simp] theorem modGroup_mem (g : Nat) (f : CollGroup → CollGroup) (p : Pkg) : (modGroup g f p).mem = p.mem := rfl
@[simp] theorem modGroup_links (g : Nat) (f : CollGroup → CollGroup) (p : Pkg) :
    (modGroup g f p).links = p.links := rfl
@[simp] theorem modGroup_dies (g : Nat) (f : CollGroup → CollGroup) (p : Pkg) : (modGroup g f p).dies = p.dies := rfl
@[simp] theorem modGroup_integ (g : Nat) (f : CollGroup → CollGroup) (p : Pkg) :
    (modGroup g f p).integ = p.integ := rfl
@[simp] theorem modGroup_pwr (g : Nat) (f : CollGroup → CollGroup) (p : Pkg) : (modGroup g f p).pwr = p.pwr := rfl
@[simp] theorem modGroup_boot (g : Nat) (f : CollGroup → CollGroup) (p : Pkg) : (modGroup g f p).boot = p.boot := rfl
@[simp] theorem modGroup_mgt (g : Nat) (f : CollGroup → CollGroup) (p : Pkg) : (modGroup g f p).mgt = p.mgt := rfl
@[simp] theorem modGroup_flash (g : Nat) (f : CollGroup → CollGroup) (p : Pkg) :
    (modGroup g f p).flash = p.flash := rfl
@[simp] theorem modGroup_tasks (g : Nat) (f : CollGroup → CollGroup) (p : Pkg) :
    (modGroup g f p).tasks = p.tasks := rfl
@[simp] theorem modGroup_step (g : Nat) (f : CollGroup → CollGroup) (p : Pkg) : (modGroup g f p).step = p.step := rfl
@[simp] theorem modGroup_upd (g : Nat) (f : CollGroup → CollGroup) (p : Pkg) : (modGroup g f p).upd = p.upd := rfl
@[simp] theorem modGroup_hollow (g : Nat) (f : CollGroup → CollGroup) (p : Pkg) :
    (modGroup g f p).hollow = p.hollow := rfl
@[simp] theorem modGroup_rings (g : Nat) (f : CollGroup → CollGroup) (p : Pkg) :
    (modGroup g f p).rings = p.rings := rfl
@[simp] theorem modGroup_pipe (g : Nat) (f : CollGroup → CollGroup) (p : Pkg) : (modGroup g f p).pipe = p.pipe := rfl
@[simp] theorem modGroup_colls (g : Nat) (f : CollGroup → CollGroup) (p : Pkg) :
    (modGroup g f p).colls = { p.colls with groups := modAt p.colls.groups g f } := rfl
@[simp] theorem modGroup_reshard (g : Nat) (f : CollGroup → CollGroup) (p : Pkg) :
    (modGroup g f p).reshard = p.reshard := rfl
@[simp] theorem modGroup_free (g : Nat) (f : CollGroup → CollGroup) (p : Pkg) : (modGroup g f p).free = p.free := rfl

/-! ### modStage -/

@[simp] theorem modStage_host (n : Nat) (f : Stage → Stage) (p : Pkg) : (modStage n f p).host = p.host := rfl
@[simp] theorem modStage_out (n : Nat) (f : Stage → Stage) (p : Pkg) : (modStage n f p).out = p.out := rfl
@[simp] theorem modStage_ft (n : Nat) (f : Stage → Stage) (p : Pkg) : (modStage n f p).ft = p.ft := rfl
@[simp] theorem modStage_cal (n : Nat) (f : Stage → Stage) (p : Pkg) : (modStage n f p).cal = p.cal := rfl
@[simp] theorem modStage_ic (n : Nat) (f : Stage → Stage) (p : Pkg) : (modStage n f p).ic = p.ic := rfl
@[simp] theorem modStage_mem (n : Nat) (f : Stage → Stage) (p : Pkg) : (modStage n f p).mem = p.mem := rfl
@[simp] theorem modStage_links (n : Nat) (f : Stage → Stage) (p : Pkg) : (modStage n f p).links = p.links := rfl
@[simp] theorem modStage_dies (n : Nat) (f : Stage → Stage) (p : Pkg) : (modStage n f p).dies = p.dies := rfl
@[simp] theorem modStage_integ (n : Nat) (f : Stage → Stage) (p : Pkg) : (modStage n f p).integ = p.integ := rfl
@[simp] theorem modStage_pwr (n : Nat) (f : Stage → Stage) (p : Pkg) : (modStage n f p).pwr = p.pwr := rfl
@[simp] theorem modStage_boot (n : Nat) (f : Stage → Stage) (p : Pkg) : (modStage n f p).boot = p.boot := rfl
@[simp] theorem modStage_mgt (n : Nat) (f : Stage → Stage) (p : Pkg) : (modStage n f p).mgt = p.mgt := rfl
@[simp] theorem modStage_flash (n : Nat) (f : Stage → Stage) (p : Pkg) : (modStage n f p).flash = p.flash := rfl
@[simp] theorem modStage_tasks (n : Nat) (f : Stage → Stage) (p : Pkg) : (modStage n f p).tasks = p.tasks := rfl
@[simp] theorem modStage_step (n : Nat) (f : Stage → Stage) (p : Pkg) : (modStage n f p).step = p.step := rfl
@[simp] theorem modStage_upd (n : Nat) (f : Stage → Stage) (p : Pkg) : (modStage n f p).upd = p.upd := rfl
@[simp] theorem modStage_hollow (n : Nat) (f : Stage → Stage) (p : Pkg) : (modStage n f p).hollow = p.hollow := rfl
@[simp] theorem modStage_rings (n : Nat) (f : Stage → Stage) (p : Pkg) : (modStage n f p).rings = p.rings := rfl
@[simp] theorem modStage_pipe (n : Nat) (f : Stage → Stage) (p : Pkg) :
    (modStage n f p).pipe = { p.pipe with stages := modAt p.pipe.stages n f } := rfl
@[simp] theorem modStage_colls (n : Nat) (f : Stage → Stage) (p : Pkg) : (modStage n f p).colls = p.colls := rfl
@[simp] theorem modStage_reshard (n : Nat) (f : Stage → Stage) (p : Pkg) : (modStage n f p).reshard = p.reshard := rfl
@[simp] theorem modStage_free (n : Nat) (f : Stage → Stage) (p : Pkg) : (modStage n f p).free = p.free := rfl

/-! ### modInst -/

@[simp] theorem modInst_host (k : Nat) (f : Inst → Inst) (p : Pkg) : (modInst k f p).host = p.host := rfl
@[simp] theorem modInst_out (k : Nat) (f : Inst → Inst) (p : Pkg) : (modInst k f p).out = p.out := rfl
@[simp] theorem modInst_ft (k : Nat) (f : Inst → Inst) (p : Pkg) : (modInst k f p).ft = p.ft := rfl
@[simp] theorem modInst_cal (k : Nat) (f : Inst → Inst) (p : Pkg) : (modInst k f p).cal = p.cal := rfl
@[simp] theorem modInst_ic (k : Nat) (f : Inst → Inst) (p : Pkg) : (modInst k f p).ic = p.ic := rfl
@[simp] theorem modInst_mem (k : Nat) (f : Inst → Inst) (p : Pkg) : (modInst k f p).mem = p.mem := rfl
@[simp] theorem modInst_links (k : Nat) (f : Inst → Inst) (p : Pkg) : (modInst k f p).links = p.links := rfl
@[simp] theorem modInst_dies (k : Nat) (f : Inst → Inst) (p : Pkg) : (modInst k f p).dies = p.dies := rfl
@[simp] theorem modInst_integ (k : Nat) (f : Inst → Inst) (p : Pkg) : (modInst k f p).integ = p.integ := rfl
@[simp] theorem modInst_pwr (k : Nat) (f : Inst → Inst) (p : Pkg) : (modInst k f p).pwr = p.pwr := rfl
@[simp] theorem modInst_boot (k : Nat) (f : Inst → Inst) (p : Pkg) : (modInst k f p).boot = p.boot := rfl
@[simp] theorem modInst_mgt (k : Nat) (f : Inst → Inst) (p : Pkg) : (modInst k f p).mgt = p.mgt := rfl
@[simp] theorem modInst_flash (k : Nat) (f : Inst → Inst) (p : Pkg) : (modInst k f p).flash = p.flash := rfl
@[simp] theorem modInst_tasks (k : Nat) (f : Inst → Inst) (p : Pkg) :
    (modInst k f p).tasks = { p.tasks with insts := p.tasks.insts.map fun i => if i.iid == k then f i else i } := rfl
@[simp] theorem modInst_step (k : Nat) (f : Inst → Inst) (p : Pkg) : (modInst k f p).step = p.step := rfl
@[simp] theorem modInst_upd (k : Nat) (f : Inst → Inst) (p : Pkg) : (modInst k f p).upd = p.upd := rfl
@[simp] theorem modInst_hollow (k : Nat) (f : Inst → Inst) (p : Pkg) : (modInst k f p).hollow = p.hollow := rfl
@[simp] theorem modInst_rings (k : Nat) (f : Inst → Inst) (p : Pkg) : (modInst k f p).rings = p.rings := rfl
@[simp] theorem modInst_pipe (k : Nat) (f : Inst → Inst) (p : Pkg) : (modInst k f p).pipe = p.pipe := rfl
@[simp] theorem modInst_colls (k : Nat) (f : Inst → Inst) (p : Pkg) : (modInst k f p).colls = p.colls := rfl
@[simp] theorem modInst_reshard (k : Nat) (f : Inst → Inst) (p : Pkg) : (modInst k f p).reshard = p.reshard := rfl
@[simp] theorem modInst_free (k : Nat) (f : Inst → Inst) (p : Pkg) : (modInst k f p).free = p.free := rfl

/-! ### modRun -/

@[simp] theorem modRun_host (k t : Nat) (f : Run → Run) (p : Pkg) : (modRun k t f p).host = p.host := rfl
@[simp] theorem modRun_out (k t : Nat) (f : Run → Run) (p : Pkg) : (modRun k t f p).out = p.out := rfl
@[simp] theorem modRun_ft (k t : Nat) (f : Run → Run) (p : Pkg) : (modRun k t f p).ft = p.ft := rfl
@[simp] theorem modRun_cal (k t : Nat) (f : Run → Run) (p : Pkg) : (modRun k t f p).cal = p.cal := rfl
@[simp] theorem modRun_ic (k t : Nat) (f : Run → Run) (p : Pkg) : (modRun k t f p).ic = p.ic := rfl
@[simp] theorem modRun_mem (k t : Nat) (f : Run → Run) (p : Pkg) : (modRun k t f p).mem = p.mem := rfl
@[simp] theorem modRun_links (k t : Nat) (f : Run → Run) (p : Pkg) : (modRun k t f p).links = p.links := rfl
@[simp] theorem modRun_dies (k t : Nat) (f : Run → Run) (p : Pkg) : (modRun k t f p).dies = p.dies := rfl
@[simp] theorem modRun_integ (k t : Nat) (f : Run → Run) (p : Pkg) : (modRun k t f p).integ = p.integ := rfl
@[simp] theorem modRun_pwr (k t : Nat) (f : Run → Run) (p : Pkg) : (modRun k t f p).pwr = p.pwr := rfl
@[simp] theorem modRun_boot (k t : Nat) (f : Run → Run) (p : Pkg) : (modRun k t f p).boot = p.boot := rfl
@[simp] theorem modRun_mgt (k t : Nat) (f : Run → Run) (p : Pkg) : (modRun k t f p).mgt = p.mgt := rfl
@[simp] theorem modRun_flash (k t : Nat) (f : Run → Run) (p : Pkg) : (modRun k t f p).flash = p.flash := rfl
@[simp] theorem modRun_tasks (k t : Nat) (f : Run → Run) (p : Pkg) :
    (modRun k t f p).tasks = { p.tasks with runs := p.tasks.runs.map fun r => if r.iid == k && r.task == t then f r else r } := rfl
@[simp] theorem modRun_step (k t : Nat) (f : Run → Run) (p : Pkg) : (modRun k t f p).step = p.step := rfl
@[simp] theorem modRun_upd (k t : Nat) (f : Run → Run) (p : Pkg) : (modRun k t f p).upd = p.upd := rfl
@[simp] theorem modRun_hollow (k t : Nat) (f : Run → Run) (p : Pkg) : (modRun k t f p).hollow = p.hollow := rfl
@[simp] theorem modRun_rings (k t : Nat) (f : Run → Run) (p : Pkg) : (modRun k t f p).rings = p.rings := rfl
@[simp] theorem modRun_pipe (k t : Nat) (f : Run → Run) (p : Pkg) : (modRun k t f p).pipe = p.pipe := rfl
@[simp] theorem modRun_colls (k t : Nat) (f : Run → Run) (p : Pkg) : (modRun k t f p).colls = p.colls := rfl
@[simp] theorem modRun_reshard (k t : Nat) (f : Run → Run) (p : Pkg) : (modRun k t f p).reshard = p.reshard := rfl
@[simp] theorem modRun_free (k t : Nat) (f : Run → Run) (p : Pkg) : (modRun k t f p).free = p.free := rfl

/-! ### modCore -/

@[simp] theorem modCore_host (c : Nat) (f : Core → Core) (p : Pkg) : (modCore c f p).host = p.host := rfl
@[simp] theorem modCore_out (c : Nat) (f : Core → Core) (p : Pkg) : (modCore c f p).out = p.out := rfl
@[simp] theorem modCore_ft (c : Nat) (f : Core → Core) (p : Pkg) : (modCore c f p).ft = p.ft := rfl
@[simp] theorem modCore_cal (c : Nat) (f : Core → Core) (p : Pkg) : (modCore c f p).cal = p.cal := rfl
@[simp] theorem modCore_ic (c : Nat) (f : Core → Core) (p : Pkg) : (modCore c f p).ic = p.ic := rfl
@[simp] theorem modCore_mem (c : Nat) (f : Core → Core) (p : Pkg) : (modCore c f p).mem = p.mem := rfl
@[simp] theorem modCore_links (c : Nat) (f : Core → Core) (p : Pkg) : (modCore c f p).links = p.links := rfl
@[simp] theorem modCore_dies (c : Nat) (f : Core → Core) (p : Pkg) : (modCore c f p).dies = p.dies := rfl
@[simp] theorem modCore_integ (c : Nat) (f : Core → Core) (p : Pkg) : (modCore c f p).integ = p.integ := rfl
@[simp] theorem modCore_pwr (c : Nat) (f : Core → Core) (p : Pkg) : (modCore c f p).pwr = p.pwr := rfl
@[simp] theorem modCore_boot (c : Nat) (f : Core → Core) (p : Pkg) : (modCore c f p).boot = p.boot := rfl
@[simp] theorem modCore_mgt (c : Nat) (f : Core → Core) (p : Pkg) : (modCore c f p).mgt = p.mgt := rfl
@[simp] theorem modCore_flash (c : Nat) (f : Core → Core) (p : Pkg) : (modCore c f p).flash = p.flash := rfl
@[simp] theorem modCore_tasks (c : Nat) (f : Core → Core) (p : Pkg) :
    (modCore c f p).tasks = { p.tasks with cores := modAt p.tasks.cores c f } := rfl
@[simp] theorem modCore_step (c : Nat) (f : Core → Core) (p : Pkg) : (modCore c f p).step = p.step := rfl
@[simp] theorem modCore_upd (c : Nat) (f : Core → Core) (p : Pkg) : (modCore c f p).upd = p.upd := rfl
@[simp] theorem modCore_hollow (c : Nat) (f : Core → Core) (p : Pkg) : (modCore c f p).hollow = p.hollow := rfl
@[simp] theorem modCore_rings (c : Nat) (f : Core → Core) (p : Pkg) : (modCore c f p).rings = p.rings := rfl
@[simp] theorem modCore_pipe (c : Nat) (f : Core → Core) (p : Pkg) : (modCore c f p).pipe = p.pipe := rfl
@[simp] theorem modCore_colls (c : Nat) (f : Core → Core) (p : Pkg) : (modCore c f p).colls = p.colls := rfl
@[simp] theorem modCore_reshard (c : Nat) (f : Core → Core) (p : Pkg) : (modCore c f p).reshard = p.reshard := rfl
@[simp] theorem modCore_free (c : Nat) (f : Core → Core) (p : Pkg) : (modCore c f p).free = p.free := rfl

/-! ### modDie -/

@[simp] theorem modDie_host (d : Nat) (f : Die → Die) (p : Pkg) : (modDie d f p).host = p.host := rfl
@[simp] theorem modDie_out (d : Nat) (f : Die → Die) (p : Pkg) : (modDie d f p).out = p.out := rfl
@[simp] theorem modDie_ft (d : Nat) (f : Die → Die) (p : Pkg) : (modDie d f p).ft = p.ft := rfl
@[simp] theorem modDie_cal (d : Nat) (f : Die → Die) (p : Pkg) : (modDie d f p).cal = p.cal := rfl
@[simp] theorem modDie_ic (d : Nat) (f : Die → Die) (p : Pkg) : (modDie d f p).ic = p.ic := rfl
@[simp] theorem modDie_mem (d : Nat) (f : Die → Die) (p : Pkg) : (modDie d f p).mem = p.mem := rfl
@[simp] theorem modDie_links (d : Nat) (f : Die → Die) (p : Pkg) : (modDie d f p).links = p.links := rfl
@[simp] theorem modDie_dies (d : Nat) (f : Die → Die) (p : Pkg) : (modDie d f p).dies = modAt p.dies d f := rfl
@[simp] theorem modDie_integ (d : Nat) (f : Die → Die) (p : Pkg) : (modDie d f p).integ = p.integ := rfl
@[simp] theorem modDie_pwr (d : Nat) (f : Die → Die) (p : Pkg) : (modDie d f p).pwr = p.pwr := rfl
@[simp] theorem modDie_boot (d : Nat) (f : Die → Die) (p : Pkg) : (modDie d f p).boot = p.boot := rfl
@[simp] theorem modDie_mgt (d : Nat) (f : Die → Die) (p : Pkg) : (modDie d f p).mgt = p.mgt := rfl
@[simp] theorem modDie_flash (d : Nat) (f : Die → Die) (p : Pkg) : (modDie d f p).flash = p.flash := rfl
@[simp] theorem modDie_tasks (d : Nat) (f : Die → Die) (p : Pkg) : (modDie d f p).tasks = p.tasks := rfl
@[simp] theorem modDie_step (d : Nat) (f : Die → Die) (p : Pkg) : (modDie d f p).step = p.step := rfl
@[simp] theorem modDie_upd (d : Nat) (f : Die → Die) (p : Pkg) : (modDie d f p).upd = p.upd := rfl
@[simp] theorem modDie_hollow (d : Nat) (f : Die → Die) (p : Pkg) : (modDie d f p).hollow = p.hollow := rfl
@[simp] theorem modDie_rings (d : Nat) (f : Die → Die) (p : Pkg) : (modDie d f p).rings = p.rings := rfl
@[simp] theorem modDie_pipe (d : Nat) (f : Die → Die) (p : Pkg) : (modDie d f p).pipe = p.pipe := rfl
@[simp] theorem modDie_colls (d : Nat) (f : Die → Die) (p : Pkg) : (modDie d f p).colls = p.colls := rfl
@[simp] theorem modDie_reshard (d : Nat) (f : Die → Die) (p : Pkg) : (modDie d f p).reshard = p.reshard := rfl
@[simp] theorem modDie_free (d : Nat) (f : Die → Die) (p : Pkg) : (modDie d f p).free = p.free := rfl

/-! ### modHollow -/

@[simp] theorem modHollow_host (n : Nat) (f : Hollow → Hollow) (p : Pkg) : (modHollow n f p).host = p.host := rfl
@[simp] theorem modHollow_out (n : Nat) (f : Hollow → Hollow) (p : Pkg) : (modHollow n f p).out = p.out := rfl
@[simp] theorem modHollow_ft (n : Nat) (f : Hollow → Hollow) (p : Pkg) : (modHollow n f p).ft = p.ft := rfl
@[simp] theorem modHollow_cal (n : Nat) (f : Hollow → Hollow) (p : Pkg) : (modHollow n f p).cal = p.cal := rfl
@[simp] theorem modHollow_ic (n : Nat) (f : Hollow → Hollow) (p : Pkg) : (modHollow n f p).ic = p.ic := rfl
@[simp] theorem modHollow_mem (n : Nat) (f : Hollow → Hollow) (p : Pkg) : (modHollow n f p).mem = p.mem := rfl
@[simp] theorem modHollow_links (n : Nat) (f : Hollow → Hollow) (p : Pkg) : (modHollow n f p).links = p.links := rfl
@[simp] theorem modHollow_dies (n : Nat) (f : Hollow → Hollow) (p : Pkg) : (modHollow n f p).dies = p.dies := rfl
@[simp] theorem modHollow_integ (n : Nat) (f : Hollow → Hollow) (p : Pkg) : (modHollow n f p).integ = p.integ := rfl
@[simp] theorem modHollow_pwr (n : Nat) (f : Hollow → Hollow) (p : Pkg) : (modHollow n f p).pwr = p.pwr := rfl
@[simp] theorem modHollow_boot (n : Nat) (f : Hollow → Hollow) (p : Pkg) : (modHollow n f p).boot = p.boot := rfl
@[simp] theorem modHollow_mgt (n : Nat) (f : Hollow → Hollow) (p : Pkg) : (modHollow n f p).mgt = p.mgt := rfl
@[simp] theorem modHollow_flash (n : Nat) (f : Hollow → Hollow) (p : Pkg) : (modHollow n f p).flash = p.flash := rfl
@[simp] theorem modHollow_tasks (n : Nat) (f : Hollow → Hollow) (p : Pkg) : (modHollow n f p).tasks = p.tasks := rfl
@[simp] theorem modHollow_step (n : Nat) (f : Hollow → Hollow) (p : Pkg) : (modHollow n f p).step = p.step := rfl
@[simp] theorem modHollow_upd (n : Nat) (f : Hollow → Hollow) (p : Pkg) : (modHollow n f p).upd = p.upd := rfl
@[simp] theorem modHollow_hollow (n : Nat) (f : Hollow → Hollow) (p : Pkg) :
    (modHollow n f p).hollow = { p.hollow with stages := modAt p.hollow.stages n f } := rfl
@[simp] theorem modHollow_rings (n : Nat) (f : Hollow → Hollow) (p : Pkg) : (modHollow n f p).rings = p.rings := rfl
@[simp] theorem modHollow_pipe (n : Nat) (f : Hollow → Hollow) (p : Pkg) : (modHollow n f p).pipe = p.pipe := rfl
@[simp] theorem modHollow_colls (n : Nat) (f : Hollow → Hollow) (p : Pkg) : (modHollow n f p).colls = p.colls := rfl
@[simp] theorem modHollow_reshard (n : Nat) (f : Hollow → Hollow) (p : Pkg) :
    (modHollow n f p).reshard = p.reshard := rfl
@[simp] theorem modHollow_free (n : Nat) (f : Hollow → Hollow) (p : Pkg) : (modHollow n f p).free = p.free := rfl

/-! ### modReshard -/

@[simp] theorem modReshard_host (f : Reshard → Reshard) (p : Pkg) : (modReshard f p).host = p.host := rfl
@[simp] theorem modReshard_out (f : Reshard → Reshard) (p : Pkg) : (modReshard f p).out = p.out := rfl
@[simp] theorem modReshard_ft (f : Reshard → Reshard) (p : Pkg) : (modReshard f p).ft = p.ft := rfl
@[simp] theorem modReshard_cal (f : Reshard → Reshard) (p : Pkg) : (modReshard f p).cal = p.cal := rfl
@[simp] theorem modReshard_ic (f : Reshard → Reshard) (p : Pkg) : (modReshard f p).ic = p.ic := rfl
@[simp] theorem modReshard_mem (f : Reshard → Reshard) (p : Pkg) : (modReshard f p).mem = p.mem := rfl
@[simp] theorem modReshard_links (f : Reshard → Reshard) (p : Pkg) : (modReshard f p).links = p.links := rfl
@[simp] theorem modReshard_dies (f : Reshard → Reshard) (p : Pkg) : (modReshard f p).dies = p.dies := rfl
@[simp] theorem modReshard_integ (f : Reshard → Reshard) (p : Pkg) : (modReshard f p).integ = p.integ := rfl
@[simp] theorem modReshard_pwr (f : Reshard → Reshard) (p : Pkg) : (modReshard f p).pwr = p.pwr := rfl
@[simp] theorem modReshard_boot (f : Reshard → Reshard) (p : Pkg) : (modReshard f p).boot = p.boot := rfl
@[simp] theorem modReshard_mgt (f : Reshard → Reshard) (p : Pkg) : (modReshard f p).mgt = p.mgt := rfl
@[simp] theorem modReshard_flash (f : Reshard → Reshard) (p : Pkg) : (modReshard f p).flash = p.flash := rfl
@[simp] theorem modReshard_tasks (f : Reshard → Reshard) (p : Pkg) : (modReshard f p).tasks = p.tasks := rfl
@[simp] theorem modReshard_step (f : Reshard → Reshard) (p : Pkg) : (modReshard f p).step = p.step := rfl
@[simp] theorem modReshard_upd (f : Reshard → Reshard) (p : Pkg) : (modReshard f p).upd = p.upd := rfl
@[simp] theorem modReshard_hollow (f : Reshard → Reshard) (p : Pkg) : (modReshard f p).hollow = p.hollow := rfl
@[simp] theorem modReshard_rings (f : Reshard → Reshard) (p : Pkg) : (modReshard f p).rings = p.rings := rfl
@[simp] theorem modReshard_pipe (f : Reshard → Reshard) (p : Pkg) : (modReshard f p).pipe = p.pipe := rfl
@[simp] theorem modReshard_colls (f : Reshard → Reshard) (p : Pkg) : (modReshard f p).colls = p.colls := rfl
@[simp] theorem modReshard_reshard (f : Reshard → Reshard) (p : Pkg) : (modReshard f p).reshard = f p.reshard := rfl
@[simp] theorem modReshard_free (f : Reshard → Reshard) (p : Pkg) : (modReshard f p).free = p.free := rfl

/-! ### modInteg -/

@[simp] theorem modInteg_host (f : Integ → Integ) (p : Pkg) : (modInteg f p).host = p.host := rfl
@[simp] theorem modInteg_out (f : Integ → Integ) (p : Pkg) : (modInteg f p).out = p.out := rfl
@[simp] theorem modInteg_ft (f : Integ → Integ) (p : Pkg) : (modInteg f p).ft = p.ft := rfl
@[simp] theorem modInteg_cal (f : Integ → Integ) (p : Pkg) : (modInteg f p).cal = p.cal := rfl
@[simp] theorem modInteg_ic (f : Integ → Integ) (p : Pkg) : (modInteg f p).ic = p.ic := rfl
@[simp] theorem modInteg_mem (f : Integ → Integ) (p : Pkg) : (modInteg f p).mem = p.mem := rfl
@[simp] theorem modInteg_links (f : Integ → Integ) (p : Pkg) : (modInteg f p).links = p.links := rfl
@[simp] theorem modInteg_dies (f : Integ → Integ) (p : Pkg) : (modInteg f p).dies = p.dies := rfl
@[simp] theorem modInteg_integ (f : Integ → Integ) (p : Pkg) : (modInteg f p).integ = f p.integ := rfl
@[simp] theorem modInteg_pwr (f : Integ → Integ) (p : Pkg) : (modInteg f p).pwr = p.pwr := rfl
@[simp] theorem modInteg_boot (f : Integ → Integ) (p : Pkg) : (modInteg f p).boot = p.boot := rfl
@[simp] theorem modInteg_mgt (f : Integ → Integ) (p : Pkg) : (modInteg f p).mgt = p.mgt := rfl
@[simp] theorem modInteg_flash (f : Integ → Integ) (p : Pkg) : (modInteg f p).flash = p.flash := rfl
@[simp] theorem modInteg_tasks (f : Integ → Integ) (p : Pkg) : (modInteg f p).tasks = p.tasks := rfl
@[simp] theorem modInteg_step (f : Integ → Integ) (p : Pkg) : (modInteg f p).step = p.step := rfl
@[simp] theorem modInteg_upd (f : Integ → Integ) (p : Pkg) : (modInteg f p).upd = p.upd := rfl
@[simp] theorem modInteg_hollow (f : Integ → Integ) (p : Pkg) : (modInteg f p).hollow = p.hollow := rfl
@[simp] theorem modInteg_rings (f : Integ → Integ) (p : Pkg) : (modInteg f p).rings = p.rings := rfl
@[simp] theorem modInteg_pipe (f : Integ → Integ) (p : Pkg) : (modInteg f p).pipe = p.pipe := rfl
@[simp] theorem modInteg_colls (f : Integ → Integ) (p : Pkg) : (modInteg f p).colls = p.colls := rfl
@[simp] theorem modInteg_reshard (f : Integ → Integ) (p : Pkg) : (modInteg f p).reshard = p.reshard := rfl
@[simp] theorem modInteg_free (f : Integ → Integ) (p : Pkg) : (modInteg f p).free = p.free := rfl

/-! ### modPwr -/

@[simp] theorem modPwr_host (f : Pwr → Pwr) (p : Pkg) : (modPwr f p).host = p.host := rfl
@[simp] theorem modPwr_out (f : Pwr → Pwr) (p : Pkg) : (modPwr f p).out = p.out := rfl
@[simp] theorem modPwr_ft (f : Pwr → Pwr) (p : Pkg) : (modPwr f p).ft = p.ft := rfl
@[simp] theorem modPwr_cal (f : Pwr → Pwr) (p : Pkg) : (modPwr f p).cal = p.cal := rfl
@[simp] theorem modPwr_ic (f : Pwr → Pwr) (p : Pkg) : (modPwr f p).ic = p.ic := rfl
@[simp] theorem modPwr_mem (f : Pwr → Pwr) (p : Pkg) : (modPwr f p).mem = p.mem := rfl
@[simp] theorem modPwr_links (f : Pwr → Pwr) (p : Pkg) : (modPwr f p).links = p.links := rfl
@[simp] theorem modPwr_dies (f : Pwr → Pwr) (p : Pkg) : (modPwr f p).dies = p.dies := rfl
@[simp] theorem modPwr_integ (f : Pwr → Pwr) (p : Pkg) : (modPwr f p).integ = p.integ := rfl
@[simp] theorem modPwr_pwr (f : Pwr → Pwr) (p : Pkg) : (modPwr f p).pwr = f p.pwr := rfl
@[simp] theorem modPwr_boot (f : Pwr → Pwr) (p : Pkg) : (modPwr f p).boot = p.boot := rfl
@[simp] theorem modPwr_mgt (f : Pwr → Pwr) (p : Pkg) : (modPwr f p).mgt = p.mgt := rfl
@[simp] theorem modPwr_flash (f : Pwr → Pwr) (p : Pkg) : (modPwr f p).flash = p.flash := rfl
@[simp] theorem modPwr_tasks (f : Pwr → Pwr) (p : Pkg) : (modPwr f p).tasks = p.tasks := rfl
@[simp] theorem modPwr_step (f : Pwr → Pwr) (p : Pkg) : (modPwr f p).step = p.step := rfl
@[simp] theorem modPwr_upd (f : Pwr → Pwr) (p : Pkg) : (modPwr f p).upd = p.upd := rfl
@[simp] theorem modPwr_hollow (f : Pwr → Pwr) (p : Pkg) : (modPwr f p).hollow = p.hollow := rfl
@[simp] theorem modPwr_rings (f : Pwr → Pwr) (p : Pkg) : (modPwr f p).rings = p.rings := rfl
@[simp] theorem modPwr_pipe (f : Pwr → Pwr) (p : Pkg) : (modPwr f p).pipe = p.pipe := rfl
@[simp] theorem modPwr_colls (f : Pwr → Pwr) (p : Pkg) : (modPwr f p).colls = p.colls := rfl
@[simp] theorem modPwr_reshard (f : Pwr → Pwr) (p : Pkg) : (modPwr f p).reshard = p.reshard := rfl
@[simp] theorem modPwr_free (f : Pwr → Pwr) (p : Pkg) : (modPwr f p).free = p.free := rfl

/-! ### modBoot -/

@[simp] theorem modBoot_host (f : Boot → Boot) (p : Pkg) : (modBoot f p).host = p.host := rfl
@[simp] theorem modBoot_out (f : Boot → Boot) (p : Pkg) : (modBoot f p).out = p.out := rfl
@[simp] theorem modBoot_ft (f : Boot → Boot) (p : Pkg) : (modBoot f p).ft = p.ft := rfl
@[simp] theorem modBoot_cal (f : Boot → Boot) (p : Pkg) : (modBoot f p).cal = p.cal := rfl
@[simp] theorem modBoot_ic (f : Boot → Boot) (p : Pkg) : (modBoot f p).ic = p.ic := rfl
@[simp] theorem modBoot_mem (f : Boot → Boot) (p : Pkg) : (modBoot f p).mem = p.mem := rfl
@[simp] theorem modBoot_links (f : Boot → Boot) (p : Pkg) : (modBoot f p).links = p.links := rfl
@[simp] theorem modBoot_dies (f : Boot → Boot) (p : Pkg) : (modBoot f p).dies = p.dies := rfl
@[simp] theorem modBoot_integ (f : Boot → Boot) (p : Pkg) : (modBoot f p).integ = p.integ := rfl
@[simp] theorem modBoot_pwr (f : Boot → Boot) (p : Pkg) : (modBoot f p).pwr = p.pwr := rfl
@[simp] theorem modBoot_boot (f : Boot → Boot) (p : Pkg) : (modBoot f p).boot = f p.boot := rfl
@[simp] theorem modBoot_mgt (f : Boot → Boot) (p : Pkg) : (modBoot f p).mgt = p.mgt := rfl
@[simp] theorem modBoot_flash (f : Boot → Boot) (p : Pkg) : (modBoot f p).flash = p.flash := rfl
@[simp] theorem modBoot_tasks (f : Boot → Boot) (p : Pkg) : (modBoot f p).tasks = p.tasks := rfl
@[simp] theorem modBoot_step (f : Boot → Boot) (p : Pkg) : (modBoot f p).step = p.step := rfl
@[simp] theorem modBoot_upd (f : Boot → Boot) (p : Pkg) : (modBoot f p).upd = p.upd := rfl
@[simp] theorem modBoot_hollow (f : Boot → Boot) (p : Pkg) : (modBoot f p).hollow = p.hollow := rfl
@[simp] theorem modBoot_rings (f : Boot → Boot) (p : Pkg) : (modBoot f p).rings = p.rings := rfl
@[simp] theorem modBoot_pipe (f : Boot → Boot) (p : Pkg) : (modBoot f p).pipe = p.pipe := rfl
@[simp] theorem modBoot_colls (f : Boot → Boot) (p : Pkg) : (modBoot f p).colls = p.colls := rfl
@[simp] theorem modBoot_reshard (f : Boot → Boot) (p : Pkg) : (modBoot f p).reshard = p.reshard := rfl
@[simp] theorem modBoot_free (f : Boot → Boot) (p : Pkg) : (modBoot f p).free = p.free := rfl

end Sys2Proof.Machine
end

