-- ==== Sys2Proof/Laws/Ops.lean ====
section
/-! SUPPORT. What each shared operation can do, said once: which parts of the package's state it touches, and how a
command comes to its meaning. -/

namespace Sys2Proof.Machine

/-! ### How a command comes to its meaning -/

@[simp] theorem onP_eq (f : Settings → Pkg → Pkg) (s : State) : onP f s = .next { s with p := f s.set s.p } := rfl

theorem onPacket_takes {s : State} {q op : Nat} {w : Who} {b : List Byte} {p : Pkg} (f : Who → List Byte → State → State)
    (h : Takes s (.queue q) op w b p) : onPacket q op f s = .next (f w b { s with p := p }) := by
  obtain ⟨pk, h1, h2, rfl, rfl⟩ := h
  simp [onPacket, h1, h2]

theorem onPacketP_takes {s : State} {q op : Nat} {w : Who} {b : List Byte} {p : Pkg}
    (f : Who → List Byte → Settings → Pkg → Pkg) (h : Takes s (.queue q) op w b p) :
    onPacketP q op f s = .next { s with p := f w b s.set p } := by
  simp [onPacketP, onPacket_takes _ h]

theorem onRoute_takes {s : State} {r : Route} {op : Nat} {w : Who} {b : List Byte} {p : Pkg}
    (f : Who → List Byte → State → State) (h : Takes s r op w b p) :
    onRoute r op f s = .next (f w b { s with p := p }) := by
  cases r with
  | queue q => exact onPacket_takes f h
  | mctp via body =>
    obtain ⟨h1, h2, rfl, rfl, rfl⟩ := h
    simp [onRoute, mctpServe, h1, h2]

/-- Whatever a packet command does, it answers a next state. -/
theorem onPacket_next (q op : Nat) (f : Who → List Byte → State → State) (s : State) :
    ∃ t, onPacket q op f s = .next t := by
  unfold onPacket; split
  · exact ⟨_, rfl⟩
  · split <;> exact ⟨_, rfl⟩

theorem onRoute_next (r : Route) (op : Nat) (f : Who → List Byte → State → State) (s : State) :
    ∃ t, onRoute r op f s = .next t := by
  cases r with
  | queue q => exact onPacket_next q op f s
  | mctp via body => exact ⟨_, rfl⟩

/-- A command that changes the working state alone leaves the settings and the queue of commands. -/
theorem onPacketP_keeps {q op : Nat} {f : Who → List Byte → Settings → Pkg → Pkg} {s t : State}
    (h : onPacketP q op f s = .next t) : t.set = s.set ∧ t.pending = s.pending := by
  unfold onPacketP onPacket at h
  split at h
  · cases h; exact ⟨rfl, rfl⟩
  · split at h <;> (cases h; exact ⟨rfl, rfl⟩)

/-- What every meaning of a request keeps, the command keeps: `K` relates the state before to the state after. -/
theorem onPacket_rel {K : State → State → Prop} {q op : Nat} {f : Who → List Byte → State → State} {s t : State}
    (hp : ∀ u p, K u { u with p := p }) (ht : ∀ u v w, K u v → K v w → K u w) (hf : ∀ w b u, K u (f w b u))
    (h : onPacket q op f s = .next t) : K s t := by
  unfold onPacket at h
  split at h
  · cases h; exact hp s s.p
  · split at h <;> cases h
    · exact hp s _
    · exact ht _ _ _ (hp s _) (hf _ _ _)

theorem onRoute_rel {K : State → State → Prop} {r : Route} {op : Nat} {f : Who → List Byte → State → State}
    {s t : State} (hp : ∀ u p, K u { u with p := p }) (ht : ∀ u v w, K u v → K v w → K u w)
    (hf : ∀ w b u, K u (f w b u)) (h : onRoute r op f s = .next t) : K s t := by
  cases r with
  | queue q => exact onPacket_rel hp ht hf h
  | mctp via body =>
    simp only [onRoute] at h
    split at h <;> cases h
    · unfold mctpServe; split
      · exact hf _ _ _
      · exact hp s _
    · exact hp s _

/-- The settings and the queue of commands stand. -/
def State.Stands (s t : State) : Prop := t.set = s.set ∧ t.pending = s.pending

theorem onRoute_keeps {r : Route} {op : Nat} {f : Who → List Byte → State → State} {s t : State}
    (hf : ∀ w b u, State.Stands u (f w b u)) (h : onRoute r op f s = .next t) : State.Stands s t :=
  onRoute_rel (fun _ _ => ⟨rfl, rfl⟩) (fun _ _ _ h1 h2 => ⟨h2.1.trans h1.1, h2.2.trans h1.2⟩) hf h

/-! ### Operations that touch the interrupt controller, the outputs and what goes to a die -/

theorem SameDie.trans {a b c : Die} (h1 : SameDie a b) (h2 : SameDie b c) : SameDie a c := by
  unfold SameDie at *; rw [h2, h1]

theorem SameIc.of {p q : Pkg} (h : q = { p with ic := q.ic, out := q.out }) : SameIc p q := by
  have e : q.dies = p.dies := by rw [h]
  exact ⟨by rw [e]; exact h, fun d => by rw [e]; rfl⟩

theorem SameIc.refl (p : Pkg) : SameIc p p := .of rfl

theorem SameIc.trans {p q r : Pkg} (h1 : SameIc p q) (h2 : SameIc q r) : SameIc p r :=
  ⟨by rw [h2.1, h1.1], fun d => (h1.2 d).trans (h2.2 d)⟩

theorem setChosen_frame (c : Chosen) (p : Pkg) : SameIc p (setChosen c p) := .of rfl

theorem icTake_frame (s : Nat) (p : Pkg) : SameIc p (icTake s p) := by
  unfold icTake; split <;> exact .of rfl

theorem icClear_frame (s : Nat) (p : Pkg) : SameIc p (icClear s p) := .of rfl

theorem sendMsix_frame (v : Nat) (p : Pkg) : SameIc p (sendMsix v p) := by
  unfold sendMsix; split <;> exact .of rfl

theorem modAt_getD {α : Type} (l : List α) (i j : Nat) (f : α → α) (x : α) :
    (modAt l i f).getD j x = if i = j ∧ j < l.length then f (l.getD j x) else l.getD j x := by
  unfold modAt
  cases h : l[i]? with
  | none =>
    have := List.getElem?_eq_none_iff.mp h
    rw [if_neg (by omega)]
  | some y =>
    obtain ⟨hl, rfl⟩ := List.getElem?_eq_some_iff.mp h
    by_cases e : i = j
    · subst e; simp [List.getD_eq_getElem?_getD, hl]
    · simp [List.getD_eq_getElem?_getD, e]

theorem modDie_frame (d : Nat) (f : Die → Die) (p : Pkg) (hf : ∀ x, SameDie x (f x)) : SameIc p (modDie d f p) := by
  refine ⟨rfl, fun e => ?_⟩
  show SameDie _ ((modAt p.dies d f).getD e {})
  rw [modAt_getD]; split
  · exact hf _
  · rfl

theorem foldl_frame {α : Type} (f : Pkg → α → Pkg) (hf : ∀ p a, SameIc p (f p a)) (l : List α) (p : Pkg) :
    SameIc p (l.foldl f p) := by
  induction l generalizing p with
  | nil => exact .refl p
  | cons a l ih => exact (hf p a).trans (ih _)

theorem modLaneGroup_frame (d g : Nat) (f : Group → Group) (p : Pkg) : SameIc p (modLaneGroup d g f p) :=
  modDie_frame d (fun x => setGroup (f (groupAt x g)) x) p fun _ => rfl

theorem putFlit_frame (d g : Nat) (h : FlitHdr) (data : List Byte) (p : Pkg) : SameIc p (putFlit d g h data p) :=
  (modLaneGroup_frame d g _ p).trans (.of rfl)

theorem drainFlits_frame (d g : Nat) (p : Pkg) : SameIc p (drainFlits d g p) :=
  (modLaneGroup_frame d g _ p).trans (foldl_frame _
    (fun q _ => (modLaneGroup_frame d g _ q).trans (putFlit_frame d g _ _ _)) _ _)

theorem sendFlit_frame (d g type flow tag dest : Nat) (data : List Byte) (p : Pkg) :
    SameIc p (sendFlit d g type flow tag dest data p) :=
  (modLaneGroup_frame d g _ p).trans (drainFlits_frame d g _)

theorem sendRequest_frame (d : Nat) (o : Option (Nat × Nat × Nat)) (r : WdiReq) (p : Pkg) :
    SameIc p (sendRequest d o r p) := by
  let n := (p.dies.getD d {}).lastTag % 0xFFFF + 1
  exact (modDie_frame d (fun x => { x with lastTag := n, waiting := x.waiting ++ [⟨n, o⟩] }) p fun _ => rfl).trans
    (sendFlit_frame ..)

theorem icDeliver_frame (t : Nat) (p : Pkg) : SameIc p (icDeliver t p) := by
  unfold icDeliver
  split
  · exact .refl p
  · dsimp only; split
    · refine SameIc.trans (q := { icClear _ p with ic := _ }) (.of rfl) (sendRequest_frame ..)
    · exact .of rfl

theorem icAct_frame (s : Nat) (p : Pkg) : SameIc p (icAct s p) := by
  unfold icAct; split
  · split
    · exact sendMsix_frame _ _
    · exact icDeliver_frame _ _
  · exact .refl p

theorem icChange_frame (srcs : List Nat) (f : Pkg → Pkg) (p : Pkg) (hf : SameIc p (f p)) : SameIc p (icChange srcs f p) :=
  hf.trans (foldl_frame _ (fun q s => icAct_frame s q) _ _)

/-- A source event changes the interrupt controller, the outputs and the requests that go to a die alone. -/
theorem raise_frame (s : Nat) (p : Pkg) : SameIc p (raise s p) := by
  unfold raise; split
  · exact .refl p
  · split
    · exact .of rfl
    · exact icChange_frame _ _ _ (.trans (q := { p with ic := _ }) (.of rfl) (icTake_frame s _))

/-- A source of PRIO 0 sets no pending bit (R461). -/
theorem raise_off {s : Nat} {p : Pkg} (h : p.ic.prio.getD s 0 = 0) : raise s p = p := by
  simp [raise, List.getD_eq_getElem?_getD] at *; simp [h]

/-! ### The event log -/

/-- `q` is `p` but for the management subsystem, the interrupt controller, the outputs and what goes to the dies. -/
def SameLog (p q : Pkg) : Prop :=
  q = { p with mgt := q.mgt, ic := q.ic, out := q.out, dies := q.dies } ∧
    ∀ d, SameDie (p.dies.getD d {}) (q.dies.getD d {})

theorem SameLog.trans {p q r : Pkg} (h1 : SameLog p q) (h2 : SameLog q r) : SameLog p r :=
  ⟨by rw [h2.1, h1.1], fun d => (h1.2 d).trans (h2.2 d)⟩

theorem SameIc.log {p q : Pkg} (h : SameIc p q) : SameLog p q :=
  ⟨by rw [h.1], h.2⟩

theorem SameLog.of {p q : Pkg} (h : q = { p with mgt := q.mgt }) : SameLog p q := by
  have e : q.dies = p.dies := by rw [h]
  have e1 : q.ic = p.ic := by rw [h]
  have e2 : q.out = p.out := by rw [h]
  exact ⟨by rw [e, e1, e2]; exact h, fun d => by rw [e]; rfl⟩

theorem logPut_frame (e : LogEntry) (p : Pkg) : SameLog p (logPut e p) := by
  unfold logPut; dsimp only
  split
  · exact SameLog.trans (q := alert alLog { p with mgt := _ }) (.of rfl) (raise_frame 344 _).log
  · exact SameLog.trans (q := { p with mgt := _ }) (.of rfl) (raise_frame 344 _).log

theorem logAt_frame (near : Bool) (kind status unit : Nat) (items : List (List Byte)) (p : Pkg) :
    SameLog p (logAt near kind status unit items p) := by
  unfold logAt; dsimp only
  split
  · split <;> exact .of rfl
  · exact logPut_frame _ p

theorem log_frame (kind status unit : Nat) (items : List (List Byte)) (p : Pkg) :
    SameLog p (log kind status unit items p) := logAt_frame _ _ _ _ _ _

/-! ### Answers -/

/-- An answer touches the host interface and the outputs alone. -/
theorem answer_frame (w : Who) (st d c : Nat) (p : Pkg) :
    answer w st d c p = { p with host := (answer w st d c p).host, out := (answer w st d c p).out } := by
  unfold answer; split
  · rfl
  · rfl
  · split <;> rfl

/-- The answer to a packet that is there becomes due on its queue, and the packet leaves it. -/
theorem answer_queue {q num : Nat} {p : Pkg} {pk : Packet} (h : findPacket p q num = some pk) (st d c : Nat) :
    answer (.queue q num) st d c p =
      modQueue q (fun u => { u with
        read := u.read.filter fun k => k.num != num, due := u.due ++ [pk.reply p st d c] }) p := by
  simp [answer, h]

@[simp] theorem answer_nobody (st d c : Nat) (p : Pkg) : answer .nobody st d c p = p := rfl

theorem answer_mctp (via : Transport) (st d c : Nat) (p : Pkg) :
    answer (.mctp via) st d c p = { p with out := { p.out with mctp := p.out.mctp ++ [(via, mctpBody st d c [])] } } := rfl

/-! ### Fields that shared operations leave -/

/-! #### raise -/

@[simp] theorem raise_host (s : Nat) (p : Pkg) : (raise s p).host = p.host := by
  rw [(raise_frame s p).1]
@[simp] theorem raise_ft (s : Nat) (p : Pkg) : (raise s p).ft = p.ft := by
  rw [(raise_frame s p).1]
@[simp] theorem raise_cal (s : Nat) (p : Pkg) : (raise s p).cal = p.cal := by
  rw [(raise_frame s p).1]
@[simp] theorem raise_mem (s : Nat) (p : Pkg) : (raise s p).mem = p.mem := by
  rw [(raise_frame s p).1]
@[simp] theorem raise_links (s : Nat) (p : Pkg) : (raise s p).links = p.links := by
  rw [(raise_frame s p).1]
@[simp] theorem raise_dieState (s d : Nat) (p : Pkg) :
    ((raise s p).dies.getD d {}).state = (p.dies.getD d {}).state := by
  rw [(raise_frame s p).2 d]
@[simp] theorem raise_integ (s : Nat) (p : Pkg) : (raise s p).integ = p.integ := by
  rw [(raise_frame s p).1]
@[simp] theorem raise_pwr (s : Nat) (p : Pkg) : (raise s p).pwr = p.pwr := by
  rw [(raise_frame s p).1]
@[simp] theorem raise_boot (s : Nat) (p : Pkg) : (raise s p).boot = p.boot := by
  rw [(raise_frame s p).1]
@[simp] theorem raise_mgt (s : Nat) (p : Pkg) : (raise s p).mgt = p.mgt := by
  rw [(raise_frame s p).1]
@[simp] theorem raise_flash (s : Nat) (p : Pkg) : (raise s p).flash = p.flash := by
  rw [(raise_frame s p).1]
@[simp] theorem raise_tasks (s : Nat) (p : Pkg) : (raise s p).tasks = p.tasks := by
  rw [(raise_frame s p).1]
@[simp] theorem raise_step (s : Nat) (p : Pkg) : (raise s p).step = p.step := by
  rw [(raise_frame s p).1]
@[simp] theorem raise_upd (s : Nat) (p : Pkg) : (raise s p).upd = p.upd := by
  rw [(raise_frame s p).1]
@[simp] theorem raise_hollow (s : Nat) (p : Pkg) : (raise s p).hollow = p.hollow := by
  rw [(raise_frame s p).1]
@[simp] theorem raise_rings (s : Nat) (p : Pkg) : (raise s p).rings = p.rings := by
  rw [(raise_frame s p).1]
@[simp] theorem raise_pipe (s : Nat) (p : Pkg) : (raise s p).pipe = p.pipe := by
  rw [(raise_frame s p).1]
@[simp] theorem raise_colls (s : Nat) (p : Pkg) : (raise s p).colls = p.colls := by
  rw [(raise_frame s p).1]
@[simp] theorem raise_reshard (s : Nat) (p : Pkg) : (raise s p).reshard = p.reshard := by
  rw [(raise_frame s p).1]
@[simp] theorem raise_free (s : Nat) (p : Pkg) : (raise s p).free = p.free := by
  rw [(raise_frame s p).1]

/-! #### log -/

@[simp] theorem log_host (k st u : Nat) (l : List (List Byte)) (p : Pkg) : (log k st u l p).host = p.host := by
  rw [(log_frame k st u l p).1]
@[simp] theorem log_ft (k st u : Nat) (l : List (List Byte)) (p : Pkg) : (log k st u l p).ft = p.ft := by
  rw [(log_frame k st u l p).1]
@[simp] theorem log_cal (k st u : Nat) (l : List (List Byte)) (p : Pkg) : (log k st u l p).cal = p.cal := by
  rw [(log_frame k st u l p).1]
@[simp] theorem log_mem (k st u : Nat) (l : List (List Byte)) (p : Pkg) : (log k st u l p).mem = p.mem := by
  rw [(log_frame k st u l p).1]
@[simp] theorem log_links (k st u : Nat) (l : List (List Byte)) (p : Pkg) : (log k st u l p).links = p.links := by
  rw [(log_frame k st u l p).1]
@[simp] theorem log_dieState (k st u d : Nat) (l : List (List Byte)) (p : Pkg) :
    ((log k st u l p).dies.getD d {}).state = (p.dies.getD d {}).state := by
  rw [(log_frame k st u l p).2 d]
@[simp] theorem log_integ (k st u : Nat) (l : List (List Byte)) (p : Pkg) : (log k st u l p).integ = p.integ := by
  rw [(log_frame k st u l p).1]
@[simp] theorem log_pwr (k st u : Nat) (l : List (List Byte)) (p : Pkg) : (log k st u l p).pwr = p.pwr := by
  rw [(log_frame k st u l p).1]
@[simp] theorem log_boot (k st u : Nat) (l : List (List Byte)) (p : Pkg) : (log k st u l p).boot = p.boot := by
  rw [(log_frame k st u l p).1]
@[simp] theorem log_flash (k st u : Nat) (l : List (List Byte)) (p : Pkg) : (log k st u l p).flash = p.flash := by
  rw [(log_frame k st u l p).1]
@[simp] theorem log_tasks (k st u : Nat) (l : List (List Byte)) (p : Pkg) : (log k st u l p).tasks = p.tasks := by
  rw [(log_frame k st u l p).1]
@[simp] theorem log_step (k st u : Nat) (l : List (List Byte)) (p : Pkg) : (log k st u l p).step = p.step := by
  rw [(log_frame k st u l p).1]
@[simp] theorem log_upd (k st u : Nat) (l : List (List Byte)) (p : Pkg) : (log k st u l p).upd = p.upd := by
  rw [(log_frame k st u l p).1]
@[simp] theorem log_hollow (k st u : Nat) (l : List (List Byte)) (p : Pkg) : (log k st u l p).hollow = p.hollow := by
  rw [(log_frame k st u l p).1]
@[simp] theorem log_rings (k st u : Nat) (l : List (List Byte)) (p : Pkg) : (log k st u l p).rings = p.rings := by
  rw [(log_frame k st u l p).1]
@[simp] theorem log_pipe (k st u : Nat) (l : List (List Byte)) (p : Pkg) : (log k st u l p).pipe = p.pipe := by
  rw [(log_frame k st u l p).1]
@[simp] theorem log_colls (k st u : Nat) (l : List (List Byte)) (p : Pkg) : (log k st u l p).colls = p.colls := by
  rw [(log_frame k st u l p).1]
@[simp] theorem log_reshard (k st u : Nat) (l : List (List Byte)) (p : Pkg) : (log k st u l p).reshard = p.reshard := by
  rw [(log_frame k st u l p).1]
@[simp] theorem log_free (k st u : Nat) (l : List (List Byte)) (p : Pkg) : (log k st u l p).free = p.free := by
  rw [(log_frame k st u l p).1]

/-! #### detect -/

@[simp] theorem detect_host (k : Nat) (p : Pkg) : (detect k p).host = p.host := by
  rfl
@[simp] theorem detect_out (k : Nat) (p : Pkg) : (detect k p).out = p.out := by
  rfl
@[simp] theorem detect_ft (k : Nat) (p : Pkg) : (detect k p).ft = p.ft := by
  rfl
@[simp] theorem detect_cal (k : Nat) (p : Pkg) : (detect k p).cal = p.cal := by
  rfl
@[simp] theorem detect_ic (k : Nat) (p : Pkg) : (detect k p).ic = p.ic := by
  rfl
@[simp] theorem detect_mem (k : Nat) (p : Pkg) : (detect k p).mem = p.mem := by
  rfl
@[simp] theorem detect_links (k : Nat) (p : Pkg) : (detect k p).links = p.links := by
  rfl
@[simp] theorem detect_dies (k : Nat) (p : Pkg) : (detect k p).dies = p.dies := by
  rfl
@[simp] theorem detect_pwr (k : Nat) (p : Pkg) : (detect k p).pwr = p.pwr := by
  rfl
@[simp] theorem detect_boot (k : Nat) (p : Pkg) : (detect k p).boot = p.boot := by
  rfl
@[simp] theorem detect_mgt (k : Nat) (p : Pkg) : (detect k p).mgt = p.mgt := by
  rfl
@[simp] theorem detect_flash (k : Nat) (p : Pkg) : (detect k p).flash = p.flash := by
  rfl
@[simp] theorem detect_tasks (k : Nat) (p : Pkg) : (detect k p).tasks = p.tasks := by
  rfl
@[simp] theorem detect_step (k : Nat) (p : Pkg) : (detect k p).step = p.step := by
  rfl
@[simp] theorem detect_upd (k : Nat) (p : Pkg) : (detect k p).upd = p.upd := by
  rfl
@[simp] theorem detect_hollow (k : Nat) (p : Pkg) : (detect k p).hollow = p.hollow := by
  rfl
@[simp] theorem detect_rings (k : Nat) (p : Pkg) : (detect k p).rings = p.rings := by
  rfl
@[simp] theorem detect_pipe (k : Nat) (p : Pkg) : (detect k p).pipe = p.pipe := by
  rfl
@[simp] theorem detect_colls (k : Nat) (p : Pkg) : (detect k p).colls = p.colls := by
  rfl
@[simp] theorem detect_reshard (k : Nat) (p : Pkg) : (detect k p).reshard = p.reshard := by
  rfl
@[simp] theorem detect_free (k : Nat) (p : Pkg) : (detect k p).free = p.free := by
  rfl

/-! #### answer -/

@[simp] theorem answer_ft (w : Who) (st d c : Nat) (p : Pkg) : (answer w st d c p).ft = p.ft := by
  rw [answer_frame w st d c p]
@[simp] theorem answer_cal (w : Who) (st d c : Nat) (p : Pkg) : (answer w st d c p).cal = p.cal := by
  rw [answer_frame w st d c p]
@[simp] theorem answer_ic (w : Who) (st d c : Nat) (p : Pkg) : (answer w st d c p).ic = p.ic := by
  rw [answer_frame w st d c p]
@[simp] theorem answer_mem (w : Who) (st d c : Nat) (p : Pkg) : (answer w st d c p).mem = p.mem := by
  rw [answer_frame w st d c p]
@[simp] theorem answer_links (w : Who) (st d c : Nat) (p : Pkg) : (answer w st d c p).links = p.links := by
  rw [answer_frame w st d c p]
@[simp] theorem answer_dies (w : Who) (st d c : Nat) (p : Pkg) : (answer w st d c p).dies = p.dies := by
  rw [answer_frame w st d c p]
@[simp] theorem answer_integ (w : Who) (st d c : Nat) (p : Pkg) : (answer w st d c p).integ = p.integ := by
  rw [answer_frame w st d c p]
@[simp] theorem answer_pwr (w : Who) (st d c : Nat) (p : Pkg) : (answer w st d c p).pwr = p.pwr := by
  rw [answer_frame w st d c p]
@[simp] theorem answer_boot (w : Who) (st d c : Nat) (p : Pkg) : (answer w st d c p).boot = p.boot := by
  rw [answer_frame w st d c p]
@[simp] theorem answer_mgt (w : Who) (st d c : Nat) (p : Pkg) : (answer w st d c p).mgt = p.mgt := by
  rw [answer_frame w st d c p]
@[simp] theorem answer_flash (w : Who) (st d c : Nat) (p : Pkg) : (answer w st d c p).flash = p.flash := by
  rw [answer_frame w st d c p]
@[simp] theorem answer_tasks (w : Who) (st d c : Nat) (p : Pkg) : (answer w st d c p).tasks = p.tasks := by
  rw [answer_frame w st d c p]
@[simp] theorem answer_step (w : Who) (st d c : Nat) (p : Pkg) : (answer w st d c p).step = p.step := by
  rw [answer_frame w st d c p]
@[simp] theorem answer_upd (w : Who) (st d c : Nat) (p : Pkg) : (answer w st d c p).upd = p.upd := by
  rw [answer_frame w st d c p]
@[simp] theorem answer_hollow (w : Who) (st d c : Nat) (p : Pkg) : (answer w st d c p).hollow = p.hollow := by
  rw [answer_frame w st d c p]
@[simp] theorem answer_rings (w : Who) (st d c : Nat) (p : Pkg) : (answer w st d c p).rings = p.rings := by
  rw [answer_frame w st d c p]
@[simp] theorem answer_pipe (w : Who) (st d c : Nat) (p : Pkg) : (answer w st d c p).pipe = p.pipe := by
  rw [answer_frame w st d c p]
@[simp] theorem answer_colls (w : Who) (st d c : Nat) (p : Pkg) : (answer w st d c p).colls = p.colls := by
  rw [answer_frame w st d c p]
@[simp] theorem answer_reshard (w : Who) (st d c : Nat) (p : Pkg) : (answer w st d c p).reshard = p.reshard := by
  rw [answer_frame w st d c p]
@[simp] theorem answer_free (w : Who) (st d c : Nat) (p : Pkg) : (answer w st d c p).free = p.free := by
  rw [answer_frame w st d c p]

/-! ### Shared bytes of groups (R133) -/

/-- A write whose bytes are all admitted stays as it is. -/
theorem keepBytes_own {own : Nat → Bool} {o : WOp} (h : ∀ i, i < o.range.2 → own (o.range.1 + i) = true) :
    keepBytes own o = [o] := by
  have h' : ((List.range o.range.2).all fun i => own (o.range.1 + i)) = true := by simpa using h
  simp [keepBytes, h']

/-- A byte that at most one group holds takes that group's value. -/
theorem ownsByte_alone {iid x g a : Nat} {cs : List (List (Nat × Nat))} (h : (sharers cs a).length ≤ 1) :
    ownsByte iid x cs g a = true := by simp [ownsByte, h]

/-- A task without groups writes its tiles whole. -/
@[simp] theorem groupWork_plain {r : Run} (h : r.groups = []) (x c g : Nat) (ws : List Work) :
    groupWork r x c g ws = ws := by simp [groupWork, h]

end Sys2Proof.Machine
end

