-- ==== Sys2Proof/Laws/Mem.lean ====
section
/-! SUPPORT. Memory: every write keeps the canonical form, and a byte reads as it was written last. -/

namespace Sys2Proof.Machine

theorem wfFrom_weaken {a b : Nat} (h : a ≤ b) : ∀ {l : List (Nat × Byte)}, wfFrom b l = true → wfFrom a l = true
  | [], _ => rfl
  | c :: cs, w => by
    simp only [wfFrom, Bool.and_eq_true, decide_eq_true_eq] at *
    exact ⟨⟨by omega, w.1.2⟩, w.2⟩

theorem cellPut_wf (k : Nat) (v : Byte) : ∀ (l : List (Nat × Byte)) (lo : Nat), lo ≤ k → wfFrom lo l = true →
    wfFrom lo (cellPut k v l) = true
  | [], lo, hk, _ => by
    unfold cellPut; split
    · rfl
    · rename_i hv; simp [wfFrom, hk]; simpa using hv
  | c :: cs, lo, hk, h => by
    simp only [wfFrom, Bool.and_eq_true, decide_eq_true_eq] at h
    unfold cellPut
    by_cases h1 : k < c.1
    · rw [if_pos h1]
      by_cases hv : v == 0
      · rw [if_pos hv]; simp only [wfFrom, Bool.and_eq_true, decide_eq_true_eq]; exact h
      · rw [if_neg hv]
        have : (v != 0) = true := by simpa using hv
        simp only [wfFrom, Bool.and_eq_true, decide_eq_true_eq]
        exact ⟨⟨hk, this⟩, ⟨by omega, h.1.2⟩, h.2⟩
    · rw [if_neg h1]
      by_cases h2 : k == c.1
      · rw [if_pos h2]
        have h2' : k = c.1 := by simpa using h2
        by_cases hv : v == 0
        · rw [if_pos hv]; exact wfFrom_weaken (by omega) h.2
        · rw [if_neg hv]
          have : (v != 0) = true := by simpa using hv
          simp only [wfFrom, Bool.and_eq_true, decide_eq_true_eq]
          exact ⟨⟨hk, this⟩, by rw [h2']; exact h.2⟩
      · rw [if_neg h2]
        have h2' : k ≠ c.1 := by simpa using h2
        simp only [wfFrom, Bool.and_eq_true, decide_eq_true_eq]
        exact ⟨h.1, cellPut_wf k v cs (c.1 + 1) (by omega) h.2⟩

theorem cellGet_below : ∀ {l : List (Nat × Byte)} {lo k : Nat}, wfFrom lo l = true → k < lo → cellGet l k = 0
  | [], _, _, _, _ => rfl
  | c :: cs, lo, k, h, hk => by
    simp only [wfFrom, Bool.and_eq_true, decide_eq_true_eq] at h
    have : ¬ c.1 = k := by omega
    simp [cellGet, this, cellGet_below h.2 (by omega : k < c.1 + 1)]

/-- A byte reads as it was written; every other byte reads as before. -/
theorem cellGet_cellPut (k j : Nat) (v : Byte) : ∀ (l : List (Nat × Byte)) (lo : Nat), wfFrom lo l = true →
    cellGet (cellPut k v l) j = if j = k then v else cellGet l j
  | [], _, _ => by
    unfold cellPut; split
    · rename_i hv
      have : v = 0 := by simpa using hv
      split <;> simp [cellGet, this]
    · by_cases hj : j = k
      · simp [cellGet, hj]
      · simp [cellGet, hj, Ne.symm hj]
  | c :: cs, lo, h => by
    simp only [wfFrom, Bool.and_eq_true, decide_eq_true_eq] at h
    unfold cellPut
    by_cases h1 : k < c.1
    · rw [if_pos h1]
      by_cases hv : v == 0
      · rw [if_pos hv]
        have hv' : v = 0 := by simpa using hv
        by_cases hj : j = k
        · have hc : ¬ c.1 = k := by omega
          simp only [cellGet, hj, hv', beq_iff_eq, hc, if_true, if_false]
          exact cellGet_below h.2 (by omega : k < c.1 + 1)
        · simp [hj]
      · rw [if_neg hv]
        by_cases hj : j = k
        · simp [cellGet, hj]
        · simp [cellGet, hj, Ne.symm hj]
    · rw [if_neg h1]
      by_cases h2 : k == c.1
      · rw [if_pos h2]
        have h2' : k = c.1 := by simpa using h2
        by_cases hv : v == 0
        · rw [if_pos hv]
          have hv' : v = 0 := by simpa using hv
          by_cases hj : j = k
          · simp [hj, hv', h2', cellGet_below h.2 (by omega : c.1 < c.1 + 1)]
          · have : ¬ c.1 = j := by omega
            simp [cellGet, hj, this]
        · rw [if_neg hv]
          by_cases hj : j = k
          · simp [cellGet, hj]
          · have : ¬ c.1 = j := by omega
            simp [cellGet, hj, Ne.symm hj, this]
      · rw [if_neg h2]
        have h2' : k ≠ c.1 := by simpa using h2
        have ih := cellGet_cellPut k j v cs (c.1 + 1) h.2
        by_cases hj : j = k
        · have : ¬ c.1 = j := by omega
          subst hj
          simp only [cellGet, beq_iff_eq, this, if_false, ih, if_true]
        · simp only [cellGet, ih, hj, if_false]

theorem cellsWrite_wf (set : Settings) : ∀ (bs : List Byte) (a : Nat) (l : List (Nat × Byte)),
    Memory.wf l = true → Memory.wf (cellsWrite set a bs l) = true
  | [], _, _, h => h
  | b :: bs, a, l, h => cellsWrite_wf set bs (a + 1) _ (cellPut_wf _ b l 0 (Nat.zero_le _) h)

/-- A write to memory keeps the canonical form. -/
theorem writeMem_wf (set : Settings) (a : Nat) (bs : List Byte) (p : Pkg) (h : Memory.wf p.mem.cells = true) :
    Memory.wf (writeMem set a bs p).mem.cells = true := cellsWrite_wf set bs a _ h

/-- A write to memory touches memory alone. -/
theorem writeMem_frame (set : Settings) (a : Nat) (bs : List Byte) (p : Pkg) :
    writeMem set a bs p = { p with mem := (writeMem set a bs p).mem } := rfl

theorem reset_mem_wf : Memory.wf State.reset.p.mem.cells = true := rfl

end Sys2Proof.Machine
end

