-- ==== Sys2Proof/Certificates/Slice0/Obligations.lean ====
section
/-! DEFINITION. What the provers are asked to prove of the block: its steps, its reset, its invariants, and for every
command where it completes and what it leaves. -/

open Sys2Proof Sys2Proof.Machine

/-! ### Steps, reset and invariants -/

/-- A step takes the command at the front of the queue and runs it with the queue's rest. -/
def Obligations.StepRunsTheFrontCommand : Prop :=
  ∀ (s : State) (c : Instr) (rest : List Instr), s.pending = c :: rest → step s = exec c { s with pending := rest }

/-- On an empty queue a step is one cycle of the 156.25 MHz clock (the model's choice, log entry 1): fabric time and
the calendar advance and nothing else changes; while the package is off only a calendar that has not stopped counts.
R435: any five cycles in a row add exactly 32 ns to the count while the servo removes nothing. -/
def Obligations.EmptyQueueIsOneCycle : Prop :=
  (∀ s : State, s.pending = [] →
    (s.p.boot.off = false → step s = .next { s with p := { s.p with
        ft := ftTick s.p.ft, cal := calTick (cycleUnits s.p.ft.cycle) s.p.cal } }) ∧
    (s.p.boot.off = true → s.p.cal.stopFlag = false →
      step s = .next { s with p := { s.p with cal := calTick (cycleUnits s.p.ft.cycle) s.p.cal } }) ∧
    (s.p.boot.off = true → s.p.cal.stopFlag = true → step s = .next s)) ∧
  (∀ s : State, s.p.boot.off = false → s.p.ft.cycle < 5 → s.p.ft.slew = 0 → s.p.ft.count < 2 ^ 80 →
    (tick (tick (tick (tick (tick s))))).p.ft.count = (s.p.ft.count + 2097152) % 2 ^ 80)

/-- What the rules give for reset: no step, no graph, no pending bit, every queue disabled, every stack's memory
empty, every check at its default. -/
def Obligations.ResetLeaves : Prop :=
  let p := State.reset.p
  State.reset.pending = [] ∧ State.reset.set.pend = none ∧ State.reset.set.c1 = false ∧
    State.reset.set.filler = false ∧ p.boot.phase = 1 ∧ p.boot.ready = false ∧ p.boot.failed = false ∧
    p.step.state = .none ∧ p.tasks.graphs = [] ∧ p.tasks.insts = [] ∧ p.tasks.tauDef = 16 ∧
    p.mem.cells = [] ∧ p.mem.failed = 0 ∧ p.host.queues = List.replicate 64 {} ∧ (queueOf p 0).state = .disabled ∧
    p.host.fences = List.replicate 1024 0 ∧ p.ic.pend = List.replicate 32 0 ∧ p.ic.prio = List.replicate 1024 0 ∧
    p.ft.state = .free ∧ p.ft.priority = 128 ∧ p.ft.uncertLimit = 16 ∧ p.links.addr = 0xFFFFFFFF ∧
    p.integ.watchMs = 10 ∧ p.integ.decayH = 0x18 ∧ p.integ.fenceAt = 2 ∧ p.integ.fenced = 0 ∧
    p.integ.crash.state = 0 ∧ p.rings.version = 0 ∧ p.reshard.epoch = 0 ∧ p.pwr.limit = 0 ∧
    (∀ d ∈ p.dies, d.state = .notReleased)

/-- The settings and memory after reset meet the invariants. -/
def Obligations.ResetIsSafe : Prop :=
  State.reset.safe = true

/-- Every step, from any state with legal settings, leaves legal settings: ENV and ENV_ACT name envelopes, ENV_ACT is
never clocked higher than ENV, lane plans are plans, and what waits for a boundary is legal. -/
def Obligations.EveryStepKeepsLegalSettings : Prop :=
  ∀ s t : State, s.set.wf = true → step s = .next t → t.set.wf = true

/-- No command touches the queue of commands: a step leaves exactly the commands behind the one it took. -/
def Obligations.EveryStepTakesOneCommand : Prop :=
  ∀ s t : State, step s = .next t → t.pending = s.pending.drop 1

/-- The commands by which settings change; every other command, the host's packets of every family included, leaves
the mode word, the lane plans and the interleave as they were. -/
def Obligations.OnlyTheseCommandsChangeSettings : Prop :=
  ∀ (c : Instr) (s t : State), exec c s = .next t → t.set ≠ s.set →
    match c with
    | .setMode _ | .linkConfig _ | .commitComplete _ | .abortComplete | .pkgMemMapWrite _ | .registerWrite _ _ _
    | .pwrLimitWrite _ | .phase1End _ | .phase4End _ | .packageReset | .brownOut _ | .supplyUnder _ | .supplyOver _
    | .thermalTrip _ _ | .railFault _ | .thermalHold _ _ | .currentHold _ _ | .powerHold _ | .connectorOpen _ _
    | .envActRise => True
    | _ => False

/-- R34: only the end of start-up phase 1 changes LANES, and a SET_MODE that names another lane plan is answered
BAD_STATE and sets nothing. -/
def Obligations.LanesChangeOnlyAtStartUp : Prop :=
  (∀ (c : Instr) (s t : State), exec c s = .next t → t.set.lanes ≠ s.set.lanes → c = .phase1End true) ∧
  (∀ (s : State) (q : Nat) (w : Who) (b : List Byte) (p : Pkg), Takes s (.queue q) 0x0102 w b p →
    modeFieldsBad b = false → bit (le b 0 1) 5 = true → le b 6 1 ≠ s.set.lanes →
    exec (.setMode q) s = .next { s with p := answer w stBadState 0 0 p })

/-! ### Memory -/

/-- R365: an address of the stack region lies in the stack and at the offset of the rule, under ALL16 and under QUARTER,
for each granule; the interleave maps the region onto sixteen stacks of 80 GiB one to one. -/
def Obligations.InterleaveIsOneToOne : Prop :=
  ∀ (set : Settings) (a : Nat), a < regionSize →
    (∀ g, (set.granule = 0 ∧ g = 12) ∨ (set.granule = 1 ∧ g = 16) ∨ (set.granule = 2 ∧ g = 21) →
      (set.spread = 0 →
        stackOf set a = (a >>> g) % 16 ∧ offsetOf set a = ((a >>> (g + 4)) <<< g) ||| (a % 2 ^ g)) ∧
      (set.spread = 1 →
        let d := a / 0x5000000000
        let q := a - d * 0x5000000000
        stackOf set a = 4 * d + (q >>> g) % 4 ∧ offsetOf set a = ((q >>> (g + 2)) <<< g) ||| (q % 2 ^ g))) ∧
    stackOf set a < 16 ∧ offsetOf set a < stackSize ∧ addrOf set (keyOf set a) = a

/-- Bytes written to the stack region read back, and every other byte of it reads as before. -/
def Obligations.MemoryReadsWhatWasWritten : Prop :=
  ∀ (set : Settings) (p : Pkg) (a : Nat) (bs : List Byte) (x : Nat), Memory.wf p.mem.cells = true →
    a + bs.length ≤ regionSize → x < regionSize →
    readByte set (writeMem set a bs p) x =
      if a ≤ x ∧ x < a + bs.length then bs.getD (x - a) 0 else readByte set p x

/-- The errors of memory (R379): a write of whole 64-byte blocks clears the errors in them and no other, and changes
nothing outside memory. -/
def Obligations.WholeBlockWritesClearErrors : Prop :=
  ∀ (set : Settings) (p : Pkg) (a : Nat) (bs : List Byte) (k : Nat),
    (k ∈ (writeMem set a bs p).mem.bad ↔
      k ∈ p.mem.bad ∧ ¬ (a ≤ addrOf set (k * 64) ∧ addrOf set (k * 64) + 64 ≤ a + bs.length)) ∧
    writeMem set a bs p = { p with mem := (writeMem set a bs p).mem }

/-! ### The host interface -/

/-- A packet or MCTP request before READY that is not allowed is turned away (R485, R475), and a reserved MCTP field
is BAD_PARAM. -/
def Obligations.TurnedAway : Prop :=
  (∀ (s : State) (q op num st : Nat) (pk : Packet) (p : Pkg) (f : Who → List Byte → State → State),
    startPacket s.p q op = some (pk, p) → gate p op = some st → pk.num = num →
    onPacket q op f s = .next { s with p := answer (.queue q num) st 0 0 p }) ∧
  (∀ p : Pkg, p.boot.failed = true → ∀ op, op ∉ [0x0100, 0x0101, 0x0103, 0x0C04, 0x0D01, 0x0D02] →
    gate p op = some stFailed) ∧
  (∀ p : Pkg, p.boot.failed = false → p.boot.ready = false → ∀ op, op ∉ [0x0100, 0x0101, 0x0103] →
    gate p op = some stNotReady) ∧
  (∀ (s : State) (via : Transport) (body : List Byte), mctpOpen s.p = true → zeros body 0 2 = false →
    exec (.nop (.mctp via body)) s = .next { s with p := answer (.mctp via) stBadParam 0 0 s.p })

/-- Requests for information answer OK with what they report, and change nothing else: NOP, IDENTIFY, GET_STATUS of
the package and of a collective, FT_STATUS and HEALTH_READ (R490 to R493, R449, R185, R186). -/
def Obligations.InformationRequestsAnswer : Prop :=
  (∀ (s : State) (r : Route) (w : Who) (b : List Byte) (p : Pkg), Takes s r 0x0100 w b p →
    exec (.nop r) s = .next { s with p := answer w stOk 0 0 p }) ∧
  (∀ (s : State) (r : Route) (w : Who) (b : List Byte) (p : Pkg), Takes s r 0x0101 w b p →
    plainPayloadBad w b = false →
    exec (.identify r) s = .next { s with p := answerBlock w (le b 8 8) 0 (identityBlock s.set p) p }) ∧
  (∀ (s : State) (r : Route) (w : Who) (b : List Byte) (p : Pkg), Takes s r 0x0103 w b p →
    plainPayloadBad w b = false → le b 0 1 = 0 →
    exec (.getStatus r) s = .next { s with p := answerBlock w (le b 8 8) 0 (statusBlock s.set p) p }) ∧
  (∀ (s : State) (r : Route) (w : Who) (b : List Byte) (p : Pkg), Takes s r 0x0103 w b p →
    le b 0 1 = 1 → 64 ≤ b.length → le b 1 1 ≤ 3 → zeros b 2 2 = true → zeros b 16 48 = true → destBad w (le b 8 8) = false →
    exec (.getStatus r) s = .next { s with p := answerBlock w (le b 8 8) 0 (collBlock p (le b 1 1) (le b 4 4)) p }) ∧
  (∀ (s : State) (q : Nat) (w : Who) (b : List Byte) (p : Pkg), Takes s (.queue q) 0x0A01 w b p →
    zeros b 8 56 = true → addrOk (le b 0 8) 64 64 = true → writeError s.set p (le b 0 8) (ftBlock p).length = none →
    exec (.ftStatus q) s = .next { s with
      p := answer w stOk 0 (uncertNs p.ft) (writeMem s.set (le b 0 8) (ftBlock p) p) }) ∧
  (∀ (s : State) (q : Nat) (w : Who) (b : List Byte) (p : Pkg), Takes s (.queue q) 0x0901 w b p →
    le b 0 1 ≤ 1 → le b 1 1 ≤ 1 → 1 ≤ le b 4 2 → le b 4 2 ≤ 256 → zeros b 6 2 = true → zeros b 16 48 = true →
    addrOk (le b 8 8) 32 (32 * le b 4 2) = true →
    (le b 0 1 = 0 → le b 2 2 + le b 4 2 ≤ 8192) →
    (le b 0 1 = 1 → 0x1000 ≤ le b 2 2 ∧ le b 2 2 + le b 4 2 ≤ 0x1100 ∧ le b 1 1 = 0) →
    (le b 1 1 = 1 → stepBusy p = false ∨ 6144 ≤ le b 2 2) →
    writeError s.set p (le b 8 8) (healthData p (le b 0 1) (le b 2 2) (le b 4 2)).length = none →
    ∃ t, exec (.healthRead q) s = .next { s with p := answer w stOk 0 (le b 4 2) t } ∧
      t.tasks.health = (if le b 1 1 = 1 then
        p.tasks.health.filter fun h => !(le b 2 2 ≤ h.slot && h.slot < le b 2 2 + le b 4 2) else p.tasks.health) ∧
      t = { p with
        mem := (writeMem s.set (le b 8 8) (healthData p (le b 0 1) (le b 2 2) (le b 4 2)) p).mem
        tasks := { p.tasks with health := t.tasks.health } })

/-- An answer to a packet makes its reply due and takes the packet off the queue; the reply names STATUS, the packet's
SEQ, QTAG and OPCODE, its start, and now (R476). -/
def Obligations.AnswersBecomeDue : Prop :=
  ∀ (p : Pkg) (q num st d c : Nat) (pk : Packet) (qu : Queue), p.host.queues[q]? = some qu →
    qu.read.find? (fun k => k.num == num) = some pk →
    ∃ r : Reply, answer (.queue q num) st d c p =
        { p with host.queues := p.host.queues.set q { qu with
          read := qu.read.filter fun k => k.num != num, due := qu.due ++ [r] } } ∧
      r.num = some num ∧ r.status = st ∧ r.detail = d % 65536 ∧ r.seq = pk.seq ∧ r.qtag = pk.qtag ∧
      r.opcode = pk.opcode ∧ r.tStart = pk.start.getD 0 ∧ r.tEnd = p.ft.count / 65536 ∧
      r.counter = min c 0xFFFFFFFF ∧ r.replyAddr = pk.replyAddr

/-- The queue registers (R470, R471, R482): a doorbell within the ring is taken by a RUNNING or STOPPED queue, ENABLE
of a queue set up right gives an empty RUNNING queue and of any other the REASON CONFIG, ENABLE 0 drains, RESUME and
FLUSH act on a queue that may take them. What happens to a queue without the host (R470, R482): a DRAINING queue with
nothing left is DISABLED, an error of a read of the ring stops it with FETCH, one of a write stops it with WRITE and
loses the reply. A fence takes what the host writes to it (R480), and PERST_N resets every queue (R420). -/
def Obligations.QueuesAreDriven : Prop :=
  (∀ (s : State) (q v : Nat) (resume : Bool), s.p.host.linkUp = true → s.p.host.perst = false →
    let qu := queueOf s.p q
    ((qu.state = .running ∨ qu.state = .stopped) → v < 2 ^ qu.sqLog2 →
      exec (.hostSqBell q v) s = .next { s with p := modQueue q (fun u => { u with bell := v }) s.p }) ∧
    ((qu.state = .running ∨ qu.state = .stopped) → v < 2 ^ qu.cqLog2 →
      exec (.hostCqBell q v) s = .next { s with p := modQueue q (fun u => { u with cqHead := v }) s.p }) ∧
    (qu.state = .disabled → s.p.boot.recovery = false → qu.sqBase % 4096 = 0 → qu.cqBase % 4096 = 0 →
      6 ≤ qu.sqLog2 → qu.sqLog2 ≤ 18 → 6 ≤ qu.cqLog2 → qu.cqLog2 ≤ 13 →
      exec (.queueEnable q) s = .next { s with p := { s.p with host.queues := modAt s.p.host.queues q fun _ =>
        { qu with
          state := .running, reason := .none, head := 0, bell := 0, cqHead := 0, cqTail := 0, phase := true, done := 0
          read := [], due := [] } } }) ∧
    (qu.state = .disabled → s.p.boot.recovery = false →
      ¬ (qu.sqBase % 4096 = 0 ∧ qu.cqBase % 4096 = 0 ∧ 6 ≤ qu.sqLog2 ∧ qu.sqLog2 ≤ 18 ∧ 6 ≤ qu.cqLog2 ∧ qu.cqLog2 ≤ 13) →
      exec (.queueEnable q) s = .next { s with p := { s.p with host.queues := modAt s.p.host.queues q fun _ =>
        { qu with reason := .config } } }) ∧
    (qu.state ≠ .disabled → s.p.boot.recovery = false →
      exec (.queueDisable q) s = .next { s with p := { s.p with host.queues := modAt s.p.host.queues q fun _ =>
        { qu with state := .draining, read := qu.read.filter fun k => k.start.isSome } } }) ∧
    (qu.state = .stopped →
      exec (.queueResume q) s = .next { s with p := { s.p with host.queues := modAt s.p.host.queues q fun _ =>
        { qu with state := .running, reason := .none } } }) ∧
    (qu.state = .running ∨ qu.state = .stopped →
      exec (.queueFlush q resume) s = .next { s with p := { s.p with host.queues := modAt s.p.host.queues q fun _ =>
        { qu with
          read := qu.read.filter fun k => k.start.isSome, head := qu.bell
          state := if resume then .running else qu.state
          reason := if resume = true ∧ qu.state = .stopped then .none else qu.reason } } })) ∧
  (∀ (s : State) (q : Nat),
    let qu := queueOf s.p q
    (qu.state = .draining → qu.read = [] → qu.due = [] →
      exec (.queueDrained q) s = .next { s with p := modQueue q (fun u => { u with state := .disabled }) s.p }) ∧
    (qu.state = .running → qu.bell < 2 ^ qu.sqLog2 → qu.head < 2 ^ qu.sqLog2 → qu.bell ≠ qu.head →
      exec (.sqFetchError q) s = .next { s with
        p := modQueue q (fun u => { u with state := .stopped, reason := .fetch }) s.p }) ∧
    (∀ r rest, qu.due = r :: rest → qu.state = .running →
      exec (.hostWriteError q) s = .next { s with p := { s.p with host.queues := modAt s.p.host.queues q fun _ =>
        { qu with due := rest, state := .stopped, reason := .write } } })) ∧
  (∀ (s : State) (f v : Nat), s.p.host.linkUp = true → s.p.host.perst = false →
    exec (.hostFenceWrite f v) s = .next { s with p := { s.p with host := { s.p.host with
      fences := s.p.host.fences.set f v } } }) ∧
  (∀ s : State, exec (.perstN false) s = .next { s with p := { s.p with host := { s.p.host with perst := false } } } ∧
    exec (.perstN true) s = .next { s with p := { s.p with host := { s.p.host with
      queues := s.p.host.queues.map fun qu => { nextNum := qu.nextNum }
      bar2Win := 0, bar2Log2 := 36, maxPayload := 128, maxRead := 512, d3hot := false, perst := true
      msixOn := false, msixMasked := false, msixTable := List.replicate 256 0 } } })

/-- Writes of fences and PERST_N (R480, R420): a fence takes the value written; PERST_N resets the queues, the MSI-X
table and the BAR2 window and nothing else, the fences among what it keeps. While PERST_N is asserted no access of the
host reaches the package (R420), and none reaches it before the end of start-up phase 2 (R485). -/
def Obligations.FencesAndPerst : Prop :=
  ((∀ (s : State) (f v : Nat), s.p.host.linkUp = true → s.p.host.perst = false →
    exec (.hostFenceWrite f v) s = .next { s with p := { s.p with host.fences := s.p.host.fences.set f v } }) ∧
  (∀ s : State, exec (.perstN false) s = .next { s with p := { s.p with host.perst := false } }) ∧
  (∀ s : State, ∃ h : HostIf, exec (.perstN true) s = .next { s with p := { s.p with host := h } } ∧
    h.perst = true ∧ h.fences = s.p.host.fences ∧ h.queues.length = s.p.host.queues.length ∧
    (∀ q ∈ h.queues, q.state = .disabled ∧ q.read = [] ∧ q.due = [] ∧ q.sqBase = 0 ∧ q.cqBase = 0) ∧
    h.bar2Win = 0 ∧ h.msixOn = false ∧ h.msixTable = List.replicate 256 0)) ∧
  (∀ (s : State) (c : Instr),
    let access : Prop := match c with
      | .hostSqBell _ _ | .hostCqBell _ _ | .queueEnable _ | .queueDisable _ | .queueResume _ | .queueFlush _ _
      | .hostFenceWrite _ _ | .pkgMemMapWrite _ | .icPendClear _ _ | .icMaskSet _ _
      | .icMaskClr _ _ | .icMaskWrite _ _ | .icSrcPrioWrite _ _ | .icSrcTargetWrite _ _ | .icThreshWrite _ _
      | .icBell _ | .ftNowLoRead _ | .calTimeLoRead | .mgtLogSeqLoRead | .mgtAlertClear _ | .mgtAlertMaskWrite _
      | .msixEnable _ _ _ | .bar2Read _ _ _ | .bar2Write _ _ _ | .registerWrite _ _ _ => True
      | _ => False
    (s.p.host.perst = true ∨ s.p.host.linkUp = false → access → exec c s = .next s) ∧
    (s.p.host.perst = true → ((∃ q bs, c = .packetRead q bs) ∨ ∃ q, c = .replyPost q) → exec c s = .next s))

/-- A whole packet at HEAD, with nothing wrong in its header, is read: HEAD passes it and it waits to start (R471,
R475); a LENGTH that is no multiple of 64, or above 4096, stops the queue with FORMAT, HEAD staying at the bad packet,
and is answered BAD_PARAM. R481: when fabric time reaches the LAUNCH_AT of a packet that waits, its launch time has
come and stays so; a packet whose time is ahead still waits. -/
def Obligations.PacketsAreRead : Prop :=
  (∀ (s : State) (q : Nat) (bs : List Byte),
    let qu := queueOf s.p q
    let len := le bs 6 2
    qu.state = .running → s.p.host.perst = false → outstanding qu < 4096 → 1 ≤ unitsReady qu →
    (len % 64 = 0 → len ≤ 4096 → 1 + len / 64 ≤ unitsReady qu → bs.length = 64 + len →
      let after := (qu.head + 1 + len / 64) % 2 ^ qu.sqLog2
      let pk := parseHeader bs qu.nextNum after
      (headerStatus s.p bs pk len = none →
        exec (.packetRead q bs) s = .next { s with p := modQueue q (fun u => { u with
          head := after, nextNum := u.nextNum + 1, read := u.read ++ [pk] }) s.p }) ∧
      (∀ st, headerStatus s.p bs pk len = some st →
        exec (.packetRead q bs) s = .next { s with p := modQueue q (fun u => { u with
          head := after, nextNum := u.nextNum + 1, due := u.due ++ [pk.reply s.p st 0 0] }) s.p })) ∧
    (64 ≤ bs.length → (len % 64 ≠ 0 ∨ 4096 < len) →
      exec (.packetRead q bs) s = .next { s with p := modQueue q (fun u => { u with
        state := .stopped, reason := .format, nextNum := u.nextNum + 1
        due := u.due ++ [(parseHeader bs u.nextNum u.head).reply s.p stBadParam 0 0] }) s.p })) ∧
  (∀ (s : State) (q : Nat), ∃ t : Pkg, exec (.launchAt q) s = .next { s with p := t } ∧
    t = { s.p with host.queues := t.host.queues } ∧
    (∀ k, k ≠ q → t.host.queues[k]? = s.p.host.queues[k]?) ∧
    (∀ qu, s.p.host.queues[q]? = some qu → ∃ ru : List Packet, t.host.queues[q]? = some { qu with read := ru } ∧
      ru.length = qu.read.length ∧
      ∀ (i : Nat) (pk : Packet), qu.read[i]? = some pk → ru[i]? = some { pk with
        launched := pk.launched || (pk.start.isNone && bit pk.flags 2 && decide (pk.launchAt * 65536 ≤ s.p.ft.count)) }))

/-- The reply at the front of a queue whose ring has room is posted (R472, R477, R480): its 32 bytes reach the reply
address and entry TAIL with the ring's PHASE, TAIL moves on and PHASE inverts where it wraps, SIGNAL sets its fence
when STATUS is OK and only then, and source 256 + n fires unless QUIET. -/
def Obligations.RepliesArePosted : Prop :=
  ∀ (s : State) (q : Nat) (r : Reply) (rest : List Reply) (qu : Queue), s.p.host.queues[q]? = some qu →
    qu.due = r :: rest → qu.state ≠ .disabled → s.p.host.perst = false →
    (qu.cqTail + 1) % 2 ^ qu.cqLog2 ≠ qu.cqHead →
    let tail := (qu.cqTail + 1) % 2 ^ qu.cqLog2
    let bs := r.bytes qu.phase
    ∃ p : Pkg, exec (.replyPost q) s = .next { s with p := if r.quiet then p else raise (256 + q) p } ∧
      p.host.queues = s.p.host.queues.set q { qu with
        due := rest, cqTail := tail, phase := if tail = 0 then !qu.phase else qu.phase, done := (qu.done + 1) % 2 ^ 32 } ∧
      p.out.hostWrites = s.p.out.hostWrites ++ (if r.replyAddr = 0 then [] else [⟨r.replyAddr, bs⟩]) ++
        [⟨qu.cqBase + 32 * qu.cqTail, bs⟩] ∧
      p.host.fences = (match r.signal with
        | some (f, v) => if r.status = stOk then s.p.host.fences.set f v else s.p.host.fences
        | none => s.p.host.fences) ∧
      p = { s.p with
        host := { s.p.host with queues := p.host.queues, fences := p.host.fences }
        out := { s.p.out with hostWrites := p.out.hostWrites } }

/-! ### Interrupts -/

/-- Writes of the interrupt controller by host software (R458 to R463): a pending word loses the bits written 1, a
mask word takes what was written, PRIO 0 also clears the pending bit, and no other table changes but by what a source
that became eligible does. -/
def Obligations.InterruptRegisters : Prop :=
  ∀ (s : State) (v : Nat), s.p.host.linkUp = true → s.p.host.perst = false →
    (∀ w, 8 ≤ w → w < 32 → ∃ t : Ic, exec (.icPendClear w v) s = .next { s with p := { s.p with ic := t } } ∧
      (∀ src, wordBit t.pend src = (wordBit s.p.ic.pend src && !(src / 32 == w && bit v (src % 32)))) ∧
      t = { s.p.ic with pend := t.pend, chosen := t.chosen }) ∧
    (∀ (w : Nat) (c : Instr) (f : Nat → Nat), 8 ≤ w → w < 32 →
      (c = .icMaskSet w v ∧ f = fun m => m ||| v) ∨ (c = .icMaskClr w v ∧ f = fun m => m - (m &&& v)) ∨
        (c = .icMaskWrite w v ∧ f = fun _ => v) →
      ∃ t : Pkg, exec c s = .next { s with p := t } ∧ t.ic.mask = modAt s.p.ic.mask w f ∧
        t.ic = { s.p.ic with mask := t.ic.mask, pend := t.ic.pend, chosen := t.ic.chosen, running := t.ic.running } ∧
        SameIc s.p t) ∧
    (∀ src, 256 ≤ src → src < 1024 → v < 16 → ∃ t : Pkg, exec (.icSrcPrioWrite src v) s = .next { s with p := t } ∧
      t.ic.prio = modAt s.p.ic.prio src (fun _ => v) ∧ (v = 0 → wordBit t.ic.pend src = false) ∧
      t.ic = { s.p.ic with prio := t.ic.prio, pend := t.ic.pend, chosen := t.ic.chosen, running := t.ic.running } ∧
      SameIc s.p t) ∧
    (∀ src, 256 ≤ src → src < 1024 → targetOk v = true →
      ∃ t : Pkg, exec (.icSrcTargetWrite src v) s = .next { s with p := t } ∧
        t.ic.target = modAt s.p.ic.target src (fun _ => v) ∧
        t.ic = { s.p.ic with target := t.ic.target, pend := t.ic.pend, chosen := t.ic.chosen, running := t.ic.running } ∧
        SameIc s.p t) ∧
    (∀ g, 32 ≤ g → g < 96 → v < 16 → ∃ t : Pkg, exec (.icThreshWrite g v) s = .next { s with p := t } ∧
      t.ic.thresh = modAt s.p.ic.thresh g (fun _ => v) ∧
      t.ic = { s.p.ic with thresh := t.ic.thresh, pend := t.ic.pend, chosen := t.ic.chosen, running := t.ic.running } ∧
      SameIc s.p t)

/-- What an event does (R461, R462): it is discarded where PRIO is 0, merged where the bit is set already, and
otherwise sets the bit, with one MSI-X message where the source becomes eligible and messages may leave. -/
def Obligations.SourceEvents : Prop :=
  ∀ (p : Pkg) (src : Nat), src < 1024 → p.ic.pend.length = 32 →
    (p.ic.prio.getD src 0 = 0 → raise src p = p) ∧
    (p.ic.prio.getD src 0 ≠ 0 → wordBit p.ic.pend src = true →
      raise src p = { p with ic := { p.ic with merged := min 0xFFFF (p.ic.merged + 1) } }) ∧
    (∀ v, p.ic.prio.getD src 0 ≠ 0 → wordBit p.ic.pend src = false → icTarget p src = some (32 + v) →
      wordBit (raise src p).ic.pend src = true ∧
      (∀ x, x ≠ src → wordBit (raise src p).ic.pend x = wordBit p.ic.pend x) ∧
      (raise src p).out = { p.out with
        msix := p.out.msix ++ if wordBit p.ic.mask src = false ∧ p.ic.thresh.getD (32 + v) 0 < p.ic.prio.getD src 0 ∧ p.host.msixOn = true ∧
          p.host.msixMasked = false ∧ p.host.perst = false then [v] else [] })

/-- IC_BELL, MSI-X Enable and the end of service (R460, R462, R464). R464: a firmware target is given the eligible
source of highest PRIO above its running priority, the lower number on a tie; the delivery clears the pending bit and
makes that PRIO the running one. R465: to a control core it goes as an INTERRUPT request on lane group 124, its ARG
naming source, PRIO and the core's grove within the die; the request's other fields are the model's choice (log
entry 84).
-/
def Obligations.SoftwareInterrupts : Prop :=
  (∀ s : State,
    (s.p.host.linkUp = true → s.p.host.perst = false →
      (∀ v, 512 ≤ v → v < 1024 → exec (.icBell v) s = .next { s with p := raise v s.p }) ∧
      (∀ v, (v < 512 ∨ 1024 ≤ v) → exec (.icBell v) s = .next { s with p := { s.p with ic := { s.p.ic with
        bellIgnored := min 0xFFFF (s.p.ic.bellIgnored + 1) } } }) ∧
      (∀ enable masked (cfg : CfgWrite), ∃ vs : List Nat,
        let host := (writeCfg cfg s.p).host
        exec (.msixEnable enable masked cfg) s = .next { s with p := { s.p with
          host := { host with msixOn := enable, msixMasked := masked }
          out := { s.p.out with msix := s.p.out.msix ++ vs } } } ∧ vs.Pairwise (· < ·) ∧
        (∀ v, v ∈ vs ↔ enable = true ∧ masked = false ∧ ¬ (s.p.host.msixOn = true ∧ s.p.host.msixMasked = false) ∧
          v < 64 ∧ ∃ src, src < 1024 ∧ eligible s.p src = true ∧ icTarget s.p src = some (32 + v)) ∧
        (30 ≤ cfg.bar2Log2 → cfg.bar2Log2 ≤ 41 → host.bar2Log2 = cfg.bar2Log2) ∧
        host = { s.p.host with
          maxPayload := host.maxPayload, maxRead := host.maxRead, d3hot := cfg.d3hot, bar2Log2 := host.bar2Log2 })) ∧
    (∀ g pr rest, g ≤ 16 → s.p.ic.running[g]? = some (pr :: rest) →
      exec (.interruptEndOfService g) s = .next { s with
        p := icDeliver g { s.p with ic := { s.p.ic with running := s.p.ic.running.set g rest } } })) ∧
  (∀ (p : Pkg) (g : Nat),
    (targetUp p g = false → icDeliver g p = p) ∧
    (bestSource p g = none → icDeliver g p = p ∧
      ∀ x, x < 1024 → eligible p x = true → icTarget p x = some g → p.ic.prio.getD x 0 ≤ runningPrio p g) ∧
    (∀ src, bestSource p g = some src → targetUp p g = true →
      let pr := p.ic.prio.getD src 0
      src < 1024 ∧ eligible p src = true ∧ icTarget p src = some g ∧ runningPrio p g < pr ∧
      (∀ x, x < 1024 → eligible p x = true → icTarget p x = some g → runningPrio p g < p.ic.prio.getD x 0 →
        p.ic.prio.getD x 0 < pr ∨ (p.ic.prio.getD x 0 = pr ∧ src ≤ x)) ∧
      wordBit (icDeliver g p).ic.pend src = false ∧
      (icDeliver g p).ic.running = modAt p.ic.running g (fun st => pr :: st) ∧
      (16 ≤ g → (icDeliver g p).out = p.out) ∧
      (g < 16 → g / 4 < p.dies.length → (laneGroup p (g / 4) 124).retraining = false →
        (laneGroup p (g / 4) 124).queue = [] → (laneGroup p (g / 4) 124).sent.length < 512 →
        ∃ f : WdiOut, (icDeliver g p).out = { p.out with wdi := p.out.wdi ++ [f] } ∧ f.die = g / 4 ∧ f.group = 124 ∧
          f.h.type = 1 ∧ f.crc = flitCrc f.h f.data ∧ f.data = padTo 128 (reqBytes
            { addr := 0x0200 + g, op := 7, len := 0, tag := (p.dies.getD (g / 4) {}).lastTag % 0xFFFF + 1, unit := 0, slot := 0
              ctx := 0, arg := leBytes 2 src ++ leBytes 1 pr ++ leBytes 1 (g % 4) }))))

/-! ### Registers, BAR2 and management -/

/-- A host read of a counter's low word returns it and latches the rest from the same moment (R437, R455, R585).
Writes of BAR0 (R23, R147, R366, R498, R538, R569): a register takes its value, a reserved value or a register that is
read-only leaves everything as it was, PKG_MEM_MAP takes a write only while nothing is loaded, alert bits written 1
clear, and an access of 8 bytes is two of 4 in ascending order. -/
def Obligations.RegisterAccesses : Prop :=
  (∀ s : State, s.p.host.linkUp = true → s.p.host.perst = false →
    (∀ wide, exec (.ftNowLoRead wide) s = .next { s with p := { s.p with
      ft := { s.p.ft with nowHi := s.p.ft.count / 65536 / 2 ^ 32, nowFrac := s.p.ft.count % 65536 }
      out := { s.p.out with reads := s.p.out.reads ++
        [.data (leBytes (if wide then 8 else 4) (s.p.ft.count / 65536))] } } }) ∧
    exec .calTimeLoRead s = .next { s with p := { s.p with
      cal := { s.p.cal with
        hiLatch := some (b2n s.p.cal.invalid * 2 ^ 31 + s.p.cal.frac * 65536 + s.p.cal.secs / 2 ^ 32) }
      out := { s.p.out with reads := s.p.out.reads ++ [.data (leBytes 4 s.p.cal.secs)] } } } ∧
    exec .mgtLogSeqLoRead s = .next { s with p := { s.p with
      mgt := { s.p.mgt with seqHi := (s.p.mgt.nextSeq - 1) / 2 ^ 32 }
      out := { s.p.out with reads := s.p.out.reads ++ [.data (leBytes 4 (s.p.mgt.nextSeq - 1))] } } }) ∧
  (∀ s : State, s.p.host.linkUp = true → s.p.host.perst = false →
    (∀ v, mapFree s.p = true → bits v 3 2 ≠ 3 → bits v 1 0 < 2 →
      exec (.pkgMemMapWrite v) s = .next { s with set := { s.set with granule := bits v 3 2, spread := bits v 1 0 } }) ∧
    (∀ v, (mapFree s.p = false ∨ bits v 3 2 = 3 ∨ 2 ≤ bits v 1 0) → exec (.pkgMemMapWrite v) s = .next s) ∧
    (∀ v, exec (.mgtAlertClear v) s = .next { s with p := { s.p with mgt := { s.p.mgt with
      alert := s.p.mgt.alert - (s.p.mgt.alert &&& v) } } }) ∧
    (∀ v, exec (.mgtAlertMaskWrite v) s = .next { s with p := { s.p with mgt := { s.p.mgt with alertMask := v % 64 } } }) ∧
    (∀ v, v < 2 ^ 32 → 12 ≤ v % 32 → v % 32 ≤ 20 →
      exec (.registerWrite 0x40 4 v) s = .next { s with p := { s.p with tasks := { s.p.tasks with tauDef := v % 32 } } }) ∧
    (∀ v, v < 2 ^ 32 → (v % 32 < 12 ∨ 20 < v % 32) → exec (.registerWrite 0x40 4 v) s = .next s) ∧
    (∀ v, v < 2 ^ 32 → 1 ≤ v % 65536 → v % 65536 ≤ 1000 →
      exec (.registerWrite 0x800 4 v) s = .next { s with p := { s.p with integ := { s.p.integ with watchMs := v % 65536 } } }) ∧
    (∀ off v, v < 2 ^ 32 → off ∈ [0x00, 0x20, 0x44, 0x48, 0x60, 0x68, 0x6C, 0x80, 0x90, 0x100, 0x200, 0x304, 0x308,
        0x400, 0x440, 0x500, 0x540, 0x700, 0x720, 0x808, 0x840, 0xE000, 0xF000, 0x1000] →
      exec (.registerWrite off 4 v) s = .next s) ∧
    (∀ off v, off % 8 = 0 → off < 0x4000000 → v < 2 ^ 64 →
      ∃ u, exec (.registerWrite off 4 (v % 2 ^ 32)) s = .next u ∧
        exec (.registerWrite off 8 v) s = exec (.registerWrite (off + 4) 4 (v / 2 ^ 32)) u) ∧
    (∀ off size v, (off % size ≠ 0 ∨ (size ≠ 4 ∧ size ≠ 8)) → exec (.registerWrite off size v) s = .next s))

/-- BAR2 (R416, R379, R381): a read of the stack region returns its bytes, one outside it completes as Unsupported
Request and one that meets an error is aborted; a write stores its bytes and no other, and one outside is dropped. The errors that the code over the stacks finds in
the access (R377) are an operand: each is counted or makes its block bad, first. -/
def Obligations.Bar2Accesses : Prop :=
  ∀ (s : State) (off : Nat) (errs : List MemErr), s.p.host.linkUp = true → s.p.host.perst = false →
    let a := s.p.host.bar2Win + off
    let p := foundErrors errs s.p
    p = { s.p with mem := { s.p.mem with bad := p.mem.bad, stackCe := p.mem.stackCe } } ∧
    (∀ n, off + n ≤ 2 ^ s.p.host.bar2Log2 → a + n ≤ regionSize → 5 ≤ s.p.boot.phase →
      readError s.set p a n = none →
      exec (.bar2Read off n errs) s = .next { s with p := { p with out := { p.out with
        reads := p.out.reads ++ [.data (readMem s.set p a n)] } } }) ∧
    (∀ n, off + n ≤ 2 ^ s.p.host.bar2Log2 → regionSize < a + n →
      exec (.bar2Read off n errs) s = .next { s with p := { p with out := { p.out with
        reads := p.out.reads ++ [.unsupported] } } }) ∧
    (∀ n x, off + n ≤ 2 ^ s.p.host.bar2Log2 → a + n ≤ regionSize → 5 ≤ s.p.boot.phase →
      readError s.set p a n = some x →
      ∃ t : Pkg, exec (.bar2Read off n errs) s = .next { s with p := t } ∧ t.out.reads = s.p.out.reads ++ [.abort] ∧
        t.mem.cells = s.p.mem.cells ∧ t.mem.bad = p.mem.bad) ∧
    (∀ data : List Byte, off + data.length ≤ 2 ^ s.p.host.bar2Log2 → a + data.length ≤ regionSize →
      5 ≤ s.p.boot.phase → p.mem.failed = 0 → p.mem.bad = [] → Memory.wf s.p.mem.cells = true →
      ∃ t : Pkg, exec (.bar2Write off data errs) s = .next { s with p := t } ∧
        (∀ x, x < regionSize → readByte s.set t x =
          if a ≤ x ∧ x < a + data.length then data.getD (x - a) 0 else readByte s.set s.p x) ∧
        t = { p with mem := { p.mem with cells := t.mem.cells } }) ∧
    (∀ data : List Byte, off + data.length ≤ 2 ^ s.p.host.bar2Log2 → regionSize < a + data.length →
      exec (.bar2Write off data errs) s = .next { s with p := { p with host := { p.host with
        bar2Drop := min 0xFFFFFFFF (p.host.bar2Drop + 1) } } })

/-- Sideband messages (R569, R575, R576): ALERT_READ returns the alert bits and clears them, SENSOR_READ returns the
power registers, the Alert Response Address is answered while ALERT_N is low, and MCTP control messages are answered.
The layouts of the control messages are those of the DMTF base specification (PRESUMED, log entry 19). -/
def Obligations.SidebandMessages : Prop :=
  ∀ (s : State) (via : Transport), 3 ≤ s.p.boot.phase → s.p.boot.off = false → s.p.mgt.restarting = false →
    let sends (bytes : List Byte) : Out := { s.p.out with mctp := s.p.out.mctp ++ [(via, bytes)] }
    exec (.alertRead via) s = .next { s with p := { s.p with
      mgt := { s.p.mgt with alert := s.p.mgt.alert - (s.p.mgt.alert &&& s.p.mgt.alert) }
      out := sends (mctpBody stOk 0 0 (leBytes 4 s.p.mgt.alert)) } } ∧
    exec (.sensorRead via) s = .next { s with p := { s.p with out := sends (mctpBody stOk 0 0 (sensorBlock s.p)) } } ∧
    (∀ eid, 1 ≤ eid → eid ≤ 254 → exec (.setEndpointId via eid) s = .next { s with p := { s.p with
      mgt := { s.p.mgt with eid := eid }, out := sends [0, 0, BitVec.ofNat 8 eid, 0] } }) ∧
    exec (.getEndpointId via) s = .next { s with p := { s.p with out := sends [0, BitVec.ofNat 8 s.p.mgt.eid, 0, 0] } } ∧
    exec (.getMctpVersionSupport via) s = .next { s with p := { s.p with
      out := sends ([0, 1] ++ (List.range 4).map Config.mctpVersion) } } ∧
    exec (.getMessageTypeSupport via) s = .next { s with p := { s.p with out := sends [0, 1, 0x7E] } } ∧
    (alertLow s.p = true → exec .alertResponseAddress s = .next { s with p := { s.p with
      out := { s.p.out with ara := s.p.out.ara ++ [0x4A] } } })

/-! ### Fabric time and the calendar -/

/-- Time messages (R441, R443, R444): on a port with nothing else to send a REQ leaves in one VC1 frame with the stamp of
the moment and waits for its RESP, a REQ that arrives is answered by a RESP in one VC1 frame that carries its t2, a RESP
gives a locked follower its offset and delay, removes the offset by slewing and sets U. -/
def Obligations.TimeExchanges : Prop :=
  ∀ (s : State) (i : Nat), i < s.p.ft.ports.length → portUp s.p i = true →
    let q := portOf s.p i
    let now := s.p.ft.count % 2 ^ 64
    let sends (t : Pkg) (m : TimeMsg) : Prop :=
      t.out.frames = s.p.out.frames ++ [(i, q.lane % laneCount s.set.lanes,
        frameBytes 1 q.txSeq (ackOf q) 0xFFFFFFFF now q.owed
          { vc := 1, cls := 0, som := true, eom := true, dst := q.nbr, src := s.p.links.addr, hops := 0, payload := timeBytes m })] ∧
      t.links = { s.p.links with ports := t.links.ports } ∧ ∀ j, j ≠ i → portOf t j = portOf s.p j
    (q.own = [] → q.pass = [] → q.sent.length < 512 → 0 < q.credits.getD 2 0 →
      (∃ (t : Pkg) (m : TimeMsg), exec (.timeReqSend i) s = .next { s with p := t } ∧ sends t m ∧
        m.kind = 0 ∧ m.reqId = s.p.ft.nextReq ∧ t.ft.nextReq = (s.p.ft.nextReq + 1) % 2 ^ 32 ∧
        (timeOf t i).req = some (s.p.ft.nextReq % 2 ^ 32, now) ∧
        t.ft = { s.p.ft with seq := t.ft.seq, nextReq := t.ft.nextReq, ports := t.ft.ports } ∧
        t = { s.p with ft := t.ft, links := t.links, out := { s.p.out with frames := t.out.frames } }) ∧
      (∀ m : TimeMsg, m.kind = 0 → ∃ (t : Pkg) (r : TimeMsg), exec (.timeReqReceive i m) s = .next { s with p := t } ∧
        sends t r ∧ r.kind = 1 ∧ r.reqId = m.reqId ∧ r.t2 = now ∧ (timeOf t i).heard = true ∧
        (timeOf t i).serial = m.rootSerial ∧ (timeOf t i).priority = m.priority ∧ t.ft.count = s.p.ft.count ∧
        SameIc { s.p with ft := t.ft, links := t.links } t)) ∧
    (∀ (m : TimeMsg) (t1 : Nat), m.kind = 1 → (timeOf s.p i).req = some (m.reqId, t1) → s.p.ft.state = .locked →
      s.p.ft.parent = some i → s.p.ft.root = false → s.p.ft.phase = .idle → m.locked = true →
      m.rootSerial = s.p.ft.rootSerial → m.priority = s.p.ft.rootPrio →
      let theta := offsetOfExchange t1 m.t2 m.tstamp now
      theta.natAbs ≤ 65536000 →
      ∃ t : Pkg, exec (.timeRespReceive i m) s = .next { s with p := t } ∧ t.ft.state = .locked ∧
        t.ft.theta = theta ∧ t.ft.delta = delayOfExchange t1 m.t2 m.tstamp now ∧ t.ft.slew = theta ∧
        t.ft.u = some (m.uncert * 256 + 32768 + theta.natAbs) ∧ t.ft.hops = m.hops + 1 ∧ t.ft.seq = m.seq ∧
        t.ft.count = s.p.ft.count ∧ (timeOf t i).req = none ∧ SameIc { s.p with ft := t.ft } t)

/-- What ends a lock, and elections (R446, R447): a parent whose RESP does not come within 1 ms gives way to another
port or the package enters HOLDOVER with a detection of class 9; a root whose SEQ stands for 5 ms is lost and a new
one is elected, by a LOCKED package and by one in HOLDOVER; only a package with U below 1 µs stands for root then; the
end of Listen begins Elect with the best candidate so far, and a package alone elects itself, with U at 0. How a package
that may not stand ranks is DEDUCED (log entry 87). -/
def Obligations.LocksAreLost : Prop :=
  ∀ s : State,
    (∀ i id t1, (timeOf s.p i).req = some (id, t1) → i < s.p.ft.ports.length →
      65536000000 ≤ (stampDiff (s.p.ft.count % 2 ^ 64) t1).toNat →
      ∃ t : Pkg, exec (.timeRespTimeout i) s = .next { s with p := t } ∧ (timeOf t i).req = none ∧
        (¬ (s.p.ft.state = .locked ∧ s.p.ft.parent = some i) → t.ft.state = s.p.ft.state ∧ t.ft.parent = s.p.ft.parent) ∧
        (s.p.ft.state = .locked → s.p.ft.parent = some i → chooseParent s.p (some i) = none →
          t.ft.state = .holdover ∧ t.ft.parent = none ∧ t.ft.unlock = min 0xFFFF (s.p.ft.unlock + 1) ∧
          t.integ.detect = modAt s.p.integ.detect 9 (fun v => min 0xFFFFFFFF (v + 1))) ∧
        (∀ j, s.p.ft.state = .locked → s.p.ft.parent = some i → chooseParent s.p (some i) = some j →
          t.ft.state = .locked ∧ t.ft.parent = some j ∧ t.ft.unlock = s.p.ft.unlock) ∧
        SameIc { s.p with ft := t.ft, integ := t.integ } t) ∧
    (∀ i, s.p.ft.state = .locked → s.p.ft.parent = some i → 5000000 ≤ sinceNs s.p (timeOf s.p i).seqAt →
      upPorts s.p ≠ [] →
      ∃ t : Pkg, exec .rootLoss s = .next { s with p := t } ∧ t.ft.state = .holdover ∧ t.ft.phase = .elect ∧
        t.ft.parent = none ∧ t.ft.unlock = min 0xFFFF (s.p.ft.unlock + 1) ∧ t.ft.count = s.p.ft.count ∧
        (∀ u, s.p.ft.u = some u → u < 65536000 → t.ft.rootSerial = s.set.serial ∧ t.ft.rootPrio = s.p.ft.priority) ∧
        (∀ u, s.p.ft.u = some u → 65536000 ≤ u → t.ft.rootSerial = 2 ^ 64 - 1 ∧ t.ft.rootPrio = 255) ∧
        SameIc { s.p with ft := t.ft, integ := t.integ } t) ∧
    (s.p.ft.state = .holdover → s.p.ft.phase = .idle → s.p.ft.root = false → upPorts s.p ≠ [] →
      (∀ j ∈ upPorts s.p, (timeOf s.p j).heard = false ∨ (timeOf s.p j).serial ≠ s.p.ft.rootSerial ∨
        (timeOf s.p j).priority ≠ s.p.ft.rootPrio ∨ 5000000 ≤ sinceNs s.p (timeOf s.p j).seqAt) →
      ∃ f : Ft, exec .rootLoss s = .next { s with p := { s.p with ft := f } } ∧ f.state = .holdover ∧ f.phase = .elect ∧
        f.parent = none ∧ f.unlock = s.p.ft.unlock ∧ f.count = s.p.ft.count ∧ f.u = s.p.ft.u) ∧
    (s.p.ft.phase = .listen →
      (upPorts s.p ≠ [] → exec .listenEnd s = .next { s with p := { s.p with ft := { s.p.ft with
        phase := .elect, ports := s.p.ft.ports.map fun x => { x with same := 0 } } } }) ∧
      (upPorts s.p = [] → s.p.ft.everLocked = false → s.p.ft.rootSerial = s.set.serial →
        s.p.ft.rootPrio = s.p.ft.priority →
        ∃ f : Ft, exec .listenEnd s = .next { s with p := { s.p with ft := f } } ∧ f.phase = .align ∧ f.root = true ∧
          f.parent = none ∧ f.hops = 0 ∧ f.u = some 0 ∧ f.state = s.p.ft.state ∧ f.count = s.p.ft.count))

/-- REFTIME (R2, R435, R444, R446, R447): the first mark after Align sets the count to the next whole second and locks
the root with U at 0, while the REFTIME clock is there; any other mark gives the offset from its second, and without the
clock none locks; a missed mark is counted; the loss of the clock takes a LOCKED package to HOLDOVER, in which U grows. -/
def Obligations.Reftime : Prop :=
  ∀ s : State,
    (s.p.ft.phase = .align → s.p.ft.root = true → s.p.ft.everLocked = false → s.p.ft.state = .free →
      s.p.ft.refclk = true →
      ∃ t : Pkg, exec .reftimeMark s = .next { s with p := t } ∧
        t.ft.count = (s.p.ft.count / 65536000000000 + 1) * 65536000000000 % 2 ^ 80 ∧ t.ft.state = .locked ∧
        t.ft.u = some 0 ∧ t.ft.phase = .idle ∧ t.ft.everLocked = true ∧ t.ft.lastMark = some t.ft.count ∧
        t.ft.markOfs = 0 ∧ SameIc { s.p with ft := t.ft } t) ∧
    (s.p.ft.phase ≠ .align ∨ s.p.ft.refclk = false →
      ∃ t : Pkg, exec .reftimeMark s = .next { s with p := t } ∧ t.ft.count = s.p.ft.count ∧
        t.ft.lastMark = some s.p.ft.count ∧ t.ft.markOfs = secondOffset s.p.ft.count ∧ t.ft.state = s.p.ft.state ∧
        t.ft.markOff = min 0xFF (s.p.ft.markOff +
          if s.p.ft.everLocked = true ∧ 6553600 < (secondOffset s.p.ft.count).natAbs then 1 else 0) ∧
        SameIc { s.p with ft := t.ft } t) ∧
    (s.p.ft.lastMark ≠ none → 1100000000 ≤ sinceNs s.p s.p.ft.markBase →
      exec .markMiss s = .next { s with p := raise 338 { s.p with ft := { s.p.ft with
        markMiss := min 0xFF (s.p.ft.markMiss + 1), markBase := s.p.ft.markBase + 65536000000000 } } }) ∧
    (s.p.ft.refclk = true → ∃ t : Pkg, exec .reftimeLoss s = .next { s with p := t } ∧ t.ft.refclk = false ∧
        (s.p.ft.state = .locked → t.ft.state = .holdover ∧ t.ft.unlock = min 0xFFFF (s.p.ft.unlock + 1)) ∧
        (s.p.ft.state ≠ .locked → t.ft.state = s.p.ft.state ∧ t.ft.unlock = s.p.ft.unlock) ∧
        SameIc { s.p with ft := t.ft, integ := t.integ } t) ∧
    (s.p.ft.refclk = false → ∃ t : Pkg, exec .reftimeRestore s = .next { s with p := t } ∧ t.ft.refclk = true ∧
        t.ft.state = s.p.ft.state ∧ SameIc { s.p with ft := t.ft } t) ∧
    (∀ u, s.p.ft.state = .holdover → s.p.ft.u = some u → ∃ t : Pkg, exec .ftUncert s = .next { s with p := t } ∧
        t.ft.u = some (u + if s.p.ft.refclk then (s.p.ft.count - s.p.ft.uAt) / 10000000
          else (s.p.ft.count - s.p.ft.uAt) / 1000) ∧ t.ft.uAt = s.p.ft.count ∧
        SameIc { s.p with ft := t.ft } t)

/-- FT_CONFIG and the calendar (R449, R452 to R454): FT_CONFIG sets its registers, and flash with SAVE
(that a package in an election takes its new PRIORITY into it at once is DEDUCED, log entry 87); CAL_SET waits
for its crystal edge, which sets the calendar, clears CAL_INVALID and answers; a crystal that misses 1 s leaves
CAL_INVALID and a calendar that counts from 0; the calendar stops when its supplies fail while the package is off. -/
def Obligations.Calendar : Prop :=
  (∀ (s : State) (q : Nat) (w : Who) (b : List Byte) (p : Pkg), Takes s (.queue q) 0x0A03 w b p →
    zeros b 8 56 = true → le b 1 1 < 2 → le b 2 2 < 2 ^ portCount s.set.lanes →
    exec (.ftConfig q) s = .next { s with p := answer w stOk 0 0 { p with
      ft := { p.ft with
        priority := le b 0 1, parentMask := le b 2 2, uncertLimit := le b 4 4
        rootPrio := if p.ft.rootSerial = s.set.serial ∧ (p.ft.phase = .listen ∨ p.ft.phase = .elect) then le b 0 1
          else p.ft.rootPrio }
      flash := if le b 1 1 = 1 then
        { p.flash with ftPriority := le b 0 1, ftMask := le b 2 2, ftLimit := le b 4 4 } else p.flash } }) ∧
  (∀ (s : State) (q : Nat) (w : Who) (b : List Byte) (p : Pkg), Takes s (.queue q) 0x0A02 w b p →
    le b 6 2 < 2 ^ 15 → le b 8 1 < 2 → zeros b 9 7 = true → zeros b 24 40 = true →
    (le b 8 1 = 0 → le b 16 8 = 0) →
    exec (.calSet q) s = .next { s with p := { p with cal := { p.cal with
      waits := p.cal.waits ++ [⟨w, le b 0 6, le b 6 2, le b 16 8⟩] } } }) ∧
  (∀ (s : State) (c : CalWait), s.p.cal.waits.find? (fun c => reached s.p c.atFt) = some c →
    exec .calSetLoad s = .next { s with
      p := answer c.who stOk 0 0 (log 0x0A01 0 0xFFFF [d8 (s.p.cal.secs + s.p.cal.frac * 2 ^ 48), d8 (c.secs + c.frac * 2 ^ 48)]
        { s.p with cal := { s.p.cal with
          secs := c.secs, frac := c.frac, part := 0, invalid := false, stopFlag := false
          waits := s.p.cal.waits.filter fun d => d != c } }) }) ∧
  (∀ s : State, exec .calMiss s = .next { s with
    p := let p := { s.p with cal := { s.p.cal with invalid := true, secs := 0, frac := 0, part := 0 } }
      if s.p.cal.invalid then p else raise 340 p }) ∧
  (∀ s : State, s.p.boot.off = true → exec .calendarStop s = .next { s with p := { s.p with
    cal := { s.p.cal with stopFlag := true }, flash := { s.p.flash with brownout := false } } })

/-! ### The mode and the step -/

/-- SET_MODE (R31, R32, R35, R495): while a step is under way the fields it selects wait and nothing else changes; at
a step boundary they take effect together with what waited, ENV_ACT follows as R545 gives it, and the reply carries
PKG_MODE. R36: while ENV_ACT is P3, STEP_OPEN and every command that needs a core are answered BAD_STATE and do
nothing else. Which commands need a core is read from R36 and the chapters of each command (DEDUCED, log entry 50). -/
def Obligations.SetModeTakesEffect : Prop :=
  (∀ (s : State) (q : Nat) (w : Who) (b : List Byte) (p : Pkg), Takes s (.queue q) 0x0102 w b p →
    modeFieldsBad b = false → (bit (le b 0 1) 5 = true → le b 6 1 = s.set.lanes) →
    (stepBusy p = true →
      let set := { s.set with pend := mergePend b s.set.pend }
      exec (.setMode q) s = .next { s with set := set, p := answer w stOk 0 (pkgMode set) p }) ∧
    (stepBusy p = false → s.set.pend = none → le b 0 1 % 32 ≠ 0 →
      ∃ t : State, exec (.setMode q) s = .next t ∧ t.pending = s.pending ∧
        t.set.env = (if bit (le b 0 1) 0 then le b 1 1 else s.set.env) ∧
        t.set.c1 = (if bit (le b 0 1) 1 then le b 2 1 == 1 else s.set.c1) ∧
        t.set.arrival = (if bit (le b 0 1) 2 then le b 3 1 == 1 else s.set.arrival) ∧
        t.set.lean = (if bit (le b 0 1) 3 then le b 4 1 == 1 else s.set.lean) ∧
        t.set.filler = (if bit (le b 0 1) 4 then le b 5 1 == 1 else s.set.filler) ∧
        (s.set.filler = true ∨ bit (le b 0 1) 4 = false ∨ le b 5 1 = 0 ∨ j1Runs p = [] →
          t.set.envAct = if s.set.envAct = envGiven s.set.env p.pwr then envGiven t.set.env p.pwr
            else max s.set.envAct (envGiven t.set.env p.pwr)) ∧
        t.set = { s.set with
          env := t.set.env, c1 := t.set.c1, arrival := t.set.arrival, lean := t.set.lean, filler := t.set.filler
          envAct := t.set.envAct })) ∧
  (∀ (s : State) (q : Nat) (w : Who) (b : List Byte) (p : Pkg), s.set.envAct = 3 →
    (Takes s (.queue q) 0x0801 w b p → openFieldsBad b = false →
      exec (.stepOpen q) s = .next { s with p := answer w stBadState 0 0 p }) ∧
    (Takes s (.queue q) 0x0803 w b p → stepNumBad p b = false →
      exec (.stepCommit q) s = .next { s with p := answer w stBadState 0 0 p }) ∧
    (Takes s (.queue q) 0x0301 w b p → commandBad (· == 1) b = false →
      exec (.matmul q) s = .next { s with p := answer w stBadState 0 0 p }) ∧
    (Takes s (.queue q) 0x0302 w b p → commandBad (· == 2) b = false →
      exec (.groupedMatmul q) s = .next { s with p := answer w stBadState 0 0 p }) ∧
    (Takes s (.queue q) 0x0310 w b p → commandBad (· == 0x10) b = false →
      exec (.vchain q) s = .next { s with p := answer w stBadState 0 0 p }))

/-- R207, R208: a STEP_OPEN that passes every check opens the step: its number, learning rate, tokens and record are
taken, FAIL_MASK and the flags are 0, TORN is cleared by BASE, the J0 health counters and the summary slots are
cleared, and the reply is OK. -/
def Obligations.StepOpens : Prop :=
  ∀ (s : State) (q : Nat) (w : Who) (b : List Byte) (p : Pkg), Takes s (.queue q) 0x0801 w b p →
    openFieldsBad b = false → p.upd.cfg ≠ none → s.set.envAct ≠ 3 →
    (p.step.state = .none ∨ p.step.state = .committed ∨ p.step.state = .aborted) →
    p.reshard.round = none → p.reshard.held = [] → p.reshard.active = false →
    (oEpoch b = 0xFFFF ∨ oEpoch b = p.reshard.epoch) →
    (oBase b = true ∨ (p.step.torn = false ∧ ∃ n, p.step.committedNum = some n ∧ oStep b = (n + 1) % 2 ^ 64)) →
    failedIn s.set p (uConst (cfgOf p)) 64 = none →
    ∃ t : Pkg, exec (.stepOpen q) s = .next { s with p := answer w stOk 0 0 t } ∧
      t.step.state = .opened ∧ t.step.num = oStep b ∧ t.step.lr = BitVec.ofNat 32 (le b 12 4) ∧
      t.step.tokens = le b 16 4 ∧ t.step.record = oRecord b ∧ t.step.failMask = 0 ∧ t.step.first = none ∧
      t.step.spike = false ∧ t.step.late = false ∧ t.step.lsFloor = false ∧
      t.step.torn = (p.step.torn && !oBase b) ∧ t.step.tOpen = p.ft.count / 65536 ∧ t.step.modeWord = pkgMode s.set ∧
      t.step.epoch = p.reshard.epoch ∧ t.step.cursorOpen = cursors p ∧ t.tasks.summ = [] ∧
      (∀ h, h ∈ t.tasks.health ↔ h ∈ p.tasks.health ∧ 6144 ≤ h.slot) ∧ t.tasks.insts = p.tasks.insts ∧
      t.upd = p.upd ∧ t.rings = p.rings ∧ t.pipe = p.pipe ∧ t.host = p.host

/-- STEP_SEAL, STEP_COMMIT and STEP_ABORT where they apply (R212, R214, R227, R235): the step becomes SEALING with who
is to be answered, COMMITTING with who is to be answered, or begins to abort; a seal of a step that has failed already
begins its abort at once. R304: from the beginning of an abort every configured group waits for a RESYNC. -/
def Obligations.StepPacketsInTurn : Prop :=
  ∀ (s : State) (q : Nat) (w : Who) (b : List Byte) (p : Pkg), p.step.aborting = false →
    (Takes s (.queue q) 0x0802 w b p → zeros b 4 60 = true → p.step.state = .opened → p.step.failMask = 0 →
      p.step.abortDue = false → (∀ f ∈ p.pipe.fixtures, f.launched = true ∨ ofStep p f = false) →
      ∃ t : Pkg, exec (.stepSeal q) s = .next { s with p := t } ∧ t.step.state = .sealing ∧ t.step.sealWho = w ∧
        t.step.sealMs = le b 0 4 ∧ t.step.tSeal = p.ft.count / 65536 ∧ t.step.swept = false ∧ t.step.failMask = 0 ∧
        t.step.aborting = false ∧ t.step.num = p.step.num ∧ t.mem = p.mem ∧ t.tasks.insts = p.tasks.insts ∧
        t.host = p.host) ∧
    (Takes s (.queue q) 0x0802 w b p → zeros b 4 60 = true → p.step.state = .opened → p.step.failMask ≠ 0 →
      ∃ t : Pkg, exec (.stepSeal q) s = .next { s with p := t } ∧ t.step.aborting = true ∧ t.step.sealWho = w) ∧
    (Takes s (.queue q) 0x0803 w b p → stepNumBad p b = false → p.step.state = .sealed → s.set.envAct ≠ 3 →
      (∀ e ∈ p.upd.layers, ringMismatch p e = false) →
      ∃ t : Pkg, exec (.stepCommit q) s = .next { s with p := t } ∧ t.step.state = .committing ∧ t.step.commitWho = w ∧
        t.step.swept = false ∧ t.step.tear = none ∧ t.rings.version = p.rings.version ∧ t.mem = p.mem ∧ t.upd = p.upd ∧
        t.host = p.host) ∧
    (Takes s (.queue q) 0x0804 w b p → stepNumBad p b = false →
      (p.step.state = .opened ∨ p.step.state = .sealing ∨ p.step.state = .sealed) →
      ∃ t : Pkg, exec (.stepAbort q) s = .next { s with p := t } ∧ t.step.aborting = true ∧ t.step.abortDue = false ∧
        t.step.state = p.step.state ∧ t.step.abortWho = p.step.abortWho ++ [w] ∧
        (∀ c ∈ t.colls.running, c.step ≠ some p.step.num) ∧ (∀ g ∈ t.colls.groups, g.on = true → g.resync = true))

/-- The seal ends (R213 to R215, R221, R503): with the work done and the closing sweep made the step is SEALED, with
the spike flag of R221, and STEP_SEAL is answered OK; a step that is not finite fails by bit 5 and one whose TIMEOUT
passes by bit 6, and both begin to abort. An abort ends once no rung and no stash task runs (R235): the step is
ABORTED, no version has been published, every fixture that had not launched is gone, stages wait for a RESYNC as the
groups go on doing, and everyone who asked for the abort has been answered; after it the collective engine goes on
(R336), which leaves all this as it is where no collective is left. -/
def Obligations.SealsAndAbortsEnd : Prop :=
  (∀ s : State, s.p.step.state = .sealing → s.p.step.aborting = false →
    (workDone s.p = true → s.p.step.swept = true → nonfiniteStep s.p = false →
      ∃ t u : Pkg, exec .sealComplete s = .next { s with p := t } ∧
        t = answer s.p.step.sealWho stOk s.p.step.failMask (stepFlags t.step) u ∧ u.host = s.p.host ∧
        t.step.state = .sealed ∧ t.step.spike = isSpike s.p ∧ t.step.failMask = s.p.step.failMask ∧
        t.step.num = s.p.step.num ∧ t.tasks = s.p.tasks ∧ t.upd = s.p.upd ∧ t.rings = s.p.rings) ∧
    (workDone s.p = true → s.p.step.swept = true → nonfiniteStep s.p = true →
      ∃ t : Pkg, exec .sealComplete s = .next { s with p := t } ∧ t.step.aborting = true ∧
        bit t.step.failMask 5 = true) ∧
    (s.p.step.sealMs ≠ 0 → s.p.step.tSeal + s.p.step.sealMs * 1000000 ≤ s.p.ft.count / 65536 →
      ∃ t : Pkg, exec .sealTimeout s = .next { s with p := t } ∧ t.step.aborting = true ∧
        bit t.step.failMask 6 = true) ∧
    (workDone s.p = true → s.p.step.swept = false → s.p.step.abortDue = false →
      ∃ t : Pkg, exec (.closingSweep []) s = .next { s with p := t } ∧ t.step = { s.p.step with swept := true } ∧
        t.integ = { s.p.integ with rounds := (s.p.integ.rounds + 1) % 65536 } ∧ t.mem = s.p.mem ∧ t.host = s.p.host)) ∧
  (∀ s : State, s.p.step.aborting = true → s.p.integ.episode = none → stashRuns s.p (fun _ => true) = false →
    s.p.step.opens = [] → s.p.upd.waits = [] → s.p.reshard.held = [] → s.p.hollow.pushWait = [] →
    (j1Runs s.p = [] ∨ s.set.filler = true ∨ ∀ m, s.set.pend = some m → m.filler ≠ some true) →
    let ends (t : State) : Prop := t.p.step.state = .aborted ∧ t.p.step.aborting = false ∧
      t.p.step.abortWho = [] ∧ t.p.rings.version = s.p.rings.version ∧ (∀ f ∈ t.p.pipe.fixtures, f.launched = true) ∧
      (∀ st ∈ t.p.pipe.stages, st.on = true → st.resync = true) ∧
      t.p.step.committedNum = s.p.step.committedNum ∧ t.set.pend = none ∧ t.p.upd.updates = s.p.upd.updates ∧
      ((∀ c ∈ s.p.colls.groups, c.on = true → c.resync = true) → ∀ c ∈ t.p.colls.groups, c.on = true → c.resync = true)
    (∃ u : State, exec .abortComplete s = .next { u with p := runEngine u.set u.p } ∧ ends u) ∧
    (s.p.colls.running = [] → (∀ g ∈ s.p.colls.groups, g.stalled = []) →
      ∃ t : State, exec .abortComplete s = .next t ∧ ends t))

/-- A commit whose slots are chosen, whose sweep is made and which no failure reaches completes (R233, R263): the step
is COMMITTED and its number is the committed one, UPDATES and the version increase by 1, the segments and stamps of
the step are gone, and what waited for the step boundary has taken effect. R263, R265: when a version is published
each ring holds it in the slot chosen for the ring, or, for a ring that the update does not write, in the slot of the
version before; no ring holds a version that is not live. -/
def Obligations.CommitPublishes : Prop :=
  (∀ s : State, s.p.step.state = .committing → s.p.step.aborting = false → s.p.step.swept = true →
    s.p.step.tear = none → s.p.step.commitHeld = false → stashRuns s.p (fun _ => true) = false →
    updateError s.set s.p = none → s.p.step.opens = [] → s.p.upd.waits = [] → s.p.reshard.held = [] →
    s.p.hollow.pushWait = [] → (j1Runs s.p = [] ∨ s.set.filler = true ∨ ∀ m, s.set.pend = some m → m.filler ≠ some true) →
    ∃ t : State, exec (.commitComplete none) s = .next t ∧ t.p.step.state = .committed ∧
      t.p.step.committedNum = some s.p.step.num ∧ t.p.rings.version = (s.p.rings.version + 1) % 65536 ∧
      t.p.upd.updates = (s.p.upd.updates + 1) % 2 ^ 64 ∧ t.p.rings.stamps = [] ∧ t.set.pend = none ∧
      (∀ r ∈ t.p.rings.rings, ∃ v ∈ r.versions, v.num = t.p.rings.version) ∧ t.pending = s.pending ∧
      t.p.boot = s.p.boot) ∧
  (∀ (p : Pkg) (r : Ring), p.rings.version < 65536 → r ∈ (publish p).rings.rings →
    (publish p).rings.version = (p.rings.version + 1) % 65536 ∧
    (∀ v ∈ r.versions, versionLive (publish p) r v = true) ∧
    ∃ o ∈ p.rings.rings, o.id = r.id ∧ o.base = r.base ∧
      (⟨(p.rings.version + 1) % 65536,
        match p.step.chosen.find? fun x => x.1 == o.id with
          | some x => x.2
          | none => ((liveVersion o p.rings.version).map (·.slot)).getD 0, p.reshard.epoch⟩ : Version) ∈ r.versions)

/-! ### Loading and configuring -/

/-- Packets that set up the package (R79, R102, R224 to R226, R241, R260, R261, R369, R410): each takes effect at once
where no step is under way, answers OK and changes only what it configures. R226: an UPDATE_CONFIG that takes effect
keeps its payload and layers, sets UPDATES, EXP and GOOD, and clears the gradients of every layer to +0.0. R391: a new
address is told to the neighbour on every UP port by a HELLO frame, whose payload's layout is the model's choice (log
entry 20). -/
def Obligations.ConfigurationPackets : Prop :=
  (∀ (s : State) (q : Nat) (w : Who) (b : List Byte) (p : Pkg),
    (Takes s (.queue q) 0x0330 w b p → branchTableBad b = false →
      exec (.branchTableLoad q) s = .next { s with p := answer w stOk 0 0 { p with tasks := { p.tasks with
        branches := b :: p.tasks.branches.filter fun t => le t 0 1 != le b 0 1 } } }) ∧
    (Takes s (.queue q) 0x0202 w b p → fillerFieldsBad b = false →
      (∀ r ∈ fillerTaken s.set p, overlaps (le b 0 8) (le b 8 8) r.1 r.2 = false) → stepBusy p = false →
      (∀ g ∈ p.tasks.graphs, g.j1 = false) → (∀ i ∈ p.tasks.insts, i.graph = none) →
      exec (.fillerConfig q) s = .next { s with p := answer w stOk 0 0 { p with mem := { p.mem with
        j1Base := le b 0 8, j1Size := le b 8 8 } } }) ∧
    (Takes s (.queue q) 0x0401 w b p → hollowFieldsBad b = false → hollowRoomBad p b = false → stepBusy p = false →
      (hollowAt p (le b 0 1)).segs = [] → stashRuns p (· == le b 0 1) = false →
      exec (.hollowConfig q) s = .next { s with p := answer w stOk 0 0 { p with hollow := { p.hollow with
        stages := modAt p.hollow.stages (le b 0 1) fun _ => if le b 1 1 = 1 then {} else
          { on := true, cache := le b 2 2, base := le b 8 8, size := le b 16 8, reserve := le b 24 8 } } } }) ∧
    (Takes s (.queue q) 0x0402 w b p → ringFieldsBad p b = false → stepBusy p = false →
      (le b 2 1 = 0 → ringOf p (le b 0 2) = none →
        exec (.ringConfig q) s = .next { s with p := answer w stOk 0 0 { p with rings := { p.rings with
          rings := p.rings.rings ++ [ringFrom p b] } } }) ∧
      (le b 2 1 = 1 → ringNeeded p (le b 0 2) = false →
        exec (.ringConfig q) s = .next { s with p := answer w stOk 0 0 { p with rings := { p.rings with
          rings := p.rings.rings.filter fun r => r.id != le b 0 2 } } }) ∧
      (le b 2 1 = 2 → p.rings.rings = [] →
        exec (.ringConfig q) s = .next { s with p := answer w stOk 0 0 { p with rings := { p.rings with
          version := le b 6 2 } } })) ∧
    (Takes s (.queue q) 0x0104 w b p → linkFieldsBad s.set b = false → cSetRoute b = false →
      exec (.linkConfig q) s = .next { s with
        set := if cSetPlan b then { s.set with nextPlan := le b 5 1 } else s.set
        p := answer w stOk 0 0 p }) ∧
    (Takes s (.queue q) 0x0104 w b p → linkFieldsBad s.set b = false → cSetRoute b = true → cTableMode b = false →
      anyStage p = false → anyGroup p = false → p.reshard.active = false → stepBusy p = false →
      ∃ t : Pkg, exec (.linkConfig q) s = .next { s with
          set := if cSetPlan b then { s.set with nextPlan := le b 5 1 } else s.set
          p := answer w stOk 0 0 t } ∧
        t.links = { p.links with
          addr := le b 0 4, tableMode := false, dims := [le b 8 2, le b 10 2, le b 12 2], route := [], ports := t.links.ports } ∧
        (∀ i, portOf t i = { portOf p i with lane := (portOf t i).lane }) ∧
        t = { p with links := t.links, out := { p.out with frames := t.out.frames } } ∧
        (le b 0 4 = p.links.addr → t.links.ports = p.links.ports ∧ t.out = p.out) ∧
        (le b 0 4 ≠ p.links.addr → t.out.frames = p.out.frames ++ (upPorts p).map fun i =>
          (i, (portOf p i).lane % laneCount s.set.lanes,
            frameBytes 2 0 (ackOf (portOf p i)) 0xFFFFFFFF 0 (List.replicate 16 0)
              { vc := 0, cls := 0, som := true, eom := true, dst := 0xFFFFFFFF, src := le b 0 4, hops := 0
                payload := helloBytes { plan := s.set.lanes, port := i, levelMin := 1, levelMax := 1, addr := le b 0 4 } }))) ∧
    (Takes s (.queue q) 0x0805 w b p → updatePayloadBad b = false →
      readError s.set p (uTable b) (64 * uLayers b) = none →
      let layers := chunksOf 64 (uLayers b) (readMem s.set p (uTable b) (64 * uLayers b))
      (∀ k, k < uLayers b → layerBad s.set.lean (uAdam b) (layers.getD k []) = false) → p.reshard.active = false →
      (stepBusy p = false →
        exec (.updateConfig q) s = .next { s with p := answer w stOk 0 0 (applyConfig s.set b layers p) }) ∧
      (stepBusy p = true →
        exec (.updateConfig q) s = .next { s with p := { p with upd := { p.upd with
          waits := p.upd.waits ++ [(⟨w, b⟩, layers)] } } }))) ∧
  (∀ (set : Settings) (b : List Byte) (layers : List (List Byte)) (p : Pkg), Memory.wf p.mem.cells = true →
    (∀ e ∈ layers, lGrad e + 4 * lCount e ≤ regionSize) →
    (applyConfig set b layers p).upd.cfg = some b ∧ (applyConfig set b layers p).upd.layers = layers ∧
    (applyConfig set b layers p).upd.updates = le b 72 8 ∧
    (applyConfig set b layers p).upd.good = (if uRestore b then le b 82 2 else 0) ∧
    (∀ e ∈ layers, ∀ x, lGrad e ≤ x → x < lGrad e + 4 * lCount e →
      readByte set (applyConfig set b layers p) x = 0) ∧
    (∀ x, x < regionSize → (∀ e ∈ layers, x < lGrad e ∨ lGrad e + 4 * lCount e ≤ x) →
      readByte set (applyConfig set b layers p) x = readByte set p x))

/-- TASK_GRAPH_SUBMIT (R78 to R80): LOAD of a graph that passes its checks makes it resident with the tasks and tokens
read from memory, UNLOAD takes away one that nothing uses, and RUN starts an instance with its initial tokens. -/
def Obligations.GraphsLoadRunAndUnload : Prop :=
  ∀ (s : State) (q : Nat) (w : Who) (b : List Byte) (p : Pkg), Takes s (.queue q) 0x0320 w b p →
    graphPayloadBad b = false →
    (gOp b = 0 → readError s.set p (gArray b) (128 * gTasks b) = none → readError s.set p (gTable b) (8 * gTokens b) = none →
      let tasks := chunksOf 128 (gTasks b) (readMem s.set p (gArray b) (128 * gTasks b))
      let toks := chunksOf 8 (gTokens b) (readMem s.set p (gTable b) (8 * gTokens b))
      graphBad (le b 3 1 == 1) tasks toks = none → graphOf p (gId b) = none → residentFull p tasks.length = false →
      exec (.taskGraphSubmit q) s = .next { s with p := finish s.set (answer w stOk 0 0 { p with tasks := { p.tasks with
        graphs := p.tasks.graphs ++ [⟨gId b, le b 3 1 == 1, tasks, toks⟩] } }) }) ∧
    (gOp b = 3 → (∃ g, graphOf p (gId b) = some g) → graphLive p (gId b) = false → fixtureNames p (gId b) = false →
      exec (.taskGraphSubmit q) s = .next { s with p := answer w stOk 0 0 { p with tasks := { p.tasks with
        graphs := p.tasks.graphs.filter fun x => x.id != gId b } } }) ∧
    (∀ g, gOp b = 2 → graphOf p (gId b) = some g → liveNumber p g.id (gInst b) = false → stepShut p = false →
      roomFor p g.id = true → p.step.abortDue = false → (∀ i ∈ p.tasks.insts, i.iid ≠ p.tasks.nextIid) →
      ∃ (t : Pkg) (i : Inst), exec (.taskGraphSubmit q) s = .next { s with p := t } ∧ t.tasks.insts = p.tasks.insts ++ [i] ∧
        i.iid = p.tasks.nextIid ∧ i.graph = some g.id ∧ i.num = gInst b ∧ i.j1 = g.j1 ∧ i.descs = g.tasks ∧
        i.step = (if g.j1 then none else openStep p) ∧ i.tasks.length = g.tasks.length ∧ i.noMore = false ∧
        t.tasks.nextIid = p.tasks.nextIid + 1 ∧ t.mem = p.mem ∧ t.host = p.host ∧ t.step = p.step)

/-- Commands of one task (R134, R135, R193, R194, R376): a descriptor that passes becomes an instance whose parts, the
blocks of a matrix product or the rows of a chain, are ready at once. What `startCommand` leaves (R135, R194): the
instance of the command with every part ready, in the step that is open; one without parts has completed and is
answered OK. -/
def Obligations.TaskCommandsStart : Prop :=
  (∀ (s : State) (q : Nat) (w : Who) (b : List Byte) (p : Pkg), stepShut p = false →
    (Takes s (.queue q) 0x0201 w b p → commandBad (· == 0x50) b = false →
      exec (.copy q) s = .next { s with p := startCommand s.set w 0x0201 b [.whole] p }) ∧
    (s.set.envAct ≠ 3 →
      (∀ ps gs holds, Takes s (.queue q) 0x0301 w b p → commandBad (· == 1) b = false →
        readProducts s.set p (commandInst w 0x0301 b [.whole] p) b = .ok ps →
        placeProducts s.set p (commandInst w 0x0301 b [.whole] p) b .whole ps = .ok (gs, holds) →
        exec (.matmul q) s = .next { s with p := startCommand s.set w 0x0301 b (matrixParts s.set p b gs) p }) ∧
      (∀ ps gs holds, Takes s (.queue q) 0x0302 w b p → commandBad (· == 2) b = false →
        readProducts s.set p (commandInst w 0x0302 b [.whole] p) b = .ok ps →
        placeProducts s.set p (commandInst w 0x0302 b [.whole] p) b .whole ps = .ok (gs, holds) →
        exec (.groupedMatmul q) s = .next { s with p := startCommand s.set w 0x0302 b (matrixParts s.set p b gs) p }) ∧
      (∀ tn holds, Takes s (.queue q) 0x0310 w b p → commandBad (· == 0x10) b = false →
        prepare s.set p (commandInst w 0x0310 b [.whole] p) b (chainOuts (parseChain (tBody b))) = .go tn holds →
        chainTensorsBad (parseChain (tBody b)) (fun k => tn.getD k noTensor)
          (tn.getD (parseChain (tBody b)).iter noTensor).ext false = false →
        exec (.vchain q) s = .next { s with p := startCommand s.set w 0x0310 b (chainParts p b tn) p }))) ∧
  (∀ (set : Settings) (w : Who) (op : Nat) (d : List Byte) (parts : List Part) (p : Pkg), p.step.abortDue = false →
    p.step.commitHeld = false → (∀ i ∈ p.tasks.insts, i.iid ≠ p.tasks.nextIid) → tIns d = [] → tOuts d = [] → tSub d = 0 →
    (parts ≠ [] → ∃ i : Inst, (startCommand set w op d parts p).tasks.insts = p.tasks.insts ++ [i] ∧
      i.iid = p.tasks.nextIid ∧ i.graph = none ∧ i.origin = .packet w op (seqOf w p) ∧ i.descs = [d] ∧ i.parts = parts ∧
      i.step = openStep p ∧ i.inStep = (p.step.state == .opened) ∧
      i.tasks = parts.map (fun _ => .ready (p.ft.count / 65536)) ∧ i.fail = none ∧ i.noMore = false ∧
      (startCommand set w op d parts p).mem = p.mem ∧ (startCommand set w op d parts p).step = p.step ∧
      (startCommand set w op d parts p).host = p.host) ∧
    (parts = [] → p.tasks.held = [] → (startCommand set w op d parts p).tasks.insts = p.tasks.insts ∧
      (startCommand set w op d parts p).host = (answer w stOk 0 0 p).host ∧ (startCommand set w op d parts p).mem = p.mem))

/-! ### Tasks -/

/-- A task that may be launched, and whose descriptors pass, starts on its unit with the run its chapter gives (R78,
R93, R111, R123, R199, R375): matrix products, vector chains and copies. -/
def Obligations.TasksLaunch : Prop :=
  ∀ (s : State) (iid k u : Nat) (i : Inst),
    (∀ ps gs holds, launchable s.set s.p iid k 0x01 = some (i, some u) → readProducts s.set s.p i (i.desc k) = .ok ps →
      placeProducts s.set s.p i (i.desc k) (i.part k) ps = .ok (gs, holds) →
      exec (.matrixProduct iid k) s = .next { s with
        p := finish s.set (startRun s.set i k (matrixRun s.set s.p i k u ps.1 gs holds) s.p) }) ∧
    (∀ ps gs holds, launchable s.set s.p iid k 0x02 = some (i, some u) → readProducts s.set s.p i (i.desc k) = .ok ps →
      placeProducts s.set s.p i (i.desc k) (i.part k) ps = .ok (gs, holds) →
      exec (.groupedMatrixProduct iid k) s = .next { s with
        p := finish s.set (startRun s.set i k (matrixRun s.set s.p i k u ps.1 gs holds) s.p) }) ∧
    (∀ tn holds, launchable s.set s.p iid k 0x10 = some (i, some u) →
      let c := parseChain (tBody (i.desc k))
      prepare s.set s.p i (i.desc k) (chainOuts c) = .go tn holds →
      chainTensorsBad c (fun k => tn.getD k noTensor) (tn.getD c.iter noTensor).ext false = false →
      let r := chainRun s.set s.p i k u tn holds
      exec (.vectorChain iid k) s = .next { s with
        p := finish s.set (startRun s.set i k r
          (if r.fate = stIndex ∨ c.branchBits = true then { s.p with free := s.p.free + 1 } else s.p)) }) ∧
    (∀ tn holds, launchable s.set s.p iid k 0x50 = some (i, some u) →
      let b := tBody (i.desc k)
      let dst := tn.getD (le b 1 1) noTensor
      let src := if le b 2 1 = 3 then dst else tn.getD (le b 0 1) noTensor
      prepare s.set s.p i (i.desc k) [le b 1 1] = .go tn holds → copyTensorsBad (le b 2 1) src dst = false →
      (le b 2 1 ≠ 3 → rowError s.set s.p src = none) →
      exec (.copyTask iid k) s = .next { s with p := finish s.set (startRun s.set i k
        { iid := i.iid, task := k, unit := u, j1 := i.j1, began := s.p.ft.count, tensors := tn, holds
          work := copyWork s.set s.p (le b 2 1) src dst } s.p) })

/-- Tasks that need no memory work of their own or wait for it (R103 to R105, R246 to R253, R282, R283): a join and a
branch take their tokens and complete, the branch choosing its subgraph; a SEND waits for its slot; a RELEASE closes
its segment; a DRAIN that finds its frame reads it; a PUSH with no room to open its segment waits. -/
def Obligations.ControlAndStashTasksLaunch : Prop :=
  ∀ (s : State) (iid k u : Nat) (i : Inst),
    (launchable s.set s.p iid k 0x60 = some (i, some u) →
      (∀ tn holds, prepare s.set s.p i (i.desc k) [] = .go tn holds →
        exec (.join iid k) s = .next { s with p := finish s.set (passTask s.set i k u s.p) }) ∧
      (tEpoch (i.desc k) ≠ 0xFFFF → tEpoch (i.desc k) ≠ s.p.reshard.epoch →
        exec (.join iid k) s = .next { s with p := finish s.set (failTask s.set i.iid k stBadState u s.p) })) ∧
    (∀ table tn holds, launchable s.set s.p iid k 0x70 = some (i, some u) →
      let b := tBody (i.desc k)
      let c := branchChoice table (summaryAt s.p i (le b 2 2))
      prepare s.set s.p i (i.desc k) [] = .go tn holds →
      s.p.tasks.branches.find? (fun t => le t 0 1 == le b 0 1) = some table → c ∈ branchSubs b →
      let took (i : Inst) : Inst :=
        { i with chosen := i.chosen ++ [c], unchosen := i.unchosen ++ (branchSubs b).filter (· != c) }
      exec (.branch iid k) s = .next { s with
        p := finish s.set (passTask s.set i k u (modInst i.iid took s.p)) }) ∧
    (∀ tn holds, launchable s.set s.p iid k 0x30 = some (i, some u) →
      let b := tBody (i.desc k)
      prepare s.set s.p i (i.desc k) [] = .go tn holds → sendFails s.p i b (tn.getD (le b 2 1) noTensor) = none →
      exec (.send iid k) s = .next { s with p := finish s.set (startRun s.set i k
        { iid := i.iid, task := k, unit := u, j1 := i.j1, began := s.p.ft.count, tensors := tn, holds, waits := true }
        s.p) }) ∧
    (∀ tn holds, launchable s.set s.p iid k 0x22 = some (i, some u) → prepare s.set s.p i (i.desc k) [] = .go tn holds →
      exec (.segmentRelease iid k) s = .next { s with p := finish s.set (closeSegment s.set (le (tBody (i.desc k)) 0 1) i.num
        (startRun s.set i k { iid := i.iid, task := k, unit := u, j1 := i.j1, began := s.p.ft.count, tensors := tn, holds }
          s.p)) }) ∧
    (∀ tn holds seg place f, launchable s.set s.p iid k 0x21 = some (i, some u) →
      let b := tBody (i.desc k)
      let outs := le b 2 1 :: if le b 3 1 == 0xFF then [] else [le b 3 1]
      let h := hollowAt s.p (le b 0 1)
      prepare s.set s.p i (i.desc k) outs = .go tn holds → stashBitsBad b tn = false →
      sharesOther tn (le b 2 1) outs = false → h.on = true → segmentOf h i.num = some seg →
      drainFrame seg b = some (place, f) → drainBadFit b tn f = false → f.dropped = false →
      frameError s.set s.p h f = none →
      let left := seg.frames.length - b2n (le b 1 1 == 0)
      let p := startRun s.set i k
        { iid := i.iid, task := k, unit := u, j1 := i.j1, began := s.p.ft.count, tensors := tn, holds
          summary := if le b 6 2 = 0xFFFF then none else some (le b 6 2, drainSummary f left)
          work := drainWork b tn (frameBytesRead s.set s.p h f) } s.p
      exec (.drain iid k) s = .next { s with
        p := finish s.set (refillCache s.set (le b 0 1) i.num
          (if le b 1 1 = 0 then popFrame s.set (le b 0 1) i.num p else p)) }) ∧
    (∀ tn holds, launchable s.set s.p iid k 0x20 = some (i, some u) →
      let b := tBody (i.desc k)
      prepare s.set s.p i (i.desc k) [] = .go tn holds → stashBitsBad b tn = false → (hollowAt s.p (le b 0 1)).on = true →
      let run : Run := { iid := i.iid, task := k, unit := u, j1 := i.j1, began := s.p.ft.count, tensors := tn, holds }
      let p := startRun s.set i k { run with waits := true } s.p
      (pushMay s.p i k = false → exec (.push iid k) s = .next { s with
        p := finish s.set { p with hollow := { p.hollow with pushWait := p.hollow.pushWait ++ [(i.iid, k)] } } }) ∧
      (pushMay s.p i k = true → exec (.push iid k) s = .next { s with
        p := finish s.set (placePush s.set i k (startRun s.set i k run s.p)) }))

/-- R92, R93: a task that starts takes its tokens and credits at once: its instance's counts fall by what it takes,
held and reserved rise by as much, its state is running, its run is added to those that run, and nothing outside the
tasks and the stamps of R266 changes. -/
def Obligations.StartTakesTokens : Prop :=
  ∀ (set : Settings) (p : Pkg) (i : Inst) (k : Nat) (r : Run), instOf p i.iid = some i → i.noMore = true ∨ (∀ d ∈ i.descs, tSub d = 0) →
    k < i.tasks.length →
    ∃ j : Inst, instOf (startRun set i k r p) i.iid = some j ∧ j.toks = takeTokens (i.desc k) i.toks ∧
      j.tasks.getD k .waiting = .running ∧ j.descs = i.descs ∧ j.graph = i.graph ∧ j.fail = i.fail ∧
      (startRun set i k r p).tasks.runs = p.tasks.runs ++ [r] ∧ (startRun set i k r p).mem = p.mem ∧
      (startRun set i k r p).step = p.step ∧ (startRun set i k r p).host = p.host ∧
      startRun set i k r p = { p with tasks := (startRun set i k r p).tasks, rings := (startRun set i k r p).rings }

/-- R252, R246, R254: a PUSH that is placed puts a frame with its KEY, format and extents on top of its segment, in free
units of its hollow when they suffice; otherwise, when the frame may be dropped, it is marked dropped and counted. A
frame that the free part of the top cache takes lies there and nothing is written to the stacks; one larger than the
share goes to the stacks. -/
def Obligations.PushPlacesFrames : Prop :=
  ∀ (set : Settings) (p : Pkg) (i : Inst) (k : Nat) (r : Run) (seg : Segment), instOf p i.iid = some i →
    runOf p i.iid k = some r →
    let b := tBody (i.desc k)
    let n := le b 0 1
    let h := hollowAt p n
    let f := { newFrame b r.tensors with order := h.pushes }
    let q := placePush set i k p
    let bare (x : Kept) : Kept := { x with cached := none }
    n < p.hollow.stages.length → segmentOf h i.num = some seg → seg.frames.length < 256 →
    (∀ us, placeFrame h (le b 1 1 == 1) f.size = .stored us → pushError set p b r.tensors = none →
      us.length = ceilDiv f.size hollowUnit ∧ (∀ x ∈ us, x < h.size / hollowUnit ∧ x ∉ usedUnits h) ∧
      ∃ (t : Segment) (g : Kept) (rest : List Kept), segmentOf (hollowAt q n) i.num = some t ∧ t.frames = g :: rest ∧
        bare g = { f with units := us } ∧ rest.map bare = seg.frames.map bare ∧
        q.hollow.drops = p.hollow.drops ∧
        (cacheShare h < f.size → g.cached = none ∧ rest = seg.frames ∧ q.mem = p.mem) ∧
        (cacheUsed h + f.size ≤ cacheShare h → g.cached = some (frameData set p b r.tensors) ∧ q.mem = p.mem)) ∧
    (placeFrame h (le b 1 1 == 1) f.size = .dropped →
      ∃ t, segmentOf (hollowAt q n) i.num = some t ∧ t.frames = { f with dropped := true } :: seg.frames ∧
        q.hollow.drops = min 0xFFFFFFFF (p.hollow.drops + 1) ∧ q.mem = p.mem)

/-- A running task with nothing left to write completes (R92, R180): its run is gone, and the instance, when other
tasks of it are left, has the task complete and one more task run; no byte of memory changes. One whose accesses met an
uncorrectable error fails with MEM_UNCORRECTABLE (R115, R378); which word an access read is an operand (log entry 73). -/
def Obligations.TasksComplete : Prop :=
  ∀ (s : State) (iid k : Nat) (i : Inst) (r : Run) (errs : List MemErr), instOf s.p iid = some i →
    runOf s.p iid k = some r → mayEnd s.set s.p r = true →
    (r.work = [] → r.fate = 0 → i.noMore = false → s.p.step.abortDue = false → s.p.step.commitHeld = false →
      k < i.tasks.length → (∃ n, n ≠ k ∧ i.tasks[n]? = some .running) → (∀ e ∈ errs, e.fatal = false) →
      ∃ (t : Pkg) (j : Inst), exec (.taskComplete iid k errs) s = .next { s with p := t } ∧ instOf t iid = some j ∧
        runOf t iid k = none ∧ j.tasks.getD k .waiting = .complete ∧ j.ran = i.ran + 1 ∧
        t.mem = (meetErrors errs s.p).mem ∧ t.mem.cells = s.p.mem.cells ∧ t.mem.bad = s.p.mem.bad ∧
        t.host = s.p.host ∧ t.step = s.p.step) ∧
    ((∃ e ∈ errs, e.fatal = true) →
      exec (.taskComplete iid k errs) s = .next { s with
        p := finish s.set (failRun s.set iid k stMem (meetErrors errs s.p)) })

/-- R278, R283: a SEND whose slot is free in its credit view leaves as one message of its data, takes the slot, and
completes; in RESYNC_WAIT nothing leaves. -/
def Obligations.SendsTransmit : Prop :=
  ∀ (s : State) (iid k : Nat) (i : Inst) (r : Run), instOf s.p iid = some i → runOf s.p iid k = some r →
    tType (i.desc k) = 0x30 → r.waits = true →
    let b := tBody (i.desc k)
    let st := stageAt s.p (le b 0 1)
    let up := le b 1 1 == 1
    let t := r.tensors.getD (le b 2 1) noTensor
    let slot := i.num % (viewOf st up).depth
    (st.resync = false → slot ∈ (viewOf st up).free → tensorReadError s.set s.p t = none →
      exec (.sendTransmit iid k) s = .next { s with p := finish s.set (endTask s.set iid k (sendStage (st.peer up)
        { kind := b2n up, depth := 0, dstStage := st.neighbour up, srcStage := st.job, gen := st.gen, step := s.p.step.num
          mb := i.num, epoch := s.p.reshard.epoch, length := messageBytes t } (messageData s.set s.p t)
        (modView (le b 0 1) up (fun v => { v with free := v.free.filter (· != slot) }) s.p))) }) ∧
    (st.resync = true → exec (.sendTransmit iid k) s = .next { s with p := finish s.set s.p })

/-- Checks of running work (R138 to R145, R189 to R191): a checked tile whose ledger agrees passes and is counted; the
shadow lane passes an equal value, and a different one is a shadow miss that ends the task and stops its writes after
the strip; the shadow index moves on when its interval has passed; a J1 core with FILLER OFF stops at its tile's end.
-/
def Obligations.RunningWorkIsChecked : Prop :=
  ∀ (s : State) (iid k : Nat) (i : Inst) (r : Run), instOf s.p iid = some i → runOf s.p iid k = some r →
    frozen s.p r = false → s.p.step.abortDue = false →
    (∀ (t : Tile) (rest : List Work) (faults : List TileFault), r.work = .tile t :: rest → t.checked = true →
      let u := faultTile t faults
      let te := tolerance r.tau u.kLen
      .fail ∉ rowVerdicts u te ++ colVerdicts u te →
      ∃ p : Pkg, exec (.tileLedgerCheck iid k faults) s = .next { s with p := p } ∧
        (∃ x, runOf p iid k = some x ∧ x.work = .tile { u with checked := false } :: rest) ∧
        (∃ j, instOf p iid = some j ∧ j.tiles = i.tiles + 1 ∧ j.fail = i.fail) ∧
        p.tasks.ledgerMiss = s.p.tasks.ledgerMiss ∧ p.mem = s.p.mem ∧ p.host = s.p.host) ∧
    (∀ strip pass stage lane, exec (.shadowCompare iid k strip stage lane lane pass) s = .next { s with
      p := finish s.set s.p }) ∧
    (∀ strip pass stage lane shadow, lane ≠ shadow → hasStrips i k r = true → r.work = [] → r.iid = iid →
      ∃ p : Pkg, exec (.shadowCompare iid k strip stage lane shadow pass) s = .next { s with p := p } ∧
        p.tasks.shadowMiss = min 0xFFFFFFFF (s.p.tasks.shadowMiss + 1) ∧ runOf p iid k = none) ∧
    (∀ c, (s.p.tasks.cores.getD c {}).shadowAt + 1024000000 ≤ s.p.ft.count →
      exec (.shadowIndexAdvance c) s = .next { s with p := { s.p with tasks := { s.p.tasks with
        cores := modAt s.p.tasks.cores c fun x => { x with shadow := (x.shadow + 1) % 64, shadowAt := s.p.ft.count } } } }) ∧
    (∀ c, r.unit = c → r.j1 = true → s.set.filler = false → s.p.step.commitHeld = false → bestFor s.set (pauseJ1 c s.p) c = none →
      exec (.j1TileEnd c) s = .next { s with p := { s.p with tasks := { s.p.tasks with
        runs := s.p.tasks.runs.map fun x => if x.j1 && x.unit == c then { x with paused := true } else x } } })

/-- R96, R107, R108: a PREFETCH of a waiting J0 core task whose other edges hold, and that no other task is ahead of for
the core that would take it, reads the first 1 MiB of the tensor it names, in element order, into that core, and changes
nothing else. That of tasks not yet ready the lower GRAPH_ID, instance and index goes first is DEDUCED (log entry 74). -/
def Obligations.PrefetchFillsAStore : Prop :=
  ∀ (s : State) (iid k c : Nat) (i : Inst) (tn : List Tensor) (h1) (h2) (t : Tensor),
    instOf s.p iid = some i → prefetchable s.p i k = true →
    placeCore s.set s.p (i.desc k) false = some c → nextOnCore s.set s.p i k c = true →
    readDescs s.set s.p i (i.desc k) [] = .go tn h1 →
    placeTensor s.p i (i.desc k) false (tn.getD (tPrefetch (i.desc k)) noTensor) = .ok t h2 → healthy s.p = true →
    ∃ fs : List Prefetched, exec (.prefetch iid k) s = .next { s with p := { s.p with tasks := { s.p.tasks with
        fetched := s.p.tasks.fetched.filter (fun f => !(f.iid == iid && f.task == k)) ++ fs } } } ∧
      (∀ f ∈ fs, f.iid = iid ∧ f.task = k ∧ f.core = c ∧
        f.bytes = (List.range f.bytes.length).map fun o => readByte s.set s.p (f.addr + o)) ∧
      (fs.flatMap fun f => (List.range f.bytes.length).map (f.addr + ·)) =
        ((rowRanges t).flatMap fun r => (List.range r.2).map (r.1 + ·)).take 0x100000

/-! ### Fixtures and stage links -/

/-- STAGE_CONFIG, FIXTURE_LOAD (R271, R272, R286 to R289). -/
def Obligations.StagesAndFixtureTables : Prop :=
  ∀ (s : State) (q : Nat) (w : Who) (b : List Byte) (p : Pkg),
    (Takes s (.queue q) 0x0501 w b p → stageFieldsBad p.links b = false → stageRoomBad p b = false → stepBusy p = false →
      stageUsed p (le b 0 1) = false → p.tasks.runs = [] → le b 1 1 = 0 → le b 0 1 < p.pipe.stages.length →
      ∃ t : Pkg, exec (.stageConfig q) s = .next { s with p := answer w stOk 0 0 t } ∧
        (stageAt t (le b 0 1)).on = true ∧ (stageAt t (le b 0 1)).cfg = b ∧ (stageAt t (le b 0 1)).gen = le b 30 2 ∧
        (stageAt t (le b 0 1)).cursor = le b 60 4 ∧ (stageAt t (le b 0 1)).msgs = [] ∧
        (stageAt t (le b 0 1)).resync = false ∧ (∀ n, n ≠ le b 0 1 → stageAt t n = stageAt p n) ∧ t.mem = p.mem ∧
        t.tasks = p.tasks ∧ t.step = p.step) ∧
    (Takes s (.queue q) 0x0501 w b p → stageFieldsBad p.links b = false → stepBusy p = false →
      stageUsed p (le b 0 1) = false → p.tasks.runs = [] → le b 1 1 = 1 →
      exec (.stageConfig q) s = .next { s with p := answer w stOk 0 0 { p with pipe := { p.pipe with
        stages := modAt p.pipe.stages (le b 0 1) fun _ => {} } } }) ∧
    (Takes s (.queue q) 0x0502 w b p → le b 0 1 = 0 → le b 1 1 = 0 → 1 ≤ le b 2 2 → le b 2 2 ≤ 4096 → zeros b 4 4 = true →
      zeros b 16 48 = true → addrOk (le b 8 8) 32 (32 * le b 2 2) = true →
      readError s.set p (le b 8 8) (32 * le b 2 2) = none →
      let es := chunksOf 32 (le b 2 2) (readMem s.set p (le b 8 8) (32 * le b 2 2))
      fixtureError p es = none → (∀ e ∈ es, stepPast p e = false) → le b 2 2 ≤ freeFixtures p →
      ∃ t : Pkg, exec (.fixtureLoad q) s = .next { s with p := answer w stOk 0 0 t } ∧
        t.pipe.fixtures.map (·.entry) = p.pipe.fixtures.map (·.entry) ++ es ∧
        (∀ f ∈ t.pipe.fixtures.drop p.pipe.fixtures.length, f.launched = false ∧ f.hung = false) ∧
        t = { p with pipe := { p.pipe with fixtures := t.pipe.fixtures, nextFix := t.pipe.nextFix } }) ∧
    (Takes s (.queue q) 0x0502 w b p → le b 0 1 = 1 → le b 1 1 = 0xFF → zeros b 2 6 = true → zeros b 8 56 = true →
      (p.step.state = .none ∨ p.step.state = .opened ∨ p.step.state = .committed ∨ p.step.state = .aborted) →
      ∃ (t : Pkg) (n : Nat), exec (.fixtureLoad q) s = .next { s with p := answer w stOk 0 n t } ∧
        (∀ f, f ∈ t.pipe.fixtures ↔ f ∈ p.pipe.fixtures ∧ f.launched = true) ∧
        n = p.pipe.fixtures.length - t.pipe.fixtures.length ∧ t = { p with pipe := t.pipe })

/-- R290 to R293: a fixture launches at the instant that the launch rule gives; its stage takes the new slip and
cursor, and its graph starts as an instance of the fixture's micro-batch. R294: a fixture of the open step whose watch
has ended is hung: bit 0 of the step is set and the log tells of it. -/
def Obligations.FixturesLaunch : Prop :=
  (∀ (s : State) (n : Nat) (f : Fixture) (g : Graph) (ms : List Held), nextFixture s.p n = some f →
    neededMsgs s.p f.entry = some ms → graphOf s.p (fGraph f.entry) = some g →
    let st := stageAt s.p n
    let a := (ms.map (·.at_)).foldl (fun (m : Option Nat) x => some (max (m.getD 0) x)) none
    let r := launchRule st f.entry a s.p.step.openAt
    st.on = true → st.resync = false → fixtureOpen s.p f.entry = true → r.l ≤ s.p.ft.count →
    liveNumber s.p g.id (fMb f.entry) = false → (∀ m ∈ ms, m.epoch = s.p.reshard.epoch) → roomFor s.p g.id = true →
    n < s.p.pipe.stages.length → s.p.step.abortDue = false → s.p.step.commitHeld = false → g.j1 = false →
    (∀ i ∈ s.p.tasks.insts, i.iid ≠ s.p.tasks.nextIid) →
    ∃ (t : Pkg) (i : Inst), exec (.fixtureLaunch n) s = .next { s with p := t } ∧ t.tasks.insts = s.p.tasks.insts ++ [i] ∧
      i.graph = some g.id ∧ i.num = fMb f.entry ∧ i.origin = .fixture n f.id ∧ i.step = some s.p.step.num ∧
      (stageAt t n).slip = r.slip ∧ (stageAt t n).prev = some r.l ∧
      (stageAt t n).cursor = (if bit (fFlags f.entry) 1 then st.cursor else (st.cursor + 1) % 2 ^ 32) ∧
      (∃ x ∈ t.pipe.fixtures, x.id = f.id ∧ x.launched = true ∧ x.l = r.l ∧ x.a = r.a ∧ x.slip = r.slip ∧
        bit x.flags 0 = r.late ∧ bit x.flags 2 = r.early ∧ bit x.flags 4 = r.held) ∧
      t.mem = s.p.mem ∧ t.step = s.p.step ∧ t.host = s.p.host) ∧
  (∀ (s : State) (n : Nat) (f : Fixture),
    s.p.pipe.fixtures.find? (fun f => !f.launched && !f.hung && fStage f.entry == n && fixtureOpen s.p f.entry &&
      decide (watchEnd s.p f.entry ≤ s.p.ft.count)) = some f →
    ∃ t : Pkg, exec (.fixtureHung n) s = .next { s with p := t } ∧ bit t.step.failMask 0 = true ∧
      t.step.num = s.p.step.num ∧ (∃ x ∈ t.pipe.fixtures, x.id = f.id ∧ x.hung = true) ∧
      SameIc { s.p with pipe := t.pipe, step := t.step, mgt := t.mgt } t)

/-- Messages of the stage links (R277 to R280): an ACT or GRAD of the stage's generation is written into its slot and
waits there; a CREDIT frees its slot in the view; a RESET of the stage's generation gives a view of its depth with
every slot free, and one of another generation is kept. -/
def Obligations.StageMessages : Prop :=
  ∀ (s : State) (h : StageHdr) (n : Nat), stageOfJob s.p h.dstStage = some n →
    let st := stageAt s.p n
    (∀ data : List Byte, h.kind ≤ 1 → data.length = h.length → st.resync = false → h.gen = st.gen →
      let grad := h.kind == 1
      let slot := h.mb % st.depth grad
      let a := st.base grad + slot * st.slotSize grad
      h.srcStage = st.neighbour (!grad) → h.srcStage ≠ 0xFFFF → h.length ≤ st.slotSize grad →
      (∀ m ∈ st.msgs, m.grad ≠ grad ∨ m.slot ≠ slot) → stepDone s.p h.step = false →
      writeError s.set s.p a data.length = none → s.p.step.abortDue = false → s.p.step.commitHeld = false →
      ∃ t : Pkg, exec (.stageMessageReceive h data) s = .next { s with p := t } ∧
        t.mem = (writeMem s.set a data s.p).mem ∧ t.host = s.p.host ∧ t.step = s.p.step ∧
        (stageAt t n).msgs = st.msgs ++
          [{ grad, slot, mb := h.mb, step := h.step, epoch := h.epoch, at_ := s.p.ft.count }] ∧
        (stageAt t n).discard = st.discard) ∧
    (∀ up, linkOf st h.srcStage = some up → h.kind = 2 → st.resync = false → h.gen = st.gen →
      h.mb < (viewOf st up).depth → h.mb ∉ (viewOf st up).free →
      exec (.stageCreditReceive h) s = .next { s with
        p := modView n up (fun v => { v with free := v.free ++ [h.mb] }) s.p }) ∧
    (∀ up, linkOf st h.srcStage = some up → h.kind = 3 →
      exec (.stageResetReceive h) s = .next { s with
        p := if h.gen = st.gen then
          modView n up (fun v => { v with depth := h.depth, free := List.range h.depth }) s.p
        else modView n up (fun v => { v with kept := some (h.gen, h.depth) }) s.p })

/-! ### Collectives, reshards and patterns -/

/-- The packets of collectives (R302, R303, R309, R335): a group is configured with the members that memory names, one
of them this package, or taken away, or resynchronised; COLL_START starts its one task; RETRACT of a collective that
has sent data in the open step fails the step by bit 4 and counts what it sends. The collective tasks (R306, R309,
R324): one that may be launched, whose tensors pass, starts on the collective engine with this member's contribution;
its group then goes on as far as it can. -/
def Obligations.CollectivesStart : Prop :=
  (∀ (s : State) (q : Nat) (w : Who) (b : List Byte) (p : Pkg),
    (Takes s (.queue q) 0x0601 w b p → groupFieldsBad b = false → stepBusy p = false →
      (∀ c ∈ p.colls.running, c.group ≠ le b 0 1) →
      (le b 1 1 = 0 → readError s.set p (le b 8 8) (4 * le b 2 2) = none → p.links.addr ≠ 0xFFFFFFFF →
        let members := (List.range (le b 2 2)).map fun k => readLe s.set p (le b 8 8 + 4 * k) 4
        members.Nodup → members[le b 4 2]? = some p.links.addr →
        exec (.collGroupConfig q) s = .next { s with p := answer w stOk 0 0 (modGroup (le b 0 1) (fun _ =>
          { on := true, dual := bit (le b 6 1) 0, n := le b 2 2, pos := le b 4 2, gen := le b 16 2, members
            tau := if le b 7 1 = 0 then 16 else le b 7 1 }) p) }) ∧
      (le b 1 1 = 1 →
        exec (.collGroupConfig q) s = .next { s with p := answer w stOk 0 0 (modGroup (le b 0 1) (fun c =>
          { c with on := false, resync := false, dual := false, pos := 0, n := 0, members := [], early := [] }) p) }) ∧
      (le b 1 1 = 2 → (groupOf p (le b 0 1)).on = true → (groupOf p (le b 0 1)).gen ≠ le b 16 2 →
        exec (.collGroupConfig q) s = .next { s with p := answer w stOk 0 0 (modGroup (le b 0 1) (fun c =>
          { c with gen := le b 16 2, resync := false, early := [] }) p) })) ∧
    (Takes s (.queue q) 0x0602 w b p → commandBad (fun t => 0x40 ≤ t && t ≤ 0x43) b = false → stepShut p = false →
      p.reshard.active = false →
      exec (.collStart q) s = .next { s with p := startCommand s.set w 0x0602 b [.whole] p }) ∧
    (∀ type gone, Takes s (.queue q) 0x0603 w b p → zeros b 1 3 = true → zeros b 16 48 = true → le b 0 1 ≤ 3 →
      le b 0 1 < p.colls.groups.length → sentColl p (le b 0 1) (le b 4 4) = some (type, gone) →
      le b 8 8 = p.step.num → p.step.state = .opened → p.step.abortDue = false →
      ∃ t : Pkg, exec (.retract q) s = .next { s with p := t } ∧ bit t.step.failMask 4 = true ∧
        t.step.state = .opened ∧ t.step.aborting = p.step.aborting ∧ t.mem = p.mem ∧ t.tasks.insts = p.tasks.insts ∧
        (gone = false → (groupOf t (le b 0 1)).sent = min 0xFFFF ((groupOf p (le b 0 1)).sent + 1)) ∧
        (gone = true → t.colls = p.colls ∧ t.links = p.links))) ∧
  (∀ (s : State) (iid k u ty : Nat) (i : Inst) (c : Instr) (tn : List Tensor) (holds : List (Nat × Nat)) (gone : Bool),
    (c = .reduceScatter iid k ∧ ty = 0x40) ∨ (c = .allGather iid k ∧ ty = 0x41) ∨ (c = .allReduce iid k ∧ ty = 0x42) ∨
      (c = .permute iid k ∧ ty = 0x43) →
    launchable s.set s.p iid k ty = some (i, some u) →
    let d := i.desc k
    let b := tBody d
    let g := groupOf s.p (cGroup b)
    collTensors s.set s.p i d = .ok (tn, holds, gone) → collTensorsBad g ty b tn gone = false → tType d = ty →
    g.on = true → g.resync = false → s.p.reshard.active = false → (cThin b = 0 ∨ i.inStep = true) →
    collReadError s.set s.p b tn gone = none →
    let c0 : Coll :=
      { group := cGroup b, rid := cRid b, type := ty, iid := i.iid, task := k, body := b, tn, retired := gone
        step := if i.inStep then i.step else none
        version := if holds ≠ [] ∨ gone = true then versionGiven s.p d else 0, e := (tn.getD (cDst b) noTensor).size }
    let x := contribute s.set s.p c0
    let run : Run :=
      { iid := i.iid, task := k, unit := u, j1 := i.j1, began := s.p.ft.count, tensors := tn, holds, waits := true }
    let p := startRun s.set i k run s.p
    let p := { p with colls := { p.colls with running := p.colls.running ++ [x.1] } }
    (cThin b = 2 → intervalOn x.1 = true) →
    exec c s = .next { s with p := finish s.set (runEngine s.set (collWrite s.set x.1 x.2 p).1) })

/-- Messages of collectives (R327, R328, R333, R334, R337): one whose digest fails is counted and fails an open step by
bit 2; one that passes goes, after the errors that its accesses met, to its group: there one that is not for the group's
generation is counted and discarded, one of a collective that runs reaches it, one of a collective that has not begun waits
for it in the early buffer, and one that finds no room waits with its credit withheld. A piece that came before changes
nothing (R328), and a permute takes no piece from any position but SRC_POS (R316). A RETRACT is counted, fails the open step
by bit 4, and marks a committed one as late. -/
def Obligations.CollectiveMessages : Prop :=
  (∀ (s : State) (h : CollHdr) (bs : List Byte) (d : Nat) (errs : List MemErr) (c : Instr),
    (c = .collDataReceive h bs d errs ∧ h.kind = 0) ∨ (c = .collPrepassReceive h bs d ∧ h.kind = 1 ∧ errs = []) ∨
      (c = .collVerdictReceive h d ∧ h.kind = 2 ∧ bs = [] ∧ errs = []) →
    (d ≠ collDigest h bs → h.group < s.p.colls.groups.length → s.p.step.state ≠ .sealing → s.p.step.abortDue = false →
      s.p.step.commitHeld = false →
      ∃ t : Pkg, exec c s = .next { s with p := t } ∧
        (groupOf t h.group).digest = min 0xFF ((groupOf s.p h.group).digest + 1) ∧
        (s.p.step.state = .opened → bit t.step.failMask 2 = true) ∧
        t.integ.detect = modAt s.p.integ.detect 3 (fun v => min 0xFFFFFFFF (v + 1)) ∧ t.mem = s.p.mem ∧
        t.colls.running = s.p.colls.running) ∧
    (d = collDigest h bs → exec c s = .next { s with
      p := runEngine s.set (routeMessage s.set h bs (pieceErrors s.set h errs s.p)) }) ∧
    ((∀ e ∈ errs, e.fatal = false) → pieceErrors s.set h errs s.p = meetErrors errs s.p) ∧
    (∀ x, (∃ e ∈ errs, e.fatal = true) → (meetErrors errs s.p).colls.running.find? (forColl h) = some x →
      pieceErrors s.set h errs s.p = endColl s.set x stMem none (meetErrors errs s.p))) ∧
  (∀ (set : Settings) (h : CollHdr) (bs : List Byte) (p : Pkg),
    let g := groupOf p h.group
    let stall := modGroup h.group (fun g => { g with stalled := g.stalled ++ [⟨h.rid, h, bs⟩] }) p
    let step := if bit h.flags 6 then none else some h.step
    (g.stalled ≠ [] → routeMessage set h bs p = stall) ∧
    (g.stalled = [] → (g.on = false ∨ g.resync = true ∨ h.gen ≠ g.gen) →
      routeMessage set h bs p = modGroup h.group (fun g => { g with discard := min 0xFFFF (g.discard + 1) }) p) ∧
    (g.stalled = [] → g.on = true → g.resync = false → h.gen = g.gen →
      ((bit h.flags 6 = false ∧ (h.step < p.step.num ∨
          (h.step = p.step.num ∧ (p.step.state = .committed ∨ p.step.state = .aborted)))) ∨ (h.rid, step) ∈ g.done →
        routeMessage set h bs p = modGroup h.group (fun g => { g with discard := min 0xFFFF (g.discard + 1) }) p) ∧
      ((bit h.flags 6 = true ∨ p.step.num < h.step ∨
          (p.step.num = h.step ∧ p.step.state ≠ .committed ∧ p.step.state ≠ .aborted)) → (h.rid, step) ∉ g.done →
        (∀ x, p.colls.running.find? (forColl h) = some x →
          (hasRoom set g x h bs = true → routeMessage set h bs p = takeMessage set h bs x p) ∧
          (hasRoom set g x h bs = false → routeMessage set h bs p = stall)) ∧
        (p.colls.running.find? (forColl h) = none →
          (earlyUsed g + 64 + bs.length ≤ 2 ^ 20 → routeMessage set h bs p =
            modGroup h.group (fun g => { g with early := g.early ++ [⟨h.rid, h, bs⟩] }) p) ∧
          (2 ^ 20 < earlyUsed g + 64 + bs.length → routeMessage set h bs p = stall))))) ∧
  (∀ (set : Settings) (h : CollHdr) (bs : List Byte) (x : Coll) (p : Pkg), h.epoch = p.reshard.epoch →
    h.version = x.version →
    (h.kind = 0 → (x.type = 0x43 → h.srcPos = cSrcPos x.body) →
      (bit h.flags 3 = true ∨ x.type = 0x43 → (⟨bit h.flags 5, h.chunk, h.piece⟩ : PieceKey) ∈ x.gathered) →
      (bit h.flags 3 = false → x.type ≠ 0x43 → (⟨bit h.flags 5, h.chunk, h.piece⟩ : PieceKey) ∈ x.reduced) →
      takeMessage set h bs x p = p) ∧
    (h.kind ≠ 2 → x.type = 0x43 → h.srcPos ≠ cSrcPos x.body → takeMessage set h bs x p = refusePiece x p)) ∧
  (∀ (s : State) (h : CollHdr), h.kind = 3 → (groupOf s.p h.group).on = true → (groupOf s.p h.group).resync = false →
    h.gen = (groupOf s.p h.group).gen → h.group < s.p.colls.groups.length → h.step = s.p.step.num →
    s.p.step.abortDue = false → s.p.step.commitHeld = false → (s.p.step.state = .opened ∨ s.p.step.state = .committed) →
    ∃ t : Pkg, exec (.retractReceive h (collDigest h [])) s = .next { s with p := t } ∧
      (groupOf t h.group).recv = min 0xFFFF ((groupOf s.p h.group).recv + 1) ∧ t.mem = s.p.mem ∧
      (s.p.step.state = .opened → bit t.step.failMask 4 = true) ∧
      (s.p.step.state = .committed → t.step.late = true ∧ t.step.failMask = s.p.step.failMask) ∧
      (((groupOf s.p h.group).pos + 1) % (groupOf s.p h.group).n = h.srcPos → t.links = s.p.links))

/-- RESHARD (R347, R350, R353, R354) and its messages (R351, R352): a ROUND that passes its checks, its own table or the
one that an ACTIVE reshard has copied, waits for the step boundary with the bytes that were checked; at one, with nothing
to send and nothing to receive, a FINAL round takes effect at once; CANCEL ends a reshard that is ACTIVE and the round that
runs, whose pieces that have not begun to leave never do, and is BAD_STATE without one; a piece of the running round is
written where it belongs and counted; an acknowledgement ends the wait for its piece; one that fails its digest is logged
and dropped. -/
def Obligations.Resharding : Prop :=
  (∀ (s : State) (q : Nat) (w : Who) (b : List Byte) (p : Pkg), Takes s (.queue q) 0x0701 w b p →
    reshardFieldsBad p b = false →
    (rOp b = 0 → readError s.set p (rMoveAt b) (64 * rMoves b) = none →
      (p.reshard.active = false → readError s.set p (rTable b) (64 * rCount b) = none) →
      let moves := chunksOf 64 (rMoves b) (readMem s.set p (rMoveAt b) (64 * rMoves b))
      let table := if p.reshard.active then [] else chunksOf 64 (rCount b) (readMem s.set p (rTable b) (64 * rCount b))
      roundBad s.set p (if p.reshard.active then p.reshard.table else table) moves = none → roundDiffers p b = false →
      (p.links.addr ≠ 0xFFFFFFFF ∨ ∀ m ∈ moves, movesOut p m = false) →
      (stepBusy p = true → exec (.reshard q) s = .next { s with p := { p with reshard := { p.reshard with
        held := p.reshard.held ++ [⟨w, b, moves, table⟩] } } }) ∧
      (stepBusy p = false → p.reshard.held = [] → p.reshard.round = none → p.colls.running = [] → p.upd.waits = [] →
        p.step.opens = [] → p.reshard.active = false → rMoves b = 0 → rIncoming b = 0 → rFinal b = true →
        ∃ t u : Pkg, exec (.reshard q) s = .next { s with p := t } ∧ t = answer w stOk 0 0 u ∧
          t.reshard.epoch = rEpoch b ∧ t.reshard.active = false ∧ t.reshard.round = none ∧ t.reshard.held = [] ∧
          t.upd.layers = table ∧ (∀ g ∈ t.colls.groups, g.on = true → g.resync = true) ∧
          (∀ st ∈ t.pipe.stages, st.on = true → st.resync = true) ∧ t.rings.version = p.rings.version ∧
          t.step.state = p.step.state)) ∧
    (rOp b = 1 → p.reshard.active = true → p.upd.waits = [] → p.step.opens = [] →
      let quiet := { stopRound stBadState p with reshard := { epoch := p.reshard.epoch } }
      exec (.reshard q) s = .next { s with
        p := answer w stOk 0 0 (p.reshard.held.foldl (fun q x => answer x.who stBadState 0 0 q) quiet) } ∧
      quiet.links.ports = p.links.ports.map (fun o => { o with own := withoutPieces true o.own }) ∧
      quiet.mem = p.mem ∧ quiet.upd = p.upd ∧
      (p.reshard.round = none → quiet.host = p.host) ∧
      (∀ r, p.reshard.round = some r → quiet.host = (answer r.who stBadState 0 0 p).host)) ∧
    (rOp b = 1 → p.reshard.active = false → exec (.reshard q) s = .next { s with p := answer w stBadState 0 0 p })) ∧
  (∀ (s : State) (h : ReshardHdr) (bs : List Byte) (d : Nat),
    (d ≠ crc64 (reshardHead h ++ bs) →
      exec (.reshardPieceReceive h bs d) s = .next { s with p := log 0x0701 stDigest 0xFFFF [] (detect 3 s.p) }) ∧
    (∀ r, s.p.reshard.round = some r → s.p.upd.waits = [] → s.p.step.opens = [] → s.p.reshard.active = true →
      h.newEpoch = rEpoch s.p.reshard.payload →
      (∀ a, d = crc64 (reshardHead h ++ bs) → h.kind = 0 → bs.length = h.length → r.received + h.length < r.incoming →
        piecePlace s.set s.p h = some a → writeError s.set s.p a h.length = none →
        ∃ t : Pkg, exec (.reshardPieceReceive h bs d) s = .next { s with p := t } ∧
          t.mem = (writeMem s.set a bs s.p).mem ∧
          t.reshard = { s.p.reshard with round := some { r with received := r.received + h.length } } ∧
          t.host = s.p.host ∧ t.step = s.p.step) ∧
      (d = crc64 (reshardHead h) → h.kind = 1 →
        let left := r.outstanding.filter fun x => x != (h.array, h.dstLayer, h.offset, h.srcPkg)
        left ≠ [] →
        exec (.reshardAckReceive h d) s = .next { s with p := { s.p with reshard := { s.p.reshard with
          round := some { r with outstanding := left } } } })))

/-- Pattern packs (R508, R511 to R514): a pack whose form is right and whose signature verifies goes into its slot,
one whose signature does not is AUTH, UNLOAD frees the slot, and PATTERN_RUN runs the patterns it selects on the
groves of its mask, in the checks' order; with every grove of the mask fenced nothing runs and each result says
GROVE_FENCED. That PATTERN_RUN needs a core in P3 is DEDUCED (log entry 50). -/
def Obligations.PatternPacks : Prop :=
  (∀ (s : State) (q : Nat) (w : Who) (b : List Byte) (p : Pkg), Takes s (.queue q) 0x0B01 w b p → loadBad b = false →
    (le b 0 1 = 0 → readError s.set p (le b 8 8) (le b 4 4) = none →
      let pack := readMem s.set p (le b 8 8) (le b 4 4)
      packHeadBad pack = false → s.set.stepping.toNat = le pack 5 1 →
      (∀ n, n < kCount pack → patternBad pack n = false) → packIn p (le b 1 1) = none → pack.length ≤ packFree p →
      exec (.patternLoad q) s = .next { s with
        p := if packSigned p.flash pack then answer w stOk 0 0 { p with integ := { p.integ with
            packs := p.integ.packs ++ [⟨le b 1 1, pack, le pack 4 1⟩] } }
          else answer w stAuth 0 0 (log 0x0C02 stAuth 0xFFFF [] p) }) ∧
    (le b 0 1 = 1 → packIn p (le b 1 1) ≠ none →
      exec (.patternLoad q) s = .next { s with p := answer w stOk 0 0 { p with integ := { p.integ with
        packs := p.integ.packs.filter fun k => k.slot != le b 1 1 } } })) ∧
  (∀ (s : State) (q : Nat) (w : Who) (b : List Byte) (p : Pkg) (pack : List Byte) (pats : List Nat),
    Takes s (.queue q) 0x0B02 w b p → runBad p b = false → packBytes p (le b 0 1) = some pack →
    patternsOf b pack = some pats → (∀ n ∈ pats, patNeed (patternOf pack n) ≤ rSize b / 16) →
    (s.set.envAct = 3 → exec (.patternRun q) s = .next { s with p := answer w stBadState 0 0 p }) ∧
    (s.set.envAct ≠ 3 → (le b 1 1 = 1 → s.set.filler = true) → (le b 1 1 ≠ 1 → stepBusy p = false) →
      exec (.patternRun q) s = .next { s with p := finish s.set (runPatterns w b pack pats s.set p) } ∧
      ((∀ g, g < 16 → bit (rMask b) g = true → bit p.integ.fenced g = true) → writeError s.set p (rResults b) 512 = none →
        exec (.patternRun q) s = .next { s with p := finish s.set (answer w stOk 0xFFFF 0 (writeMem s.set (rResults b)
          ((List.range 16).flatMap fun g => resultEntry g pack (32 * pats.length) none p) p)) }))) ∧
  (∀ (g runs : Nat) (pack : List Byte) (fails : Option (List (Nat × Nat))) (p : Pkg), g < 16 →
    (resultEntry g pack runs fails p).length = 32 ∧ le (resultEntry g pack runs fails p) 0 1 = g ∧
    le (resultEntry g pack runs fails p) 1 1 =
      (match fails with | none => 0x50 | some [] => 0 | some (_ :: _) => 0x22))

/-! ### Firmware, identity and records -/

/-- Firmware, identity, keys, the log and the crash record (R571, R574, R577 to R584, R534): a staging buffer is
opened, filled and dropped; an image that is whole is judged by its signature, stepping and security version and then
written or run; a report, a certificate, log entries and the crash record go to whom they are for; a first key is
enrolled over the sideband and only there. -/
def Obligations.FirmwareAndRecords : Prop :=
  ∀ (s : State) (r : Route) (w : Who) (b : List Byte) (p : Pkg),
    (Takes s r 0x0C01 w b p → p.mgt.stage.writing = none → 64 ≤ b.length → zeros b 1 3 = true → zeros b 12 4 = true →
      zeros b 24 40 = true → (∀ via, w = .mctp via → le b 16 8 = 0) →
      let stage (st : Staging) : Pkg := { p with mgt := { p.mgt with stage := st } }
      (le b 0 1 = 0 → 4691 ≤ le b 8 4 → le b 8 4 ≤ 25165824 →
        exec (.fwStage r) s = .next { s with p := answer w stOk 0 0 (stage { size := some (le b 8 4) }) }) ∧
      (le b 0 1 = 2 → exec (.fwStage r) s = .next { s with p := answer w stOk 0 0 (stage {}) }) ∧
      (∀ size, le b 0 1 = 1 → p.mgt.stage.size = some size → le b 4 4 + le b 8 4 ≤ size →
        (∀ q num, w = .queue q num → le b 16 8 < 2 ^ 48 → inStack (le b 16 8) (le b 8 4) = true →
          readError s.set p (le b 16 8) (le b 8 4) = none →
          let pieces := (le b 4 4, readMem s.set p (le b 16 8) (le b 8 4)) :: p.mgt.stage.pieces
          exec (.fwStage r) s = .next { s with
            p := answer w stOk 0 (stagedBytes pieces) (stage { p.mgt.stage with pieces }) }) ∧
        (∀ via, w = .mctp via → b.length = 64 + le b 8 4 → le b 8 4 ≤ 8192 →
          let pieces := (le b 4 4, b.drop 64) :: p.mgt.stage.pieces
          exec (.fwStage r) s = .next { s with
            p := answer w stOk 0 (stagedBytes pieces) (stage { p.mgt.stage with pieces }) }))) ∧
    (Takes s r 0x0C02 w b p → 64 ≤ b.length → zeros b 1 63 = true → le b 0 1 < 2 → p.mgt.stage.writing = none →
      p.mgt.stage.size = some (stagedBytes p.mgt.stage.pieces) →
      exec (.fwInstall r) s = .next { s with
        p := match verifyImage (stagedImage p.mgt.stage) with
          | none => answer w stAuth 0 0 (log 0x0C02 stAuth 0xFFFF [] p)
          | some i =>
            if i.stepping ≠ s.set.stepping then answer w stBadParam 0 0 p
            else if i.svn < p.flash.fusedSvn then answer w stRollback 0 0 p
            else if le b 0 1 = 0 then { p with
              mgt := { p.mgt with stage := { p.mgt.stage with writing := some w } }
              flash := { p.flash with image := none } }
            else if p.boot.recovery then answer w stOk 0 0 { p with
              mgt := { p.mgt with image := i }, boot := { p.boot with recovery := false, phase := 3 } }
            else answer w stBadState 0 0 p }) ∧
    (∀ v, s.p.mgt.stage.writing = some v → s.p.boot.recovery = false →
      exec .fwFlashWriteDone s = .next { s with
        p := match verifyImage (stagedImage s.p.mgt.stage) with
          | none => s.p
          | some i => answer v stOk 0 0 (log 0x0C01 0 0xFFFF [] { s.p with
              mgt := { s.p.mgt with stage := { s.p.mgt.stage with writing := none } }
              flash := { s.p.flash with image := some i } }) }) ∧
    (Takes s r 0x0C03 w b p → 64 ≤ b.length → zeros b 1 7 = true → zeros b 48 16 = true → destBad w (le b 40 8) = false →
      (le b 0 1 = 0 → exec (.attest r) s = .next { s with
        p := answerBlock w (le b 40 8) 5011 (report s.set ((b.drop 8).take 32) p) p }) ∧
      (le b 0 1 = 1 → exec (.attest r) s = .next { s with
        p := answerBlock w (le b 40 8) 7235 (certificate s.set) p })) ∧
    (∀ via body, mctpOpen s.p = true → zeros body 0 2 = true → via ≠ .pcie →
      keyEnrolStatus s.p.flash (body.drop 2) = stOk → le (body.drop 2) 0 1 = 0 →
      exec (.keyEnrol via body) s = .next { s with p := answer (.mctp via) stOk 0 0 (log 0x0C03 0 0xFFFF [] { s.p with
        flash := { s.p.flash with
          keys := s.p.flash.keys.set (le (body.drop 2) 1 1 - 1) (some ((body.drop 10).take 2592))
          enrol := s.p.flash.enrol + 1 } }) }) ∧
    (∀ via body, mctpOpen s.p = true → via = .pcie →
      exec (.keyEnrol via body) s = .next { s with p := answer (.mctp via) stBadOpcode 0 0 s.p }) ∧
    (∀ q num, Takes s r 0x0C04 w b p → w = .queue q num → 64 ≤ b.length → 1 ≤ le b 8 4 → le b 8 4 ≤ 8192 →
      zeros b 12 4 = true → zeros b 24 40 = true → le b 16 8 % 64 = 0 →
      let es := (p.mgt.log.filter fun e => le b 0 8 ≤ e.1.seq).take (le b 8 4)
      exec (.logRead r) s = .next { s with
        p := answer w stOk (b2n (logLost p (le b 0 8))) es.length
          (hostWrite (le b 16 8) (es.flatMap fun e => e.1.bytes ++ e.2) p) }) ∧
    (Takes s r 0x0D02 w b p → 64 ≤ b.length → zeros b 1 7 = true → zeros b 24 40 = true →
      (le b 0 1 = 0 → le b 8 4 % 64 = 0 → le b 12 4 % 64 = 0 → 1 ≤ le b 12 4 → le b 12 4 ≤ 8192 →
        le b 8 4 + le b 12 4 ≤ 8388608 → destBad w (le b 16 8) = false → p.integ.crash.state ≠ 1 →
        exec (.dumpRead r) s = .next { s with
          p := answerBlock w (le b 16 8) (le b 12 4) (crashBytes p.integ.crash (le b 8 4) (le b 12 4)) p }) ∧
      (le b 0 1 = 1 → zeros b 8 16 = true → p.integ.crash.state = 2 →
        exec (.dumpRead r) s = .next { s with p := answer w stOk 0 0 (raise 384 { p with integ := { p.integ with
          crash := { lost := p.integ.crash.lost, released := p.integ.crash.released + 1 } } }) }))

/-! ### Peer ports and dies -/

/-- Peer ports (R390 to R396, R398, R402, R412): training goes phase by phase, a HELLO shows the neighbour's address, port
and plan and brings the port UP or leaves it DOWN with its reason, a retrain that fails ends the port; the next frame of a
port leaves with its LSEQ, ACK and credits and takes a credit, and with none ready an IDLE frame leaves; a whole message for
this package is handed on; a good frame that comes before its turn is held; a frame that fails is discarded and a NAK names
the first missing one, also while frames are being discarded. -/
def Obligations.PeerPorts : Prop :=
  ∀ (s : State) (i : Nat), i < s.p.links.ports.length →
    let o := portOf s.p i
    let lanes := laneCount s.set.lanes
    ((o.state = .training ∨ o.state = .retrain) → s.p.ft.refclk = true → ∀ rev deskew,
      (o.phase = .detect → exec (.portTrainingPhaseEnd i rev deskew) s = .next { s with
        p := modPort i (fun x => { x with phase := .equalise }) s.p }) ∧
      (o.phase = .equalise → exec (.portTrainingPhaseEnd i rev deskew) s = .next { s with
        p := modPort i (fun x => { x with phase := .lock }) s.p }) ∧
      (o.phase = .lock → exec (.portTrainingPhaseEnd i rev deskew) s = .next { s with
        p := sendHello s.set i (modPort i (fun x => { x with phase := .agree, laneRev := rev, deskew }) s.p) })) ∧
    (∀ h : Hello, o.state = .training → o.phase = .agree → s.p.ft.refclk = true →
      (agreeReason s.set.lanes i h = none → ∃ t : Pkg, exec (.helloReceive i h) s = .next { s with p := t } ∧
        (portOf t i).state = .up ∧ (portOf t i).reason = 0 ∧ (portOf t i).nbr = h.addr ∧ (portOf t i).nbrPort = h.port ∧
        (portOf t i).nbrPlan = h.plan ∧ (portOf t i).credits = List.replicate 16 (bufferFrames s.set.lanes) ∧
        (∀ j, j ≠ i → portOf t j = portOf s.p j) ∧ SameIc { s.p with links := t.links, ft := t.ft } t) ∧
      (∀ reason, agreeReason s.set.lanes i h = some reason →
        ∃ t : Pkg, exec (.helloReceive i h) s = .next { s with p := t } ∧ (portOf t i).state = .down ∧
          (portOf t i).reason = reason ∧ (portOf t i).nbr = h.addr ∧ (portOf t i).nbrPort = h.port ∧
          (portOf t i).nbrPlan = h.plan ∧ (∀ j, j ≠ i → portOf t j = portOf s.p j) ∧
          SameIc { s.p with links := t.links } t)) ∧
    (∀ h : Hello, o.state ≠ .up → s.p.ft.refclk = false → exec (.helloReceive i h) s = .next s) ∧
    (∀ h : Hello, o.state = .up →
      exec (.helloReceive i h) s = .next { s with p := modPort i (fun x => { x with nbr := h.addr }) s.p }) ∧
    (o.state = .training → ∃ t : Pkg, exec (.portTrainingTimeout i) s = .next { s with p := t } ∧
      (portOf t i).state = .down ∧ (portOf t i).reason = phaseReason s.p o.phase ∧
      (∀ j, j ≠ i → portOf t j = portOf s.p j) ∧ SameIc { s.p with links := t.links } t) ∧
    (o.state = .up → ∃ t : Pkg, exec (.portRetrain i) s = .next { s with p := t } ∧ (portOf t i).state = .retrain ∧
      (portOf t i).phase = .equalise ∧ (portOf t i).retrains = min 0xFF (o.retrains + 1) ∧
      (portOf t i).sent = o.sent ∧ (∀ j, j ≠ i → portOf t j = portOf s.p j) ∧ SameIc { s.p with links := t.links } t) ∧
    (o.state = .retrain → s.p.step.abortDue = false → s.p.step.commitHeld = false → s.p.step.state ≠ .sealing →
      ∃ t : Pkg, exec (.portDown i) s = .next { s with p := t } ∧ (portOf t i).state = .down ∧
        (portOf t i).reason = (if s.p.ft.refclk then 8 else 2) ∧ (portOf t i).own = [] ∧ (portOf t i).sent = [] ∧
        (portOf t i).pass = [] ∧ (s.p.step.state = .opened → bit t.step.failMask 0 = true) ∧
        (s.p.step.state ≠ .opened → t.step = s.p.step) ∧ t.mem = s.p.mem ∧ t.tasks.insts = s.p.tasks.insts) ∧
    (∀ vc f, o.state = .up → o.sent.length < 512 → nextVc o = some vc → vcReady o vc = some (.inl f) →
      ∃ t : Pkg, exec (.frameForward i) s = .next { s with p := t } ∧
        t.out = { s.p.out with frames := s.p.out.frames ++ [(i, o.lane % lanes,
          frameBytes 1 o.txSeq (ackOf o) 0xFFFFFFFF (if f.vc = 1 then stamp s.p else 0) o.owed f)] } ∧
        (portOf t i).txSeq = (o.txSeq + 1) % 2 ^ 32 ∧ (portOf t i).sent = o.sent ++ [(o.txSeq, f, o.owed)] ∧
        (portOf t i).own = removeOne f o.own ∧ (portOf t i).lane = (o.lane + 1) % lanes ∧
        (portOf t i).credits = modAt o.credits (slotOf vc f.cls) (fun c => c - 1) ∧
        (∀ j, j ≠ i → portOf t j = portOf s.p j) ∧ (vc ≠ 1 → t.ft = s.p.ft) ∧
        t = { s.p with links := t.links, out := t.out, ft := t.ft }) ∧
    (o.state = .up → nextVc o = none ∨ 512 ≤ o.sent.length →
      exec (.frameForward i) s = .next { s with
        p := modPort i (fun q => { q with owed := List.replicate 16 0, lane := (o.lane + 1) % lanes })
          { s.p with out := { s.p.out with frames := s.p.out.frames ++
            [(i, o.lane % lanes, frameBytes 0 0 (ackOf o) 0xFFFFFFFF 0 o.owed idleFrame)] } } }) ∧
    (∀ (bs : List Byte) (lane n : Nat), o.state = .up → bs.length = 512 → le bs 504 8 = crc64 (bs.take 504) → le bs 0 1 = 1 →
      o.frontReplays < 16 →
      (le bs 12 4 = o.rxSeq → le bs 476 4 = 0xFFFFFFFF → o.hold = [] →
        let f := parseFrame bs
        f.vc ≠ 1 → s.p.links.addr ≠ 0xFFFFFFFF → f.dst = s.p.links.addr → f.som = true → f.eom = true →
        ∃ t : Pkg, exec (.hppFrameReceive i bs true n lane) s = .next { s with p := t } ∧
          t.out = { s.p.out with loop := s.p.out.loop ++ [(f.vc, f.payload)] } ∧
          (portOf t i).rxSeq = (o.rxSeq + 1) % 2 ^ 32 ∧ (portOf t i).fecCorr = min 0xFFFFFFFF (o.fecCorr + n) ∧
          (∀ j, j ≠ i → portOf t j = portOf s.p j) ∧ t = { s.p with links := t.links, out := t.out }) ∧
      (le bs 12 4 ≠ o.rxSeq → o.skipping = false → (le bs 12 4 + 2 ^ 32 - o.rxSeq) % 2 ^ 32 < 512 →
        (∀ x ∈ o.hold, x.1 ≠ le bs 12 4) →
        exec (.hppFrameReceive i bs true n lane) s = .next { s with p := modPort i (fun q => { q with
          fecCorr := min 0xFFFFFFFF (o.fecCorr + n)
          hold := o.hold ++ [(le bs 12 4, bs, receiveStamp s.p i lane)] }) s.p })) ∧
    (∀ (bs : List Byte) (fecOk : Bool) (lane n : Nat), o.state = .up →
      (fecOk = false ∨ bs.length ≠ 512 ∨ le bs 504 8 ≠ crc64 (bs.take 504)) →
      ∃ t : Pkg, exec (.hppFrameReceive i bs fecOk n lane) s = .next { s with p := t } ∧
        t.out = { s.p.out with frames := s.p.out.frames ++
          [(i, o.lane % lanes, frameBytes 0 0 (ackOf o) o.rxSeq 0 o.owed idleFrame)] } ∧
        (portOf t i).skipping = true ∧ (portOf t i).rxSeq = o.rxSeq ∧
        (portOf t i).fecUncorr = (if fecOk then min 0xFF o.fecUncorr else min 0xFF (o.fecUncorr + 1)) ∧
        t.integ = { s.p.integ with detect := modAt s.p.integ.detect 3 fun v => min 0xFFFFFFFF (v + 1) } ∧
        t = { s.p with links := t.links, out := t.out, integ := t.integ })

/-- Die interfaces (R422 to R425, R430, R431): a flit in order that asks for nothing gives its credits and releases what its
ACK names, a NAK has the flits after ACK sent again, and a flit that fails its CRC is answered by a NAK; a request that its
group's role carries reads or writes memory, ends a service or goes on to another die, and is completed; a group retrains,
and fails its die when that fails; a die whose clock stops is fenced and given rung 3, and a return of its clock in that rung
sends the capability word again and ends with the die UP, or fenced with a reason. -/
def Obligations.DieInterfaces : Prop :=
  ∀ (s : State) (d : Nat), d < 4 → s.p.dies.length = 4 →
    let x := s.p.dies.getD d {}
    (x.state = .up →
      (∀ (g : Nat) (h : FlitHdr) (data : List Byte) (far : Bool) (errs : List MemErr), g < 128 →
        let y := groupAt x g
        y.retraining = false →
        (far = true ∨ crosses d g h = false → errs = [] → y.queue = [] →
          (h.type = 4 ∨ h.type = 5 → h.seq = y.rxSeq → h.nak = false → y.frontReplays < 8 →
            ∃ t : Pkg, exec (.wdiFlitReceive d g h data (flitCrc h data) far errs) s = .next { s with p := t } ∧
              (laneGroup t d g).rxSeq = (y.rxSeq + 1) % 1024 ∧ (laneGroup t d g).skipping = false ∧
              (laneGroup t d g).credits = modAt y.credits h.cflow (fun c => c + h.credit) ∧
              (laneGroup t d g).sent = afterAck h.ack y.sent ∧ SameIc s.p t) ∧
          (h.type = 0 → h.nak = true → y.skipping = false → y.frontReplays < 7 → y.owed = [0, 0, 0] →
            afterAck h.ack y.sent ≠ [] →
            let again := (afterAck h.ack y.sent).map fun e =>
              let k := { e.1 with ack := (y.rxSeq + 1023) % 1024, cflow := 0, credit := 0 }
              (⟨d, g, k, padTo 128 e.2, flitCrc k e.2⟩ : WdiOut)
            ∃ t : Pkg, exec (.wdiFlitReceive d g h data (flitCrc h data) far errs) s = .next { s with p := t } ∧
              t.out = { s.p.out with wdi := s.p.out.wdi ++ again } ∧
              (t.dies.getD d {}).replay = min 0xFFFF (x.replay + again.length) ∧
              t = { s.p with dies := t.dies, out := t.out })) ∧
        (∀ crc, (crc ≠ flitCrc h data ∨ (far = false ∧ crosses d g h = true)) →
          ∃ (t : Pkg) (f : WdiOut), exec (.wdiFlitReceive d g h data crc far errs) s = .next { s with p := t } ∧
            t.out = { s.p.out with wdi := s.p.out.wdi ++ [f] } ∧ f.die = d ∧ f.group = g ∧ f.h.type = 0 ∧
            f.h.nak = true ∧ f.h.ack = (y.rxSeq + 1023) % 1024 ∧ f.data = padTo 128 [] ∧ f.crc = flitCrc f.h [] ∧
            (t.dies.getD d {}).crc = min 0xFFFF (x.crc + 1) ∧ (laneGroup t d g).skipping = true ∧
            (laneGroup t d g).rxSeq = y.rxSeq ∧
            t.integ = { s.p.integ with detect := modAt s.p.integ.detect 4 fun v => min 0xFFFFFFFF (v + 1) } ∧
            t = { s.p with dies := t.dies, out := t.out, integ := t.integ })) ∧
      (∀ (g dest : Nat) (r : WdiReq) (data : List Byte),
        (reqBad s.set d g dest r data = true → exec (.wdiRequest d r data g dest []) s = .next { s with
          p := respond d g r.tag stBadParam [] s.p }) ∧
        (reqBad s.set d g dest r data = false →
          (r.op = 0 → readError s.set s.p r.addr (64 * r.len) = none →
            exec (.wdiRequest d r data g dest []) s = .next { s with
              p := respond d g r.tag stOk (readMem s.set s.p r.addr (64 * r.len)) s.p }) ∧
          (r.op = 1 → writeError s.set s.p r.addr (64 * r.len) = none →
            exec (.wdiRequest d r data g dest []) s = .next { s with
              p := respond d g r.tag stOk [] (writeMem s.set r.addr (data.take (64 * r.len)) s.p) }) ∧
          (4 ≤ r.op → (roleOf g ≠ 1 ∨ 4 ≤ dest) →
            (endsService r = false → exec (.wdiRequest d r data g dest []) s = .next { s with
              p := respond d g r.tag stOk [] s.p }) ∧
            (∀ k, endsService r = true → k < 4 → r.unit = 0x0200 + 4 * d + k →
              exec (.wdiRequest d r data g dest []) s = .next { s with
                p := respond d g r.tag stOk [] (endService (4 * d + k) s.p) })) ∧
          (4 ≤ r.op → roleOf g = 1 → dest < 4 →
            exec (.wdiRequest d r data g dest []) s = .next { s with
              p := if (s.p.dies.getD dest {}).state = .up then sendRequest dest (some (d, g, r.tag)) r s.p
                else respond d g r.tag stDieFenced [] s.p }))) ∧
      (∀ g, g < 128 → exec (.wdiGroupRetrain d g) s = .next { s with
        p := modLaneGroup d g (fun y => { y with retraining := true }) s.p }) ∧
      (∀ g, (groupAt x g).retraining = true →
        exec (.wdiGroupRetrainEnd d g true) s = .next { s with
          p := drainFlits d g (replayFlits d g
            (modLaneGroup d g (fun y => { y with retraining := false, frontReplays := 0 }) s.p)) }) ∧
      (s.p.integ.episode = none → ∀ (c : Instr) (reason cause g : Nat),
        (c = .wdiGroupRetrainEnd d g false ∧ (groupAt x g).retraining = true ∧ reason = 2 ∧ cause = 4) ∨
          (c = .dieClockLoss d ∧ reason = 3 ∧ cause = 6 ∧ g = x.failedGroup) →
        ∃ (t : Pkg) (e : Episode), exec c s = .next { s with p := t } ∧ (t.dies.getD d {}).state = .fenced ∧
          (t.dies.getD d {}).reason = reason ∧ (t.dies.getD d {}).failedGroup = g ∧ (t.dies.getD d {}).waiting = [] ∧
          t.integ.episode = some e ∧
          e.rung = 3 ∧ e.units = [0x0400 + d] ∧ e.cause = cause ∧ e.collecting = true ∧ e.only3 = true ∧
          (stepLive s.p = true → t.step.aborting = true ∧ bit t.step.failMask 7 = true))) ∧
    (∀ (e : Episode) (r : DieReport), x.state = .fenced → s.p.integ.episode = some e → e.collecting = false →
      0x0400 + d ∈ e.units →
      let flits (t : Pkg) := t.out.wdi.drop s.p.out.wdi.length
      (returnReason x.cap r = none → s.p.step.abortDue = false → s.p.step.commitHeld = false →
        ∃ t : Pkg, exec (.dieClockReturn d r) s = .next { s with p := t } ∧ (t.dies.getD d {}).state = .up ∧
          (t.dies.getD d {}).cap = x.cap ∧ (t.dies.getD d {}).failedGroup = 0xFF ∧ bit t.pwr.tripFence d = false ∧
          bit t.pwr.hostOnly d = false ∧
          t.integ.episode = some { e with resets := e.resets.filter (· != d) } ∧ t.mem = s.p.mem ∧ t.step = s.p.step ∧
          (∃ f ∈ flits t, f.die = d ∧ f.group = 124 ∧ f.h.type = 4 ∧ f.data = padTo 128 (baseCap s.set)) ∧
          (∃ f ∈ flits t, f.die = d ∧ f.group = 124 ∧ f.h.type = 5)) ∧
      (∀ reason, returnReason x.cap r = some reason →
        ∃ t : Pkg, exec (.dieClockReturn d r) s = .next { s with p := t } ∧ (t.dies.getD d {}).state = .fenced ∧
          (t.dies.getD d {}).reason = reason ∧ (t.dies.getD d {}).cap = x.cap ∧
          (reason = 2 → (t.dies.getD d {}).failedGroup = r.failedGroup.getD 0xFF) ∧
          (∃ f ∈ flits t, f.die = d ∧ f.group = 124 ∧ f.h.type = 4 ∧ f.data = padTo 128 (baseCap s.set)) ∧
          t.mem = s.p.mem ∧ t.step = s.p.step ∧ t.tasks = s.p.tasks ∧ t.pwr = s.p.pwr))

/-! ### The recovery ladder -/

/-- RESET_UNIT, the watchdogs, the rungs and the crash record (R516, R519, R521, R522, R528 to R530, R535, R576): a request
or a hung unit begins an episode on its rung; items are collected, then the rung resets its units; a rung that passes
its probe ends the episode, one that fails calls for the next, and with rung 4 gone the package fails. -/
def Obligations.RecoveryLadder : Prop :=
  (∀ (s : State) (r : Route) (w : Who) (b : List Byte) (p : Pkg), Takes s r 0x0D01 w b p → 64 ≤ b.length →
    zeros b 1 1 = true → zeros b 4 60 = true → unitOk (le b 0 1) (le b 2 2) = true →
    (le b 0 1 = 5 → exec (.resetUnit r) s = .next { s with
      p := answer w stOk 0 0 { p with boot := { p.boot with resetDue := true } } }) ∧
    (∀ via, w = .mctp via → le b 0 1 ≠ 5 → exec (.resetUnit r) s = .next { s with p := answer w stBadParam 0 0 p }) ∧
    (p.boot.failed = false → (∀ via, w ≠ .mctp via) →
      (le b 0 1 = 8 → exec (.resetUnit r) s = .next { s with p := answer w stOk 0 0 (clearFaults (le b 2 2) p) }) ∧
      (le b 0 1 = 6 → bit p.integ.fenced (le b 2 2) = false → p.step.abortDue = false → p.step.state ≠ .sealing →
        ∃ t : Pkg, exec (.resetUnit r) s = .next { s with p := t } ∧ bit t.integ.fenced (le b 2 2) = true ∧
          bit t.integ.byHost (le b 2 2) = true ∧ (∀ g, g ≠ le b 2 2 → bit t.integ.fenced g = bit p.integ.fenced g)) ∧
      (1 ≤ le b 0 1 → le b 0 1 ≤ 4 → p.integ.episode = none → p.step.abortDue = false → p.step.commitHeld = false →
        ∃ (t : Pkg) (e : Episode), exec (.resetUnit r) s = .next { s with p := t } ∧ t.integ.episode = some e ∧
          e.rung = le b 0 1 ∧ e.units = rungUnits (le b 0 1) (levelUnit (le b 0 1) (le b 2 2)) ∧ e.collecting = true ∧
          e.asked = [(w, le b 0 1, le b 2 2)] ∧ t.integ.episodes = p.integ.episodes + 1 ∧
          (p.integ.crash.state = 0 → t.integ.crash.state = 1 ∧ t.integ.crash.cause = 0xFE ∧ e.recorded = true) ∧
          t.mem = p.mem ∧ t.tasks.insts = p.tasks.insts ∧ t.host = p.host ∧ t.step = p.step) ∧
      (le b 0 1 = 7 → bit p.integ.fenced (le b 2 2) = true → (p.dies.getD (le b 2 2 / 4) {}).state ≠ .fenced →
        p.integ.episode = none → p.step.abortDue = false → p.step.commitHeld = false →
        ∃ (t : Pkg) (e : Episode), exec (.resetUnit r) s = .next { s with p := t } ∧ t.integ.episode = some e ∧
          e.rung = 2 ∧ e.units = [0x0200 + le b 2 2] ∧ e.release = [le b 2 2] ∧ e.collecting = true ∧
          e.asked = [(w, 7, le b 2 2)] ∧ t.mem = p.mem ∧ t.host = p.host ∧ t.step = p.step))) ∧
  (∀ (s : State) (u ctx : Nat), holdsWork s.p u ctx = true → s.p.boot.failed = false → s.p.integ.episode = none →
    s.p.integ.recovered = [] → s.p.step.abortDue = false → s.p.step.state ≠ .sealing →
    let rung := if 0x0200 ≤ u ∧ u < 0x0210 then 2 else 1
    ∃ (t : Pkg) (e : Episode), exec (.watchdogExpiry u ctx) s = .next { s with p := t } ∧ t.integ.episode = some e ∧
      e.rung = rung ∧ e.units = rungUnits rung u ∧ e.hung = [u] ∧ e.cause = 5 ∧ e.collecting = true ∧
      t.integ.detect = modAt s.p.integ.detect 5 (fun v => min 0xFFFFFFFF (v + 1)) ∧
      (s.p.step.state = .opened → stepWork s.p u ctx = true → bit t.step.failMask 0 = true) ∧ t.mem = s.p.mem) ∧
  (∀ (s : State) (e : Episode), s.p.integ.episode = some e →
    (∀ kind index unit, e.collecting = true → e.recorded = true →
      (itemsDue s.p e).find? (fun x => x.1 == kind && x.2.2 == index) = some (kind, unit, index) →
      alignUp (sectionUsed s.p.integ.crash.items (sectionOf kind unit)) 64 + 32 ≤ sectionRoom (sectionOf kind unit) →
      exec (.crashItemTimeout kind index) s = .next { s with p := { s.p with integ := { s.p.integ with
        crash := { s.p.integ.crash with items := s.p.integ.crash.items ++
          [{ sect := sectionOf kind unit, kind, unit, status := 1, index, tRead := now s.p, data := [] }] } } } }) ∧
    (e.collecting = true → exec .crashRecordCollected s = .next { s with
      p := runEngine s.set (finish s.set (beginReset s.set e (collectRest e s.p))) }) ∧
    (e.collecting = true → e.recorded = false → 1 ≤ e.rung → e.rung ≤ 2 → s.p.integ.rungs.length = 4 →
      s.p.tasks.runs = [] → s.p.colls.running = [] → s.p.reshard.round = none → s.p.reshard.held = [] →
      s.p.upd.waits = [] → s.p.step.opens = [] → s.p.step.abortDue = false →
      ∃ t : Pkg, exec .crashRecordCollected s = .next { s with p := t } ∧
        t.integ.episode = some { e with collecting := false, begun := now s.p } ∧
        t.integ.rungs = modAt s.p.integ.rungs (e.rung - 1) (fun n => min 0xFF (n + 1)) ∧ t.mem = s.p.mem ∧
        t.host = s.p.host) ∧
    (e.collecting = false → e.due = [] → e.asked = [] → e.release = [] → diesOut s.p e = false →
      s.p.step.abortDue = false → s.p.step.commitHeld = false →
      ∃ t : Pkg, exec (.rungComplete true) s = .next { s with p := t } ∧ t.integ.episode = none ∧
        t.integ.recovered = e.units.map (fun u => (u, e.rung, upNs s.p)) ++ s.p.integ.recovered ∧
        (e.recorded = true → t.integ.crash.state = 2 ∧ t.integ.crash.tEnd = now s.p) ∧ t.mem = s.p.mem ∧
        t.boot = { s.p.boot with degraded := degradedNow t && decide (4 ≤ s.p.boot.phase) } ∧ t.step = s.p.step) ∧
    (∀ c, (c = .rungComplete false ∨ c = .rungTimeout) → e.collecting = false → e.rung < 4 →
      ¬ (e.rung = 3 ∧ e.only3 = true) → ¬ (e.rung = 2 ∧ e.release ≠ []) → s.p.step.abortDue = false →
      let u := e.units.head?.getD 0
      ∃ (t : Pkg) (f : Episode), exec c s = .next { s with p := t } ∧ t.integ.episode = some f ∧
        f.rung = nextRung e.rung u ∧ f.units = rungUnits (nextRung e.rung u) u ∧ f.collecting = true ∧
        t.mem = s.p.mem ∧ t.boot = s.p.boot) ∧
    (e.collecting = false → e.rung = 4 → e.due = [] → e.asked = [] → s.p.step.abortDue = false →
      ∃ t : Pkg, exec .rungTimeout s = .next { s with p := t } ∧ t.boot.failed = true ∧ t.integ.episode = none ∧
        t.mem = s.p.mem)) ∧
  (∀ s : State, s.p.integ.decayH ≠ 0 → s.p.boot.ready = true →
    exec .faultDecay s = .next { s with p := { s.p with integ := { s.p.integ with
      faults := s.p.integ.faults.map (· - 1) } } }) ∧
  (∀ (s : State) (u : Nat), exec (.checkerProbe u true) s = .next s ∧
    (u < 512 → s.p.boot.off = false → s.p.step.abortDue = false → s.p.step.state ≠ .sealing →
      ∃ t : Pkg, exec (.checkerProbe u false) s = .next { s with p := t } ∧
        t.integ.probeFails = min 0xFFFF (s.p.integ.probeFails + 1) ∧
        t.integ.faults = modAt s.p.integ.faults u (fun v => min 15 (v + 1)) ∧
        (0 < t.integ.fenceAt → t.integ.fenceAt ≤ t.integ.faults.getD u 0 → bit t.integ.fenced (u / 32) = true) ∧
        (s.p.step.state = .opened → bit t.step.failMask 1 = true) ∧
        ((∀ r ∈ s.p.tasks.runs, groveOfUnit r.unit ≠ some (u / 32)) →
          t.integ.detect = modAt s.p.integ.detect 10 (fun v => min 0xFFFFFFFF (v + 1)) ∧ t.mem = s.p.mem)))

/-! ### Start-up, management restart and stacks -/

/-- Start-up (R427, R428, R535, R553 to R555): each phase goes on to the next when it ends well; phase 1 latches the
lane plan and writes the boot entry, phase 2 runs a valid image or waits for one, phase 3 releases the dies that pass
their checks, phase 4 leaves every stack's memory empty and the failed stacks marked, phase 5 fences the groves that
fail and trains the ports, READY is told of; a failed phase 1 is tried again; a package reset leaves the state of
reset but for flash, the calendar and what flash holds of the settings. -/
def Obligations.StartUp : Prop :=
  ∀ s : State,
    (s.p.boot.off = true → exec .powerOn s = .next { s with p := { s.p with
      boot := { phase := 0 }, pwr := { s.p.pwr with brownoutLast := s.p.flash.brownout }
      flash := { s.p.flash with brownout := false } } }) ∧
    (s.p.boot.off = true → 0 < s.p.boot.qualFails → s.p.boot.stopped = false →
      exec .qualificationRetry s = .next { s with p := { s.p with boot := { s.p.boot with off := false, phase := 0 } } }) ∧
    (s.p.boot.off = false →
      (s.p.boot.phase = 0 → exec .qualificationEnd s = .next { s with
        p := { s.p with boot := { s.p.boot with phase := 1 } } }) ∧
      (s.p.boot.phase = 1 → s.p.cal.stopFlag = false → s.p.mgt.restarting = false →
        ∃ t : Pkg, exec (.phase1End true) s = .next { s with set := { s.set with lanes := s.set.nextPlan }, p := t } ∧
          t.boot = { s.p.boot with phase := 2, qualFails := 0 } ∧
          t.flash = { s.p.flash with bootCount := (s.p.flash.bootCount + 1) % 2 ^ 32 } ∧
          t.ft = { s.p.ft with
            priority := s.p.flash.ftPriority, parentMask := s.p.flash.ftMask, uncertLimit := s.p.flash.ftLimit } ∧
          t.mgt.nextSeq = s.p.mgt.nextSeq + 1 ∧
          SameIc { s.p with boot := t.boot, flash := t.flash, ft := t.ft, mgt := t.mgt } t) ∧
      (s.p.boot.phase = 1 → exec (.phase1End false) s = .next { s with p := { s.p with boot := { s.p.boot with
        off := true, phase := 0, qualFails := s.p.boot.qualFails + 1
        stopped := decide (3 < s.p.boot.qualFails + 1) } } }) ∧
      (s.p.boot.phase = 2 → s.p.boot.recovery = false →
        (∀ i, s.p.flash.image = some i → i.valid = true → exec .phase2End s = .next { s with p := { s.p with
          boot := { s.p.boot with phase := 3 }, host := { s.p.host with linkUp := true }
          mgt := { s.p.mgt with image := i } } }) ∧
        ((∀ i, s.p.flash.image = some i → i.valid = false) → exec .phase2End s = .next { s with p := { s.p with
          boot := { s.p.boot with recovery := true }, host := { s.p.host with linkUp := true } } })) ∧
      (∀ reports : List DieReport, s.p.boot.phase = 3 → s.p.dies.length = 4 →
        ∃ t : Pkg, exec (.phase3End reports) s = .next { s with p := t } ∧ t.boot.phase = 4 ∧
          t.boot.degraded = degradedNow t ∧
          (∀ d, d < 4 → match releaseReason (reports.getD d ⟨none, none⟩) with
            | none => (t.dies.getD d {}).state = .up ∧ (t.dies.getD d {}).level = 1 ∧
                (t.dies.getD d {}).cap = (reports.getD d ⟨none, none⟩).cap
            | some reason => (t.dies.getD d {}).state = .notReleased ∧ (t.dies.getD d {}).reason = reason) ∧
          (let flits := t.out.wdi.drop s.p.out.wdi.length
           ∀ d, d < 4 → (∃ f ∈ flits, f.die = d ∧ f.group = 124 ∧ f.h.type = 4 ∧ f.data = padTo 128 (baseCap s.set)) ∧
             (releaseReason (reports.getD d ⟨none, none⟩) = none → ∃ f ∈ flits, f.die = d ∧ f.group = 124 ∧ f.h.type = 5 ∧
               f.data = (List.range 128).map fun g => BitVec.ofNat 8 (roleOf g))) ∧
          t.mem = s.p.mem) ∧
      (∀ failed : List Nat, s.p.boot.phase = 4 →
        ∃ t : State, exec (.phase4End failed) s = .next t ∧ t.p.boot.phase = 5 ∧ t.p.mem.cells = [] ∧ t.p.mem.bad = [] ∧
          (∀ k, k < 16 → (bit t.p.mem.trained k = true ↔ k ∉ failed)) ∧
          (∀ k, k < 16 → k ∈ failed → bit t.p.mem.failed k = true) ∧
          t.set = { s.set with envAct := envGiven s.set.env s.p.pwr } ∧ t.pending = s.pending) ∧
      (∀ failed : List (Nat × Nat), s.p.boot.phase = 5 →
        ∃ t : Pkg, exec (.phase5End failed) s = .next { s with p := t } ∧ t.boot.phase = 6 ∧
          (∀ x ∈ failed, x.1 < 16 → x.2 < 32 → bit t.integ.fenced x.1 = true) ∧
          (∀ i, i < portCount s.set.lanes → i < s.p.links.ports.length →
            (portOf t i).state = .training ∧ (portOf t i).phase = .detect) ∧
          (s.p.tasks.runs = [] → t.mem = s.p.mem)) ∧
      (s.p.boot.phase = 6 → (∀ q ∈ s.p.links.ports, q.state = .up ∨ q.state = .down) →
        ∃ t : Pkg, exec .phase6End s = .next { s with p := t } ∧ t.boot = { s.p.boot with phase := 7 } ∧
          t.ft.phase = .listen ∧ t.ft.root = false ∧ t.ft.parent = none ∧ t.ft.count = s.p.ft.count ∧
          t = { s.p with boot := t.boot, ft := t.ft }) ∧
      (s.p.boot.phase = 7 → exec .phase7End s = .next { s with p := { s.p with boot := { s.p.boot with phase := 8 } } }) ∧
      (s.p.boot.phase = 8 → s.p.boot.ready = false → exec .ready s = .next { s with p := raise 384 { s.p with
        boot := { s.p.boot with ready := true }
        flash := { s.p.flash with fusedSvn := max s.p.flash.fusedSvn s.p.mgt.image.svn } } }) ∧
      (s.p.boot.resetDue = true → resetUnposted s.p = false →
        ∃ t : State, exec .packageReset s = .next t ∧ t.pending = s.pending ∧ t.p.boot = {} ∧ t.p.mem = {} ∧
          t.p.step = {} ∧ t.p.tasks = {} ∧ t.p.links = {} ∧ t.p.integ = {} ∧ t.p.host = { perst := s.p.host.perst } ∧
          t.p.flash = s.p.flash ∧ t.p.cal.secs = s.p.cal.secs ∧ t.p.cal.frac = s.p.cal.frac ∧
          t.p.cal.invalid = s.p.cal.invalid ∧ t.set.nextPlan = s.set.nextPlan ∧ t.set.serial = s.set.serial ∧
          t.set.pend = none))

/-- The management subsystem restarts (R566): its log entries are held, MCTP requests wait, and a restart that ends with a
valid image writes the entries, one without fails the package; then what waited is handled in turn. A stack's scrub counts what it corrects and marks what it cannot (R380),
and a stack whose interface is lost has failed and makes the package DEGRADED (R382, R486). -/
def Obligations.RestartsAndStacks : Prop :=
  ∀ s : State,
    (s.p.boot.off = false → exec .mgtWatchdogRestart s = .next { s with
      p := { s.p with mgt := { s.p.mgt with restarting := true } } }) ∧
    (s.p.mgt.restarting = true →
      (exec .mgtRestartComplete s = .next (s.p.mgt.waits.foldl mctpAsked
        { s with p := mgtRestarted { s.p with mgt := { s.p.mgt with waits := [] } } })) ∧
      (s.p.mgt.waits = [] →
        ∃ t : Pkg, exec .mgtRestartComplete s = .next { s with p := t } ∧ t.mgt.restarting = false ∧ t.mgt.held = [] ∧
          t.mgt.nextSeq = s.p.mgt.nextSeq + s.p.mgt.held.length ∧
          (s.p.mgt.image.valid = true → SameIc { s.p with mgt := t.mgt } t) ∧
          (s.p.mgt.image.valid = false → t.boot = { s.p.boot with failed := true })) ∧
      (mctpUp s.p = true → ∀ (via : Transport) (body : List Byte),
        let waits (a : MctpAsk) : Pkg := { s.p with mgt := { s.p.mgt with waits := s.p.mgt.waits ++ [(via, a)] } }
        exec (.sensorRead via) s = .next { s with p := waits (.code 0xF001 []) } ∧
        exec (.alertRead via) s = .next { s with p := waits (.code 0xF002 []) } ∧
        exec (.keyEnrol via body) s = .next { s with p := waits (.code 0xF003 body) } ∧
        exec (.resetUnit (.mctp via body)) s = .next { s with p := waits (.code 0x0D01 body) })) ∧
    (∀ (k n : Nat) (bad : List Nat), k < 16 → bit s.p.mem.trained k = true → bit s.p.mem.failed k = false →
      ∃ t : Pkg, exec (.stackScrub k n bad) s = .next { s with p := t } ∧
        t.mem.stackCe = modAt s.p.mem.stackCe k (fun v => min 0xFFFF (v + n)) ∧ t.mem.cells = s.p.mem.cells ∧
        (∀ x, x ∈ t.mem.bad ↔ x ∈ s.p.mem.bad ∨ ∃ off ∈ bad, off < stackSize ∧ x = (k * stackSize + off) / 64) ∧
        (bad = [] → t = { s.p with mem := t.mem }) ∧ t.step = s.p.step ∧ t.tasks = s.p.tasks) ∧
    (∀ k, k < 16 → s.p.boot.off = false → bit s.p.mem.failed k = false →
      ∃ t : Pkg, exec (.stackInterfaceLoss k) s = .next { s with p := t } ∧
        t.mem = { s.p.mem with failed := setBit s.p.mem.failed k } ∧ bit t.mem.failed k = true ∧
        (4 ≤ s.p.boot.phase → t.boot.degraded = true) ∧ t.step = s.p.step ∧ t.tasks = s.p.tasks)

/-! ### Power -/

/-- Holds and the envelope (R543 to R548, R558): a current, power, connector, thermal or LIMIT hold that is set counts
and lowers ENV_ACT at once to what R545 gives; its release takes it away and leaves ENV_ACT to rise one envelope at a
time; in P3 a core parks. -/
def Obligations.HoldsLowerTheEnvelope : Prop :=
  ∀ s : State, clocksOn s.p = true →
    let lower := min 2 (s.set.envAct + 1)
    let sets (c : Instr) (w : Pwr) : Prop := ∃ t : State, exec c s = .next t ∧
      t.p.pwr = { w with holds := min 0xFF (s.p.pwr.holds + 1) } ∧
      t.set = { s.set with envAct := max s.set.envAct (envGiven s.set.env t.p.pwr) } ∧ t.pending = s.pending ∧
      t.p.mem = s.p.mem ∧ t.p.step = s.p.step ∧ bit t.p.mgt.alert alThermal = true
    let leaves (c : Instr) (w : Pwr) : Prop := exec c s = .next { s with p := { s.p with pwr := w } }
    (∀ a b, 14000 < a + b → s.p.pwr.current ≠ some lower →
      sets (.currentHold a b) { s.p.pwr with iinA := a, iinB := b, current := some lower }) ∧
    (∀ a b, a + b ≤ 14000 → leaves (.currentHold a b) { s.p.pwr with iinA := a, iinB := b }) ∧
    (∀ a b, a + b < 12600 → leaves (.currentHoldRelease a b) { s.p.pwr with iinA := a, iinB := b, current := none }) ∧
    (∀ w, envPower s.set.envAct * 105 < w * 100 → s.p.pwr.power ≠ some lower →
      sets (.powerHold w) { s.p.pwr with
        pin := w, pins := (upNs s.p, w) :: recentPins (upNs s.p) s.p.pwr, power := some lower }) ∧
    (∀ w e, s.p.pwr.power = some e → w ≤ envPower (e - 1) →
      leaves (.powerHoldRelease w) { s.p.pwr with
        pin := w, pins := (upNs s.p, w) :: recentPins (upNs s.p) s.p.pwr, power := none }) ∧
    (∀ a b, a < 500 → 2000 < b → s.p.pwr.connector = false →
      sets (.connectorOpen a b) { s.p.pwr with iinA := a, iinB := b, aOpen := true, connector := true }) ∧
    (∀ a b, 500 ≤ a → 500 ≤ b → leaves (.connectorHoldRelease a b)
      { s.p.pwr with iinA := a, iinB := b, connector := false, aOpen := false, bOpen := false }) ∧
    (∀ i t, i < 64 → sensorValid s.p i = true → holdTemp i < t → s.p.pwr.thermal = none →
      sets (.thermalHold i t) { s.p.pwr with
        temps := s.p.pwr.temps.set i t, thermal := some lower, releaseSecs := releaseTime s.p
        thermalSetAt := some (upNs s.p) }) ∧
    (∀ i t e, i < 64 → sensorValid s.p i = true → holdTemp i < t → s.p.pwr.thermal = some e → e ≠ lower →
      thermalDue s.p = true → sets (.thermalHold i t) { s.p.pwr with
        temps := s.p.pwr.temps.set i t, thermal := some lower, thermalSetAt := some (upNs s.p) }) ∧
    (∀ ts : List Int, ts.length = 64 → s.p.pwr.thermal ≠ none →
      (∀ i, i < 64 → sensorValid s.p i = true → ts.getD i 0 ≤ releaseTemp i) →
      leaves (.thermalHoldRelease ts) { s.p.pwr with
        temps := ts, thermal := none, thermalReleasedAt := some (upNs s.p) }) ∧
    (hostOpen s.p = true → ∀ v, (v = 0 ∨ (24 ≤ v ∧ v ≤ 46)) →
      (v ≠ 0 → s.p.pwr.limit = 0 → sets (.pwrLimitWrite v) { s.p.pwr with limit := v }) ∧
      (v = 0 ∨ s.p.pwr.limit ≠ 0 → ∃ t : State, exec (.pwrLimitWrite v) s = .next t ∧ t.p.pwr = { s.p.pwr with limit := v } ∧
        t.set = { s.set with envAct := max s.set.envAct (envGiven s.set.env t.p.pwr) } ∧ t.pending = s.pending)) ∧
    (∀ v, v < 256 → v ≠ 0 → (v < 24 ∨ 46 < v) → exec (.pwrLimitWrite v) s = .next s) ∧
    (envGiven s.set.env s.p.pwr < s.set.envAct → ∃ t : State, exec .envActRise s = .next t ∧
      t.set = { s.set with envAct := s.set.envAct - 1 } ∧ t.pending = s.pending ∧ t.p.pwr = s.p.pwr) ∧
    (∀ c, s.set.envAct = 3 → exec (.corePark c) s = .next { s with p := { s.p with tasks := { s.p.tasks with
      cores := modAt s.p.tasks.cores c fun x => { x with parked := true } } } })

/-- Supply, trips and rails (R541, R549, R550, R556, R568): UNDER and OVER of a READY package fence the compute dies,
as does a trip of a sensor for the dies of its row and a rail fault for its own; a supply that leaves its window, a
base-die sensor at 125 °C or a base rail stops the converters; once what fenced a die is gone it is given rung 3. -/
def Obligations.SupplyTripsAndRails : Prop :=
  ∀ s : State, s.p.boot.off = false → s.p.dies.length = 4 →
    let off (c : Instr) (flag : Bool) : Prop := ∃ t : State, exec c s = .next t ∧ t.p.boot.off = true ∧
      t.p.mem.cells = [] ∧ t.p.flash = { s.p.flash with brownout := s.p.flash.brownout || flag } ∧
      t.p.cal.secs = s.p.cal.secs ∧ t.set.pend = none ∧ t.pending = s.pending
    let returns (t : Pkg) (d : Nat) : Prop := ∃ e, t.integ.episode = some e ∧
      (0x0400 + d ∈ e.units ∨ ∃ x ∈ e.due, x.2.1 = 0x0400 + d)
    (∀ v, 3000 ≤ v → v < 3300 → s.p.boot.ready = true → s.p.pwr.supply ≠ .under →
      ∃ t : Pkg, exec (.supplyUnder v) s = .next { s with p := t } ∧ t.pwr.supply = .under ∧ t.pwr.vin = v ∧
        t.pwr.unders = min 0xFF (s.p.pwr.unders + 1) ∧ bit t.mgt.alert alSupply = true ∧
        ∀ d, d < 4 → (s.p.dies.getD d {}).state = .up → (t.dies.getD d {}).state = .fenced ∧ bit t.pwr.tripFence d = true) ∧
    (∀ v, 4000 < v → v ≤ 4200 → s.p.boot.ready = true → s.p.pwr.supply ≠ .over →
      ∃ t : Pkg, exec (.supplyOver v) s = .next { s with p := t } ∧ t.pwr.supply = .over ∧ t.pwr.vin = v ∧
        t.pwr.overs = min 0xFF (s.p.pwr.overs + 1) ∧ bit t.mgt.alert alSupply = true ∧
        ∀ d, d < 4 → (s.p.dies.getD d {}).state = .up → (t.dies.getD d {}).state = .fenced ∧ bit t.pwr.tripFence d = true) ∧
    (∀ v, 3000 ≤ v → v < 3300 → s.p.boot.ready = false → off (.supplyUnder v) false) ∧
    (∀ v, 4000 < v → v ≤ 4200 → s.p.boot.ready = false → off (.supplyOver v) false) ∧
    (∀ v, (v < 3000 ∨ 4200 < v) → off (.brownOut v) true) ∧
    (∀ v, s.p.pwr.supply ≠ .normal → 3350 ≤ v → v ≤ 3950 →
      ∃ t : Pkg, exec (.supplyNormal v) s = .next { s with p := t } ∧ t.pwr.supply = .normal ∧ t.pwr.vin = v ∧
        (s.p.step.abortDue = false → t.mem = s.p.mem) ∧
        ∀ d, d < 4 → bit s.p.pwr.tripFence d = true →
          mayReturn { s.p with pwr := { s.p.pwr with supply := .normal } } d = true → returns t d) ∧
    (∀ i x, i < 64 → sensorValid s.p i = true → tripTemp i < x → ¬ (40 ≤ i ∧ i < 48 ∧ 2000 ≤ x) →
      ∃ t : Pkg, exec (.thermalTrip i x) s = .next { s with p := t } ∧ t.pwr.trips = min 0xFF (s.p.pwr.trips + 1) ∧
        t.pwr.temps = s.p.pwr.temps.set i x ∧
        ∀ d ∈ tripDies i, (d, i) ∈ t.pwr.trippedBy ∧
          ((s.p.dies.getD d {}).state = .up → (t.dies.getD d {}).state = .fenced ∧ bit t.pwr.tripFence d = true)) ∧
    (∀ i x, 40 ≤ i → i < 48 → sensorValid s.p i = true → 2000 ≤ x → off (.thermalTrip i x) true) ∧
    (∀ (d : Nat) (ts : List Int), d < 4 → ts.length = 64 → (∃ x ∈ s.p.pwr.trippedBy, x.1 = d) →
      (∀ x ∈ s.p.pwr.trippedBy, x.1 = d → ∀ i ∈ sensorRow x.2, sensorValid s.p i = true → ts.getD i 0 ≤ releaseTemp i) →
      ∃ t : Pkg, exec (.tripRecovery d ts) s = .next { s with p := t } ∧ t.pwr.temps = ts ∧
        (s.p.step.abortDue = false → t.mem = s.p.mem) ∧
        t.pwr.trippedBy = s.p.pwr.trippedBy.filter (fun x => x.1 != d) ∧
        ((s.p.dies.getD d {}).state = .fenced → s.p.pwr.supply = .normal → bit s.p.pwr.hostOnly d = false →
          bit s.p.pwr.railOut d = false → returns t d)) ∧
    off (.railFault .base) true ∧
    (∀ k, k < 16 → ∃ t : Pkg, exec (.railFault (.stack k)) s = .next { s with p := t } ∧ bit t.mem.failed k = true ∧
      bit t.mgt.alert alRail = true ∧ t.mem.cells = s.p.mem.cells) ∧
    (∀ d, d < 4 → ∃ t : Pkg, exec (.railFault (.die d)) s = .next { s with p := t } ∧ bit t.pwr.railOut d = true ∧
      bit t.mgt.alert alRail = true ∧ ((s.p.dies.getD d {}).state = .up → (t.dies.getD d {}).state = .fenced)) ∧
    (∀ d, d < 4 → bit s.p.pwr.railOut d = true →
      ∃ t : Pkg, exec (.railRecovery d) s = .next { s with p := t } ∧ bit t.pwr.railOut d = false ∧
        (mayReturn { s.p with pwr := { s.p.pwr with railOut := clearBit s.p.pwr.railOut d } } d = true → returns t d))

/-! ### Number formats -/

/-- Numbers (R52, R56 to R58, R61): every pattern of a format but a NaN is the conversion of its own value; a value
that stochastic rounding keeps is finite; FP32 addition and multiplication commute. -/
def Obligations.NumberFormats : Prop :=
  (∀ (f : Fmt) (b : Nat), b < 2 ^ f.bits → decode f b ≠ .nan → (convert f true (decode f b)).bits = b) ∧
  (∀ (f : Fmt) (neg : Bool) (m : Nat) (e : Int) (r : Nat), f ≠ .int8 → r < 65536 →
    (stochastic f (.fin neg m e) r).1 % 2 ^ (f.bits - 1) ≤ f.maxFinite) ∧
  (∀ a b : W32, fadd a b = fadd b a ∧ fmul a b = fmul b a)
end

