-- ==== Sys2Proof/Laws/Bits.lean ====
section
/-! SUPPORT. What the byte and list helpers of Bits do, and the range of the codes of Digest. -/

namespace Sys2Proof.Machine

@[simp] theorem length_leBytes (n v : Nat) : (leBytes n v).length = n := by
  induction n generalizing v with
  | zero => rfl
  | succ n ih => simp [leBytes, ih]

/-- A field of `n` bytes reads back as what was put there, modulo its width. -/
theorem leVal_leBytes (n v : Nat) : leVal (leBytes n v) = v % 256 ^ n := by
  induction n generalizing v with
  | zero => simp [leBytes, leVal, Nat.mod_one]
  | succ n ih =>
    simp only [leBytes, leVal, ih, BitVec.toNat_ofNat]
    rw [show 256 ^ (n + 1) = 256 * 256 ^ n by rw [Nat.pow_succ, Nat.mul_comm], Nat.mod_mul]

theorem leVal_lt (bs : List Byte) : leVal bs < 256 ^ bs.length := by
  induction bs with
  | nil => simp [leVal]
  | cons b bs ih =>
    simp only [leVal, List.length_cons, Nat.pow_succ]
    have := b.isLt
    omega

/-- The field that starts where the first list ends. -/
theorem le_append (a b : List Byte) (o n : Nat) (h : a.length = o) : le (a ++ b) o n = leVal (b.take n) := by
  subst h; simp [le]

/-- A field laid out after `o` bytes reads as its value. -/
theorem le_field (a b : List Byte) (o n v : Nat) (h : a.length = o) (hv : v < 256 ^ n) :
    le (a ++ (leBytes n v ++ b)) o n = v := by
  rw [le_append _ _ _ _ h, List.take_append_of_le_length (by simp)]
  rw [List.take_of_length_le (by simp), leVal_leBytes, Nat.mod_eq_of_lt hv]

@[simp] theorem length_modAt {α : Type} (l : List α) (i : Nat) (f : α → α) : (modAt l i f).length = l.length := by
  unfold modAt; split <;> simp

/-- `modAt` changes one entry. -/
theorem getElem?_modAt {α : Type} (l : List α) (i j : Nat) (f : α → α) :
    (modAt l i f)[j]? = if i = j then l[j]?.map f else l[j]? := by
  unfold modAt
  by_cases h : i = j
  · subst h
    cases hl : l[i]? with
    | none => simp [hl]
    | some a =>
      have : i < l.length := by
        by_cases hi : i < l.length
        · exact hi
        · rw [List.getElem?_eq_none (by omega)] at hl; cases hl
      simp [this]
  · cases hl : l[i]? with
    | none => simp [h]
    | some a => simp [h]

theorem getD_modAt_self {α : Type} (l : List α) (i : Nat) (f : α → α) (d : α) (h : i < l.length) :
    (modAt l i f).getD i d = f (l.getD i d) := by
  rw [List.getD_eq_getElem?_getD, getElem?_modAt, List.getD_eq_getElem?_getD]
  simp [h]

theorem getD_modAt_ne {α : Type} (l : List α) (i j : Nat) (f : α → α) (d : α) (h : i ≠ j) :
    (modAt l i f).getD j d = l.getD j d := by
  simp [List.getD_eq_getElem?_getD, getElem?_modAt, h]

theorem bit_testBit (v i : Nat) : bit v i = v.testBit i := by
  simp only [bit, Nat.testBit, Nat.shiftRight_eq_div_pow]
  have : (1 &&& v / 2 ^ i) = v / 2 ^ i % 2 := by rw [Nat.and_comm, Nat.and_one_is_mod]
  rw [this]
  rcases Nat.mod_two_eq_zero_or_one (v / 2 ^ i) with h | h <;> simp [h]

/-- Setting a bit changes that bit alone. -/
theorem bit_setBit (v i j : Nat) : bit (setBit v i) j = (decide (i = j) || bit v j) := by
  simp only [bit_testBit, setBit, Nat.testBit_or, Nat.testBit_two_pow]
  rw [Bool.or_comm]

/-- A fold of CRC steps stays within the register. -/
theorem crcByte_lt (poly c k : Nat) (b : Byte) (hp : poly < 2 ^ k) (hc : c < 2 ^ k) (hk : 8 ≤ k) : crcByte poly c b < 2 ^ k := by
  have step : ∀ x, x < 2 ^ k → crcBit poly x < 2 ^ k := by
    intro x hx
    unfold crcBit
    split
    · exact Nat.xor_lt_two_pow (Nat.lt_of_le_of_lt (Nat.div_le_self _ _) hx) hp
    · exact Nat.lt_of_le_of_lt (Nat.div_le_self _ _) hx
  have hb : b.toNat < 2 ^ k := Nat.lt_of_lt_of_le b.isLt (Nat.pow_le_pow_right (by omega) hk)
  exact step _ (step _ (step _ (step _ (step _ (step _ (step _ (step _ (Nat.xor_lt_two_pow hc hb))))))))

theorem crcFold_lt (poly k : Nat) (bs : List Byte) (c : Nat) (hp : poly < 2 ^ k) (hk : 8 ≤ k) (hc : c < 2 ^ k) :
    bs.foldl (crcByte poly) c < 2 ^ k := by
  induction bs generalizing c with
  | nil => exact hc
  | cons b bs ih => exact ih _ (crcByte_lt poly c k b hp hc hk)

theorem crc64_lt (bs : List Byte) : crc64 bs < 2 ^ 64 :=
  Nat.xor_lt_two_pow (crcFold_lt _ 64 bs _ (by decide) (by decide) (by decide)) (by decide)

theorem crc32_lt (bs : List Byte) : crc32 bs < 2 ^ 32 :=
  Nat.xor_lt_two_pow (crcFold_lt _ 32 bs _ (by decide) (by decide) (by decide)) (by decide)

end Sys2Proof.Machine
end

