-- ==== Sys2Proof/Tests/Slice0.lean ====
section
/-! SUPPORT. Tests: commands that no sender can send are refused as ill-formed; known answers, each from the manual or by
hand from it; and for every statement of Certificates/Slice0 that has hypotheses a state and operands that meet them. -/

namespace Sys2Proof.Tests

open Sys2Proof.Machine

set_option Elab.async false

/-! ### States to test on -/

/-- A capability word of a die that start-up releases. -/
def cap : CapWord := ⟨0, 1, 1, 1, 0, 0, 128, 4⟩

/-- A package that is READY: dies UP, stacks trained, the host link up, the REFTIME clock present. -/
def base : Pkg :=
  { State.reset.p with
    boot := { phase := 8, ready := true }
    dies := List.replicate 4 { state := .up, level := 1, cap := some cap }
    mem := { trained := 0xFFFF }
    ft := { refclk := true }
    host := { linkUp := true } }

/-- Settings after phase 4, with ENV_ACT at ENV. -/
def set0 : Settings := { envAct := 0 }

def st (p : Pkg) : State := { pending := [], set := set0, p }

/-- A packet without fence, launch time or flags. -/
def packet (op : Nat) (b : List Byte) : Packet :=
  { num := 0, after := 1, opcode := op, flags := 0, qtag := 7, seq := 9, waitId := 0, signalId := 0, waitValue := 0
    signalValue := 0, launchAt := 0, replyAddr := 0, payload := b }

def queueWith (read : List Packet) : Queue := { sqLog2 := 6, cqLog2 := 6, state := .running, nextNum := 1, read }

/-- The package with a packet at the front of queue 0. -/
def sent (p : Pkg) (op : Nat) (b : List Byte) : Pkg :=
  { p with host := { p.host with queues := queueWith [packet op b] :: List.replicate 63 {}, lastQ := 63 } }

/-- The same once the packet has started. -/
def took (p : Pkg) (op : Nat) (b : List Byte) : Pkg :=
  { p with host := { p.host with
      queues := queueWith [{ packet op b with start := some (now p) }] :: List.replicate 63 {}, lastQ := 0 } }

/-- The request comes to its meaning. -/
theorem takes_sent (set : Settings) (p : Pkg) (op : Nat) (b : List Byte) (h1 : p.mgt.restarting = false)
    (h2 : gate p op = none) :
    Takes { pending := [], set, p := sent p op b } (.queue 0) op (.queue 0 0) b (took p op b) := by
  have hs : startable (sent p op b) 0 = some (packet op b) := by
    have e : (sent p op b).mgt.restarting = false := h1
    simp [startable, sent, queueOf, queueWith, packet, prevMet, fenceMet, launchMet, bit] at *
    simp [e]
  have hn : servedNext (sent p op b) = some 0 := by
    unfold servedNext
    rw [show (sent p op b).host.lastQ = 63 from rfl]
    have : (List.range 64).map (fun i => (63 + 1 + i) % 64) = 0 :: (List.range 63).map (· + 1) := by decide
    rw [this, List.find?_cons_of_pos (by simp [hs])]
  refine ⟨{ packet op b with start := some (now p) }, ?_, h2, rfl, rfl⟩
  have ho : ((packet op b).opcode == op) = true := by simp [packet]
  simp only [startPacket, hn, hs, ho, BEq.rfl, if_true]
  rfl

/-- Bytes of a payload: `bs` and zeros up to `n`. -/
def pay (bs : List Byte) (n : Nat := 64) : List Byte := bs ++ List.replicate (n - bs.length) 0

/-- An MCTP request comes to its meaning. -/
theorem takes_mctp (p : Pkg) (via : Transport) (b : List Byte) (op : Nat) (h : mctpOpen p = true) :
    Takes (st p) (.mctp via (0 :: 0 :: b)) op (.mctp via) b p := ⟨h, by simp [zeros], rfl, rfl, rfl⟩

/-! ### Steps and settings -/

theorem meets_StepRunsTheFrontCommand :
    ({ st base with pending := [.nop (.queue 0), .calMiss] } : State).pending = .nop (.queue 0) :: [.calMiss] := rfl

def offPkg (stopped : Bool) : Pkg := { base with boot := { off := true }, cal := { stopFlag := stopped } }

theorem meets_EmptyQueueIsOneCycle :
    ((st base).pending = [] ∧ base.boot.off = false) ∧ ((offPkg false).boot.off = true ∧ (offPkg false).cal.stopFlag = false) ∧
    ((offPkg true).boot.off = true ∧ (offPkg true).cal.stopFlag = true) ∧
    (base.boot.off = false ∧ base.ft.cycle < 5 ∧ base.ft.slew = 0 ∧ base.ft.count < 2 ^ 80) := by decide +kernel

theorem meets_EveryStepKeepsLegalSettings :
    (st base).set.wf = true ∧ step (st base) = .next (tick (st base)) := ⟨by decide, rfl⟩

theorem meets_EveryStepTakesOneCommand : step (st base) = .next (tick (st base)) := rfl

/-- A package in which phase 1 ends with another lane plan in flash. -/
def newPlan : State := { State.reset with set := { State.reset.set with nextPlan := 2 } }

theorem meets_OnlyTheseCommandsChangeSettings :
    ∃ t, exec (.phase1End true) newPlan = .next t ∧ t.set ≠ newPlan.set := ⟨_, rfl, by decide +kernel⟩

theorem meets_LanesChangeOnlyAtStartUp :
    (∃ t, exec (.phase1End true) newPlan = .next t ∧ t.set.lanes ≠ newPlan.set.lanes) ∧
    (let b := pay [32, 0, 0, 0, 0, 0, 1];
      Takes (st (sent base 0x0102 b)) (.queue 0) 0x0102 (.queue 0 0) b (took base 0x0102 b) ∧
        modeFieldsBad b = false ∧ bit (le b 0 1) 5 = true ∧ le b 6 1 ≠ set0.lanes) :=
  ⟨⟨_, rfl, by decide +kernel⟩, takes_sent _ _ _ _ rfl rfl, by decide +kernel⟩

/-! ### Memory -/

theorem meets_InterleaveIsOneToOne :
    regionSize - 1 < regionSize ∧ (({} : Settings).granule = 0 ∧ ({} : Settings).spread = 0) ∧
      (({ granule := 1 } : Settings).granule = 1 ∧ ({ granule := 2, spread := 1 } : Settings).granule = 2) ∧
      ({ spread := 1 } : Settings).spread = 1 := by decide

theorem meets_MemoryReadsWhatWasWritten :
    Memory.wf base.mem.cells = true ∧ (regionSize - 2) + [1, 2].length ≤ regionSize ∧ regionSize - 1 < regionSize := by
  decide

/-! ### The host interface -/

theorem meets_TurnedAway :
    (∃ x, startPacket (sent { base with boot := {} } 0x0801 []) 0 0x0801 = some x ∧ gate x.2 0x0801 = some stNotReady) ∧
    (({ base with boot := { failed := true } } : Pkg).boot.failed = true ∧ 0x0801 ∉ [0x0100, 0x0101, 0x0103, 0x0C04, 0x0D01, 0x0D02]) ∧
    (mctpOpen base = true ∧ zeros [1, 0] 0 2 = false) :=
  ⟨⟨_, by rfl, by rfl⟩, by decide +kernel, by decide +kernel⟩

/-- A payload whose DEST is host address 0. -/
def zero64 : List Byte := pay []

theorem meets_InformationRequestsAnswer :
    Takes (st (sent base 0x0100 [])) (.queue 0) 0x0100 (.queue 0 0) [] (took base 0x0100 []) ∧
    Takes (st base) (.mctp .smbus [0, 0]) 0x0100 (.mctp .smbus) [] base ∧
    (Takes (st (sent base 0x0101 zero64)) (.queue 0) 0x0101 (.queue 0 0) zero64 (took base 0x0101 zero64) ∧
      plainPayloadBad (.queue 0 0) zero64 = false ∧ le zero64 0 1 = 0) ∧
    (let b := pay [1, 3];
      Takes (st (sent base 0x0103 b)) (.queue 0) 0x0103 (.queue 0 0) b (took base 0x0103 b) ∧
      (le b 0 1 = 1 ∧ 64 ≤ b.length ∧ le b 1 1 ≤ 3 ∧ zeros b 2 2 = true ∧ zeros b 16 48 = true ∧
        destBad (.queue 0 0) (le b 8 8) = false)) ∧
    (Takes (st (sent base 0x0A01 zero64)) (.queue 0) 0x0A01 (.queue 0 0) zero64 (took base 0x0A01 zero64) ∧
      zeros zero64 8 56 = true ∧ addrOk (le zero64 0 8) 64 64 = true ∧
      writeError set0 (took base 0x0A01 zero64) (le zero64 0 8) (ftBlock (took base 0x0A01 zero64)).length = none) ∧
    (let b := pay [0, 1, 255, 31, 1, 0];
      Takes (st (sent base 0x0901 b)) (.queue 0) 0x0901 (.queue 0 0) b (took base 0x0901 b) ∧
      (le b 0 1 ≤ 1 ∧ le b 1 1 ≤ 1 ∧ 1 ≤ le b 4 2 ∧ le b 4 2 ≤ 256 ∧ zeros b 6 2 = true ∧ zeros b 16 48 = true ∧
        addrOk (le b 8 8) 32 (32 * le b 4 2) = true ∧ (le b 0 1 = 0 → le b 2 2 + le b 4 2 ≤ 8192) ∧
        (le b 0 1 = 1 → 0x1000 ≤ le b 2 2 ∧ le b 2 2 + le b 4 2 ≤ 0x1100 ∧ le b 1 1 = 0) ∧
        (le b 1 1 = 1 → stepBusy (took base 0x0901 b) = false ∨ 6144 ≤ le b 2 2) ∧
        writeError set0 (took base 0x0901 b) (le b 8 8) (healthData (took base 0x0901 b) 0 8191 1).length = none)) :=
  ⟨takes_sent _ _ _ _ rfl rfl, takes_mctp _ _ _ _ rfl, ⟨takes_sent _ _ _ _ rfl rfl, by decide +kernel⟩,
    ⟨takes_sent _ _ _ _ rfl rfl, by decide +kernel⟩, ⟨takes_sent _ _ _ _ rfl rfl, by decide +kernel⟩,
    ⟨takes_sent _ _ _ _ rfl rfl, by decide +kernel⟩⟩

theorem meets_AnswersBecomeDue :
    let p := took base 0x0100 []
    ∃ qu pk, p.host.queues[0]? = some qu ∧ qu.read.find? (fun k => k.num == 0) = some pk := ⟨_, _, rfl, rfl⟩

/-- The package with queue 0 as given. -/
def withQueue (q : Queue) : Pkg := { base with host := { base.host with queues := q :: List.replicate 63 {} } }

theorem meets_QueuesAreDriven :
    (base.host.linkUp = true ∧ base.host.perst = false) ∧
    (let u := queueOf (withQueue (queueWith [])) 0;
      u.state = .running ∧ 63 < 2 ^ u.sqLog2 ∧ 63 < 2 ^ u.cqLog2 ∧ u.state ≠ .disabled) ∧
    (let u := queueOf (withQueue { sqLog2 := 18, cqLog2 := 13 }) 0;
      u.state = .disabled ∧ base.boot.recovery = false ∧ u.sqBase % 4096 = 0 ∧ u.cqBase % 4096 = 0 ∧ 6 ≤ u.sqLog2 ∧
        u.sqLog2 ≤ 18 ∧ 6 ≤ u.cqLog2 ∧ u.cqLog2 ≤ 13) ∧
    (let u := queueOf (withQueue { sqLog2 := 18, cqLog2 := 14 }) 0;
      u.state = .disabled ∧ ¬ (u.sqBase % 4096 = 0 ∧ u.cqBase % 4096 = 0 ∧ 6 ≤ u.sqLog2 ∧ u.sqLog2 ≤ 18 ∧
        6 ≤ u.cqLog2 ∧ u.cqLog2 ≤ 13)) ∧
    ((queueOf (withQueue { queueWith [] with state := .stopped }) 0).state = .stopped) ∧
    (let u := queueOf (withQueue { queueWith [] with state := .draining }) 0;
      u.state = .draining ∧ u.read = [] ∧ u.due = []) ∧
    (let u := queueOf (withQueue { queueWith [] with bell := 63 }) 0;
      u.state = .running ∧ u.bell < 2 ^ u.sqLog2 ∧ u.head < 2 ^ u.sqLog2 ∧ u.bell ≠ u.head) ∧
    (∃ r, (queueOf (withQueue { queueWith [] with due := [(packet 0x0100 []).reply base stOk 0 0] }) 0).due = [r]) :=
  ⟨by decide +kernel, by decide +kernel, by decide +kernel, by decide +kernel, by decide +kernel, by decide +kernel,
    by decide +kernel, _, rfl⟩

theorem meets_FencesAndPerst :
    base.host.perst = false ∧ ({ base with host := { perst := true } } : Pkg).host.perst = true := by decide +kernel

/-- The 64 header bytes of a packet: OPCODE, FLAGS, LENGTH, the rest 0. -/
def head64 (op flags len : Nat) : List Byte := pay (leBytes 2 op ++ leBytes 2 flags ++ [0, 0] ++ leBytes 2 len)

theorem meets_PacketsAreRead :
    let p := withQueue { queueWith [] with bell := 1 }
    let u := queueOf p 0
    (u.state = .running ∧ p.host.perst = false ∧ outstanding u < 4096 ∧ 1 ≤ unitsReady u) ∧
    (le (head64 0x0100 0 0) 6 2 = 0 ∧ 1 + 0 / 64 ≤ unitsReady u ∧ (head64 0x0100 0 0).length = 64 ∧
      headerStatus p (head64 0x0100 0 0) (parseHeader (head64 0x0100 0 0) u.nextNum 1) 0 = none) ∧
    (headerStatus p (head64 0x0FFF 0 0) (parseHeader (head64 0x0FFF 0 0) u.nextNum 1) 0 = some stBadOpcode) ∧
    (64 ≤ (head64 0x0100 0 4160).length ∧ 4096 < le (head64 0x0100 0 4160) 6 2) ∧
    (let q := withQueue (queueWith [{ packet 0x0100 [] with flags := 4, launchAt := 5 }]);
      ∃ v, q.host.queues[0]? = some v ∧ v.read[0]? = some { packet 0x0100 [] with flags := 4, launchAt := 5 }) := by
  refine ⟨by decide +kernel, by decide +kernel, by decide +kernel, by decide +kernel, _, rfl, rfl⟩

theorem meets_RepliesArePosted :
    let r := (packet 0x0100 []).reply base stOk 0 0
    let u := { queueWith [] with due := [r], cqTail := 62 }
    (withQueue u).host.queues[0]? = some u ∧ u.due = [r] ∧ u.state ≠ .disabled ∧ (withQueue u).host.perst = false ∧
      (u.cqTail + 1) % 2 ^ u.cqLog2 ≠ u.cqHead := by decide +kernel
/-! ### Interrupts, registers, management -/

/-- The interrupt controller with source 512 at PRIO 3, pending, and vector 0 as its target. -/
def icPkg : Pkg :=
  { base with ic := { base.ic with
      prio := base.ic.prio.set 512 3, target := base.ic.target.set 512 32, pend := base.ic.pend.set 16 1 } }

theorem meets_InterruptRegisters :
    ((st icPkg).p.host.linkUp = true ∧ (st icPkg).p.host.perst = false) ∧ (8 ≤ 31 ∧ 31 < 32) ∧ (256 ≤ 1023 ∧ 1023 < 1024 ∧ 15 < 16) ∧ targetOk 32 = true ∧
      (32 ≤ 95 ∧ 95 < 96) := by decide +kernel

theorem meets_SourceEvents :
    base.ic.pend.length = 32 ∧ base.ic.prio.getD 1023 0 = 0 ∧
    (icPkg.ic.prio.getD 512 0 ≠ 0 ∧ wordBit icPkg.ic.pend 512 = true) ∧
    (let p : Pkg := { icPkg with ic := { icPkg.ic with pend := base.ic.pend } };
      p.ic.prio.getD 512 0 ≠ 0 ∧ wordBit p.ic.pend 512 = false ∧ icTarget p 512 = some (32 + 0)) := by decide +kernel

/-- Source 512 for the firmware target 16, whose running priority is 2. -/
def fwPkg : Pkg :=
  { icPkg with ic := { icPkg.ic with
      target := base.ic.target.set 512 16, running := icPkg.ic.running.set 16 [2] } }

/-- Source 512 for the control core of grove 1 of die 1, with that die as given. -/
def corePkg (d : DieState) : Pkg :=
  { icPkg with
    ic := { icPkg.ic with target := base.ic.target.set 512 5 }
    dies := base.dies.set 1 { state := d, level := 1, cap := some cap } }

theorem meets_SoftwareInterrupts :
    (base.host.linkUp = true ∧ base.host.perst = false ∧ 512 ≤ 1023 ∧ 1023 < 1024) ∧ 511 < 512 ∧ 1024 ≤ 1024 ∧
    (16 ≤ 16 ∧ fwPkg.ic.running[16]? = some (2 :: [])) ∧ bestSource base 16 = none ∧
    (bestSource fwPkg 16 = some 512 ∧ targetUp fwPkg 16 = true) ∧ targetUp (corePkg .fenced) 5 = false ∧
    (let p := corePkg .up;
      bestSource p 5 = some 512 ∧ targetUp p 5 = true ∧ 5 / 4 < p.dies.length ∧ (laneGroup p (5 / 4) 124).retraining = false ∧
        (laneGroup p (5 / 4) 124).queue = [] ∧ (laneGroup p (5 / 4) 124).sent.length < 512) ∧
    (let c : CfgWrite := { maxPayload := 128, maxRead := 512, d3hot := false, bar2Log2 := 41 };
      30 ≤ c.bar2Log2 ∧ c.bar2Log2 ≤ 41) := by
  decide +kernel

theorem meets_RegisterAccesses :
    (base.host.linkUp = true ∧ base.host.perst = false) ∧ (mapFree base = true ∧ bits 9 3 2 ≠ 3 ∧ bits 9 1 0 < 2) ∧
    bits 12 3 2 = 3 ∧ 2 ≤ bits 2 1 0 ∧ (20 < 2 ^ 32 ∧ 12 ≤ 20 % 32 ∧ 20 % 32 ≤ 20) ∧ (11 % 32 < 12 ∧ 20 < 21 % 32) ∧
    (1 ≤ 1000 % 65536 ∧ 1000 % 65536 ≤ 1000) ∧ (0x3FFFFF8 % 8 = 0 ∧ 0x3FFFFF8 < 0x4000000) ∧ 2 % 4 ≠ 0 := by
  decide +kernel

/-- The BAR2 window at the last 64 GiB of the stack region. -/
def barPkg : Pkg := { base with host := { base.host with bar2Win := regionSize - 2 ^ 36 } }

/-- A package with an uncorrectable error in the block at address 0. -/
def badPkg : Pkg := { base with mem := { base.mem with bad := [0] } }

theorem meets_Bar2Accesses :
    (base.host.linkUp = true ∧ base.host.perst = false) ∧
    (2 ^ 36 - 4 + 4 ≤ 2 ^ barPkg.host.bar2Log2 ∧ barPkg.host.bar2Win + (2 ^ 36 - 4) + 4 ≤ regionSize ∧
      5 ≤ barPkg.boot.phase ∧ readError set0 barPkg (barPkg.host.bar2Win + (2 ^ 36 - 4)) 4 = none ∧
      barPkg.mem.failed = 0 ∧ barPkg.mem.bad = [] ∧ Memory.wf barPkg.mem.cells = true) ∧
    (let p : Pkg := { base with host := { base.host with bar2Win := regionSize } };
      0 + 1 ≤ 2 ^ p.host.bar2Log2 ∧ regionSize < p.host.bar2Win + 0 + 1) ∧
    (0 + 64 ≤ 2 ^ badPkg.host.bar2Log2 ∧ 0 + 64 ≤ regionSize ∧ readError set0 badPkg 0 64 = some 0) := by
  decide +kernel

/-- A package whose ALERT_N is low. -/
def alertPkg : Pkg := { base with mgt := { base.mgt with alert := 1 } }

theorem meets_SidebandMessages :
    (3 ≤ alertPkg.boot.phase ∧ alertPkg.boot.off = false ∧ alertPkg.mgt.restarting = false) ∧ (1 ≤ 254 ∧ 254 ≤ 254) ∧
      alertLow alertPkg = true := by decide +kernel

/-! ### Fabric time and the calendar -/

def upPort : Port := { state := .up, level := 1, credits := List.replicate 16 1 }

/-- Port 0 is UP; fabric time as given. -/
def ftPkg (f : Ft) : Pkg :=
  { base with ft := f, links := { base.links with ports := upPort :: List.replicate 11 {} } }

/-- A RESP on port 0 to the REQ with ID 5. -/
def resp : TimeMsg := ⟨1, true, false, 128, 1, 9, 77, 0, 5, 3, 0⟩

def follower : Ft :=
  { base.ft with state := .locked, parent := some 0, rootSerial := 77, rootPrio := 128, ports := { req := some (5, 0) } :: List.replicate 11 {} }

theorem meets_TimeExchanges :
    let p := ftPkg follower
    (0 < p.ft.ports.length ∧ portUp p 0 = true) ∧
    (let q := portOf p 0; q.own = [] ∧ q.pass = [] ∧ q.sent.length < 512 ∧ 0 < q.credits.getD 2 0) ∧
    (resp.kind = 1 ∧ (timeOf p 0).req = some (resp.reqId, 0) ∧ p.ft.state = .locked ∧ p.ft.parent = some 0 ∧
      p.ft.root = false ∧ p.ft.phase = .idle ∧ resp.locked = true ∧
      resp.rootSerial = p.ft.rootSerial ∧ resp.priority = p.ft.rootPrio ∧
      (offsetOfExchange 0 resp.t2 resp.tstamp (p.ft.count % 2 ^ 64)).natAbs ≤ 65536000) ∧
    ({ resp with kind := 0 } : TimeMsg).kind = 0 := by decide +kernel

/-- Ports 0 and 1 are UP, port 0's REQ is a millisecond old, and port 1's neighbour may be a parent. -/
def twoParents : Pkg :=
  { ftPkg { follower with
      count := 65536000000, parentMask := 0xFFF
      ports := [{ req := some (5, 0) }, { heard := true, locked := true, serial := 77, priority := 128 }] ++
        List.replicate 10 {} } with
    links := { base.links with ports := [upPort, upPort] ++ List.replicate 10 {} } }

theorem meets_LocksAreLost :
    (let p := ftPkg { follower with count := 65536000000 };
      (timeOf p 0).req = some (5, 0) ∧ 0 < p.ft.ports.length ∧
        65536000000 ≤ (stampDiff (p.ft.count % 2 ^ 64) 0).toNat ∧ p.ft.state = .locked ∧ p.ft.parent = some 0 ∧
        chooseParent p (some 0) = none) ∧
    (let p := twoParents;
      (timeOf p 0).req = some (5, 0) ∧ 0 < p.ft.ports.length ∧
        65536000000 ≤ (stampDiff (p.ft.count % 2 ^ 64) 0).toNat ∧ p.ft.state = .locked ∧ p.ft.parent = some 0 ∧
        chooseParent p (some 0) = some 1) ∧
    (∀ u ∈ [65535999, 65536000],
      let p := ftPkg { follower with count := 5000000 * 65536, u := some u };
      p.ft.state = .locked ∧ p.ft.parent = some 0 ∧ 5000000 ≤ sinceNs p (timeOf p 0).seqAt ∧ upPorts p ≠ [] ∧
        p.ft.u = some u) ∧
    (let p := ftPkg { follower with state := .holdover, parent := none };
      p.ft.state = .holdover ∧ p.ft.phase = .idle ∧ p.ft.root = false ∧ upPorts p ≠ [] ∧
        ∀ j ∈ upPorts p, (timeOf p j).heard = false ∨ (timeOf p j).serial ≠ p.ft.rootSerial ∨
          (timeOf p j).priority ≠ p.ft.rootPrio ∨ 5000000 ≤ sinceNs p (timeOf p j).seqAt) ∧
    (let p : Pkg := { base with ft := { phase := .listen, rootSerial := set0.serial, rootPrio := 128, priority := 128 } };
      p.ft.phase = .listen ∧ upPorts p = [] ∧ p.ft.everLocked = false ∧ p.ft.rootSerial = set0.serial ∧
        p.ft.rootPrio = p.ft.priority) ∧
    (let p := ftPkg { phase := .listen }; p.ft.phase = .listen ∧ upPorts p ≠ []) := by
  decide +kernel

theorem meets_Reftime :
    (let f : Ft := { phase := .align, root := true, refclk := true };
      f.phase = .align ∧ f.root = true ∧ f.everLocked = false ∧ f.state = .free ∧ f.refclk = true) ∧
    base.ft.phase ≠ .align ∧ ({ phase := .align } : Ft).refclk = false ∧
    (let p := ftPkg { lastMark := some 0, count := 1100000000 * 65536 };
      p.ft.lastMark ≠ none ∧ 1100000000 ≤ sinceNs p p.ft.markBase) ∧
    (base.ft.refclk = true ∧ base.ft.state ≠ .locked ∧ follower.refclk = true ∧ follower.state = .locked) ∧
    ({} : Ft).refclk = false ∧
    (let f : Ft := { state := .holdover, u := some 3 }; f.state = .holdover ∧ f.u = some 3) := by decide +kernel

/-- FT_CONFIG of the bounds: SAVE, every port of the plan a parent. -/
def ftCfg : List Byte := pay [1, 1, 0x3F, 0, 16, 0, 0, 0]

def calPay : List Byte := pay [1, 0, 0, 0, 0, 0, 0xFF, 0x7F]

def calWaiting : Pkg := { base with cal := { waits := [⟨.queue 0 0, 1, 2, 0⟩] } }

theorem meets_Calendar :
    (Takes (st (sent base 0x0A03 ftCfg)) (.queue 0) 0x0A03 (.queue 0 0) ftCfg (took base 0x0A03 ftCfg) ∧
      (zeros ftCfg 8 56 = true ∧ le ftCfg 1 1 < 2 ∧ le ftCfg 2 2 < 2 ^ portCount set0.lanes)) ∧
    (Takes (st (sent base 0x0A02 calPay)) (.queue 0) 0x0A02 (.queue 0 0) calPay (took base 0x0A02 calPay) ∧
      (le calPay 6 2 < 2 ^ 15 ∧ le calPay 8 1 < 2 ∧ zeros calPay 9 7 = true ∧ zeros calPay 24 40 = true ∧
        (le calPay 8 1 = 0 → le calPay 16 8 = 0))) ∧
    calWaiting.cal.waits.find? (fun c => reached calWaiting c.atFt) = some ⟨.queue 0 0, 1, 2, 0⟩ ∧
    (offPkg false).boot.off = true :=
  ⟨⟨takes_sent _ _ _ _ rfl rfl, by decide +kernel⟩, ⟨takes_sent _ _ _ _ rfl rfl, by decide +kernel⟩, by decide +kernel,
    rfl⟩

/-! ### The mode and the step -/

/-- A READY package with a step as given, and an update configured without layers. -/
def stp (x : Step) : Pkg := { base with step := x, upd := { cfg := some (pay [] 128) } }

def modePay : List Byte := pay [33, 2, 0, 0, 0, 0, 0]

/-- STEP 1 with BASE, any layout epoch. -/
def openPay : List Byte := pay [1, 0, 0, 0, 0, 0, 0, 0, 1, 0, 255, 255]

def p3 (p : Pkg) (op : Nat) (b : List Byte) : State := { pending := [], set := {}, p := sent p op b }

/-- A task descriptor (R81) for grove 0 with tensor descriptors at address 65536 (J0) and no edge. -/
def taskDesc (type count : Nat) (body : List Byte) : List Byte :=
  pay ([BitVec.ofNat 8 type, 0, 1, 0] ++ leBytes 6 0 ++ leBytes 2 count) 48 ++ leBytes 8 65536 ++ pay [] 8 ++ pay body

/-- C = A · B with A, B and C tensors 0, 1 and 2. -/
def matDesc : List Byte := taskDesc 1 3 [0, 1, 2]

/-- The same as one group whose table is at address 131072. -/
def groupDesc : List Byte := taskDesc 2 3 ([0, 1, 2, 0, 0, 0, 0, 0] ++ leBytes 8 131072 ++ [1])

/-- One NEG stage: tensor 2 becomes the negative of tensor 0. -/
def chainDesc : List Byte := taskDesc 0x10 3 ([1, 0, 2, 255, 2, 255, 255, 255] ++ leBytes 4 0x09080000)

/-- A conversion of tensor 0 into tensor 2. -/
def copyDesc : List Byte := taskDesc 0x50 3 [0, 2, 1]

theorem meets_SetModeTakesEffect :
    (let p := stp { state := .opened };
      Takes (st (sent p 0x0102 modePay)) (.queue 0) 0x0102 (.queue 0 0) modePay (took p 0x0102 modePay) ∧
        modeFieldsBad modePay = false ∧ (bit (le modePay 0 1) 5 = true → le modePay 6 1 = set0.lanes) ∧
        stepBusy (took p 0x0102 modePay) = true) ∧
    (Takes (st (sent base 0x0102 modePay)) (.queue 0) 0x0102 (.queue 0 0) modePay (took base 0x0102 modePay) ∧
        stepBusy (took base 0x0102 modePay) = false ∧ set0.pend = none ∧ le modePay 0 1 % 32 ≠ 0) ∧
    (Takes (p3 base 0x0801 openPay) (.queue 0) 0x0801 (.queue 0 0) openPay (took base 0x0801 openPay) ∧
      ({} : Settings).envAct = 3 ∧ openFieldsBad openPay = false) ∧
    (Takes (p3 base 0x0803 zero64) (.queue 0) 0x0803 (.queue 0 0) zero64 (took base 0x0803 zero64) ∧
      stepNumBad (took base 0x0803 zero64) zero64 = false) ∧
    (Takes (p3 base 0x0301 matDesc) (.queue 0) 0x0301 (.queue 0 0) matDesc (took base 0x0301 matDesc) ∧
      commandBad (· == 1) matDesc = false) ∧
    (Takes (p3 base 0x0302 groupDesc) (.queue 0) 0x0302 (.queue 0 0) groupDesc (took base 0x0302 groupDesc) ∧
      commandBad (· == 2) groupDesc = false) ∧
    (Takes (p3 base 0x0310 chainDesc) (.queue 0) 0x0310 (.queue 0 0) chainDesc (took base 0x0310 chainDesc) ∧
      commandBad (· == 0x10) chainDesc = false) :=
  ⟨⟨takes_sent _ _ _ _ rfl rfl, by decide +kernel⟩, ⟨takes_sent _ _ _ _ rfl rfl, by decide +kernel⟩,
    ⟨takes_sent _ _ _ _ rfl rfl, by decide +kernel⟩, ⟨takes_sent _ _ _ _ rfl rfl, by decide +kernel⟩,
    ⟨takes_sent _ _ _ _ rfl rfl, by decide +kernel⟩, ⟨takes_sent _ _ _ _ rfl rfl, by decide +kernel⟩,
    takes_sent _ _ _ _ rfl rfl, by decide +kernel⟩

theorem meets_StepOpens :
    let p := took (stp {}) 0x0801 openPay
    Takes (st (sent (stp {}) 0x0801 openPay)) (.queue 0) 0x0801 (.queue 0 0) openPay p ∧
      openFieldsBad openPay = false ∧ p.upd.cfg ≠ none ∧ set0.envAct ≠ 3 ∧
      (p.step.state = .none ∨ p.step.state = .committed ∨ p.step.state = .aborted) ∧
      p.reshard.round = none ∧ p.reshard.held = [] ∧ p.reshard.active = false ∧
      (oEpoch openPay = 0xFFFF ∨ oEpoch openPay = p.reshard.epoch) ∧
      (oBase openPay = true ∨ (p.step.torn = false ∧ ∃ n, p.step.committedNum = some n ∧ oStep openPay = (n + 1) % 2 ^ 64)) ∧
      failedIn set0 p (uConst (cfgOf p)) 64 = none :=
  ⟨takes_sent _ _ _ _ rfl rfl, by decide +kernel, by decide +kernel, by decide, .inl rfl, rfl, rfl, rfl,
    by decide +kernel, .inl (by decide +kernel), by decide +kernel⟩

theorem meets_StepPacketsInTurn :
    (let p := stp { state := .opened };
      Takes (st (sent p 0x0802 zero64)) (.queue 0) 0x0802 (.queue 0 0) zero64 (took p 0x0802 zero64) ∧
        zeros zero64 4 60 = true ∧ p.step.aborting = false ∧ p.step.state = .opened ∧ p.step.failMask = 0 ∧
        p.step.abortDue = false ∧ (∀ f ∈ p.pipe.fixtures, f.launched = true ∨ ofStep p f = false)) ∧
    (let p := stp { state := .opened, failMask := 2 };
      Takes (st (sent p 0x0802 zero64)) (.queue 0) 0x0802 (.queue 0 0) zero64 (took p 0x0802 zero64) ∧
        p.step.aborting = false ∧ p.step.state = .opened ∧ p.step.failMask ≠ 0) ∧
    (let p := stp { state := .sealed };
      Takes (st (sent p 0x0803 zero64)) (.queue 0) 0x0803 (.queue 0 0) zero64 (took p 0x0803 zero64) ∧
        stepNumBad p zero64 = false ∧ p.step.state = .sealed ∧ set0.envAct ≠ 3 ∧
        (∀ e ∈ p.upd.layers, ringMismatch p e = false)) ∧
    (let p := stp { state := .sealing };
      Takes (st (sent p 0x0804 zero64)) (.queue 0) 0x0804 (.queue 0 0) zero64 (took p 0x0804 zero64) ∧
        stepNumBad p zero64 = false ∧ (p.step.state = .opened ∨ p.step.state = .sealing ∨ p.step.state = .sealed)) :=
  ⟨⟨takes_sent _ _ _ _ rfl rfl, by decide +kernel⟩, ⟨takes_sent _ _ _ _ rfl rfl, by decide +kernel⟩,
    ⟨takes_sent _ _ _ _ rfl rfl, by decide +kernel⟩, takes_sent _ _ _ _ rfl rfl, by decide +kernel⟩

/-- An update configuration whose loss has no slot. -/
def lossless : List Byte := pay (pay [] 60 ++ List.replicate 6 255) 128

/-- STEP 5 is SEALING since fabric time 0 with a TIMEOUT of 1 ms. -/
def sealingPkg (cfg : List Byte) (swept : Bool) (e : Nat) : Pkg :=
  { stp { state := .sealing, num := 5, sealMs := 1, swept } with ft := { count := e * 65536 }, upd := { cfg := some cfg } }

theorem meets_SealsAndAbortsEnd :
    (let p := sealingPkg lossless true 0;
      p.step.state = .sealing ∧ p.step.aborting = false ∧ workDone p = true ∧ p.step.swept = true ∧
        nonfiniteStep p = false) ∧
    (let p := sealingPkg (pay [] 128) true 0; workDone p = true ∧ p.step.swept = true ∧ nonfiniteStep p = true) ∧
    (let p := sealingPkg lossless true 1000000;
      p.step.sealMs ≠ 0 ∧ p.step.tSeal + p.step.sealMs * 1000000 ≤ p.ft.count / 65536) ∧
    (let p := sealingPkg lossless false 0; workDone p = true ∧ p.step.swept = false ∧ p.step.abortDue = false) ∧
    (let p := stp { state := .sealing, aborting := true };
      p.step.aborting = true ∧ p.integ.episode = none ∧ stashRuns p (fun _ => true) = false ∧ p.step.opens = [] ∧
        p.upd.waits = [] ∧ p.reshard.held = [] ∧ p.hollow.pushWait = [] ∧ j1Runs p = [] ∧ p.colls.running = [] ∧
        ∀ g ∈ p.colls.groups, g.stalled = []) := by decide +kernel

/-- Ring 3 of two slots holds version 0 in slot 0; a commit of step 7 waits for its end with slot 1 chosen. -/
def ring3 : Ring := ⟨3, 2, 2, 0, 1, 0, 64, 0, 0, [⟨0, 0, 0⟩]⟩

def committingPkg : Pkg :=
  { stp { state := .committing, num := 7, swept := true, chosen := [(3, 1)] } with rings := { rings := [ring3] } }

theorem meets_CommitPublishes :
    (let p := committingPkg;
      p.step.state = .committing ∧ p.step.aborting = false ∧ p.step.swept = true ∧ p.step.tear = none ∧
        p.step.commitHeld = false ∧ stashRuns p (fun _ => true) = false ∧ updateError set0 p = none ∧ p.step.opens = [] ∧
        p.upd.waits = [] ∧ p.reshard.held = [] ∧ p.hollow.pushWait = [] ∧ j1Runs p = []) ∧
    (committingPkg.rings.version < 65536 ∧ { ring3 with versions := [⟨1, 1, 0⟩] } ∈ (publish committingPkg).rings.rings) := by
  decide +kernel

/-! ### Loading and configuring -/

/-- The package with bytes at an address. -/
def memPkg (p : Pkg) (a : Nat) (bs : List Byte) : Pkg := writeMem set0 a bs p

/-- One entry: ALWAYS, subgraph 1. -/
def branchPay : List Byte := pay [0, 1, 1, 0, 0, 0, 0, 0, 0, 7, 1] 192

def hollowPay : List Byte := pay ([2, 0, 16, 0, 0, 0, 0, 0] ++ leBytes 8 (2 ^ 30) ++ leBytes 8 (2 ^ 20))

/-- Ring 3: two slots of 32 BF16 elements. -/
def ringPay (op : Byte) : List Byte :=
  if op == 0 then pay ([3, 0, 0, 2, 2, 1, 0, 0] ++ leBytes 8 32 ++ leBytes 8 0 ++ leBytes 8 64)
  else if op == 1 then pay [3, 0, 1] else pay [0, 0, 2, 0, 0, 0, 9]

def planPay : List Byte := pay [0, 0, 0, 0, 0, 2, 2]
def routePay : List Byte := pay [1, 0, 0, 0, 0, 1, 3, 0, 4, 0, 4, 0, 4]

/-- ADAM over one layer whose entry is at address 131072. -/
def updPay : List Byte :=
  pay (pay ([0, 0, 1] ++ List.replicate 9 0 ++ leBytes 4 0x3F800000) 24 ++ leBytes 8 131072) 51 ++
    pay [1] 9 ++ List.replicate 6 255 ++ pay [1] 62

/-- One element in BF16, without a ring. -/
def layer : List Byte :=
  leBytes 6 (2 ^ 20) ++ leBytes 6 (2 ^ 21) ++ leBytes 6 (2 ^ 22) ++ leBytes 6 (2 ^ 23) ++ leBytes 6 (2 ^ 24) ++
    [255, 255] ++ leBytes 5 1 ++ [2, 255, 255] ++ List.replicate 24 0

def updPkg (st : StepState) : Pkg := memPkg { base with step := { state := st } } 131072 layer

theorem meets_ConfigurationPackets :
    (Takes (st (sent base 0x0330 branchPay)) (.queue 0) 0x0330 (.queue 0 0) branchPay (took base 0x0330 branchPay) ∧
      branchTableBad branchPay = false) ∧
    (let b := pay (leBytes 8 (2 ^ 30) ++ leBytes 8 (2 ^ 30));
      Takes (st (sent base 0x0202 b)) (.queue 0) 0x0202 (.queue 0 0) b (took base 0x0202 b) ∧
        fillerFieldsBad b = false ∧ (∀ r ∈ fillerTaken set0 base, overlaps (le b 0 8) (le b 8 8) r.1 r.2 = false) ∧
        stepBusy base = false ∧ (∀ g ∈ base.tasks.graphs, g.j1 = false) ∧ (∀ i ∈ base.tasks.insts, i.graph = none)) ∧
    (Takes (st (sent base 0x0401 hollowPay)) (.queue 0) 0x0401 (.queue 0 0) hollowPay (took base 0x0401 hollowPay) ∧
      hollowFieldsBad hollowPay = false ∧ hollowRoomBad base hollowPay = false ∧ stepBusy base = false ∧
        (hollowAt base 2).segs = [] ∧ stashRuns base (· == 2) = false) ∧
    (Takes (st (sent base 0x0402 (ringPay 0))) (.queue 0) 0x0402 (.queue 0 0) (ringPay 0) (took base 0x0402 (ringPay 0)) ∧
      ringFieldsBad base (ringPay 0) = false ∧ stepBusy base = false ∧ le (ringPay 0) 2 1 = 0 ∧ ringOf base 3 = none) ∧
    (Takes (st (sent base 0x0402 (ringPay 1))) (.queue 0) 0x0402 (.queue 0 0) (ringPay 1) (took base 0x0402 (ringPay 1)) ∧
      ringFieldsBad base (ringPay 1) = false ∧ le (ringPay 1) 2 1 = 1 ∧ ringNeeded base 3 = false) ∧
    (Takes (st (sent base 0x0402 (ringPay 2))) (.queue 0) 0x0402 (.queue 0 0) (ringPay 2) (took base 0x0402 (ringPay 2)) ∧
      ringFieldsBad base (ringPay 2) = false ∧ le (ringPay 2) 2 1 = 2 ∧ base.rings.rings = []) ∧
    (Takes (st (sent base 0x0104 planPay)) (.queue 0) 0x0104 (.queue 0 0) planPay (took base 0x0104 planPay) ∧
      linkFieldsBad set0 planPay = false ∧ cSetRoute planPay = false) ∧
    (Takes (st (sent base 0x0104 routePay)) (.queue 0) 0x0104 (.queue 0 0) routePay (took base 0x0104 routePay) ∧
      linkFieldsBad set0 routePay = false ∧ cSetRoute routePay = true ∧ cTableMode routePay = false ∧
        anyStage base = false ∧ anyGroup base = false ∧ base.reshard.active = false ∧ stepBusy base = false ∧
        le routePay 0 4 ≠ base.links.addr ∧ le routePay 0 4 = ({ addr := 1 } : Links).addr) ∧
    (let p := updPkg .opened; let layers := chunksOf 64 1 (readMem set0 p 131072 64);
      Takes (st (sent p 0x0805 updPay)) (.queue 0) 0x0805 (.queue 0 0) updPay (took p 0x0805 updPay) ∧
        updatePayloadBad updPay = false ∧ readError set0 p (uTable updPay) (64 * uLayers updPay) = none ∧
        (∀ k, k < uLayers updPay → layerBad false (uAdam updPay) (layers.getD k []) = false) ∧
        p.reshard.active = false ∧ stepBusy p = true ∧ stepBusy (updPkg .none) = false) ∧
    (Memory.wf base.mem.cells = true ∧ (∀ e ∈ [layer], lGrad e + 4 * lCount e ≤ regionSize) ∧
      (lGrad layer ≤ lGrad layer + 3 ∧ lGrad layer + 3 < lGrad layer + 4 * lCount layer ∧
        (∀ e ∈ [layer], 0 < lGrad e ∨ lGrad e + 4 * lCount e ≤ 0))) :=
  ⟨⟨takes_sent _ _ _ _ rfl rfl, by decide +kernel⟩, ⟨takes_sent _ _ _ _ rfl rfl, by decide +kernel⟩,
    ⟨takes_sent _ _ _ _ rfl rfl, by decide +kernel⟩, ⟨takes_sent _ _ _ _ rfl rfl, by decide +kernel⟩,
    ⟨takes_sent _ _ _ _ rfl rfl, by decide +kernel⟩, ⟨takes_sent _ _ _ _ rfl rfl, by decide +kernel⟩,
    ⟨takes_sent _ _ _ _ rfl rfl, by decide +kernel⟩, ⟨takes_sent _ _ _ _ rfl rfl, by decide +kernel⟩,
    ⟨takes_sent _ _ _ _ rfl rfl, by decide +kernel⟩, by decide +kernel⟩

/-- A graph of one join task without tokens, at address 65536. -/
def joinDesc : List Byte := taskDesc 0x60 1 []
def loadPay : List Byte := pay ([5, 0, 0, 0, 1, 0, 0, 0] ++ leBytes 8 65536)
def graphPkg : Pkg := memPkg base 65536 joinDesc
def resident : Pkg := { base with tasks := { graphs := [⟨5, false, [joinDesc], []⟩] } }

theorem meets_GraphsLoadRunAndUnload :
    (let p := graphPkg
      let tasks := chunksOf 128 1 (readMem set0 p 65536 128);
      Takes (st (sent p 0x0320 loadPay)) (.queue 0) 0x0320 (.queue 0 0) loadPay (took p 0x0320 loadPay) ∧
        graphPayloadBad loadPay = false ∧ gOp loadPay = 0 ∧ readError set0 p 65536 128 = none ∧
        gArray loadPay = 65536 ∧ gTasks loadPay = 1 ∧ gTokens loadPay = 0 ∧ readError set0 p (gTable loadPay) 0 = none ∧
        graphBad false tasks [] = none ∧ graphOf p 5 = none ∧ residentFull p 1 = false) ∧
    (let b := pay [5, 0, 3];
      Takes (st (sent resident 0x0320 b)) (.queue 0) 0x0320 (.queue 0 0) b (took resident 0x0320 b) ∧
        graphPayloadBad b = false ∧ gOp b = 3 ∧ graphOf resident 5 = some ⟨5, false, [joinDesc], []⟩ ∧
        graphLive resident 5 = false ∧ fixtureNames resident 5 = false) ∧
    (let b := pay [5, 0, 2];
      Takes (st (sent resident 0x0320 b)) (.queue 0) 0x0320 (.queue 0 0) b (took resident 0x0320 b) ∧
        graphPayloadBad b = false ∧ gOp b = 2 ∧ graphOf resident 5 = some ⟨5, false, [joinDesc], []⟩ ∧
        liveNumber resident 5 (gInst b) = false ∧ stepShut resident = false ∧ roomFor resident 5 = true ∧
        resident.step.abortDue = false ∧ (∀ i ∈ resident.tasks.insts, i.iid ≠ resident.tasks.nextIid)) :=
  ⟨⟨takes_sent _ _ _ _ rfl rfl, by decide +kernel⟩, ⟨takes_sent _ _ _ _ rfl rfl, by decide +kernel⟩,
    takes_sent _ _ _ _ rfl rfl, by decide +kernel⟩

/-! ### Tasks -/

/-- A tensor descriptor (R85) of one element, or of no more than its first extent. -/
def tdesc (addr fmt e0 stride0 : Nat) : List Byte :=
  leBytes 6 addr ++ leBytes 1 fmt ++ [1, 255, 255, 0, 0, 0, 0, 0, 0] ++ leBytes 4 e0 ++ leBytes 4 1 ++ leBytes 4 1 ++ leBytes 4 1 ++ leBytes 4 1 ++ leBytes 1 stride0 ++ List.replicate 27 0

/-- One BF16 element at 4096, one at 8192, one FP32 element at 12288. -/
def tensors : List Tensor := [tdesc 4096 2 1 2, tdesc 8192 2 1 2, tdesc 12288 0 1 4].map parseTensor

/-- The group table's entry for the same product. -/
def groupEntry : List Byte :=
  leBytes 6 4096 ++ leBytes 6 0 ++ leBytes 6 8192 ++ leBytes 6 0 ++ leBytes 6 12288 ++ [0, 0] ++ leBytes 4 1 ++
    leBytes 4 1 ++ leBytes 4 1 ++ List.replicate 20 0

/-- The tensors of the group: the task's, then A and B. -/
def groupTs : List Tensor := tensors ++ tensors.take 2

/-- Those descriptors at address 65536, which is offset 4096 of stack 0, and the group table at 131072, offset 8192. -/
def workPkg : Pkg :=
  { base with mem := { base.mem with cells :=
    [(4097, 16), (4102, 2), (4103, 1), (4104, 255), (4105, 255), (4112, 1), (4116, 1), (4120, 1), (4124, 1), (4128, 1),
      (4132, 2), (4161, 32), (4166, 2), (4167, 1), (4168, 255), (4169, 255), (4176, 1), (4180, 1), (4184, 1),
      (4188, 1), (4192, 1), (4196, 2), (4225, 48), (4231, 1), (4232, 255), (4233, 255), (4240, 1), (4244, 1),
      (4248, 1), (4252, 1), (4256, 1), (4260, 4), (8193, 16), (8205, 32), (8217, 48), (8224, 1), (8228, 1),
      (8232, 1)] } }

theorem test_work_cells :
    workPkg = memPkg (memPkg base 65536 (tdesc 4096 2 1 2 ++ tdesc 8192 2 1 2 ++ tdesc 12288 0 1 4)) 131072 groupEntry := by
  decide +kernel

/-- What `x` answers, as a Bool. -/
def answers {ε α : Type} [DecidableEq α] (x : Except ε α) (a : α) : Bool :=
  match x with | .ok b => b == a | .error _ => false

theorem ok_of_answers {ε α : Type} [DecidableEq α] {x : Except ε α} {a : α} (h : answers x a = true) : x = .ok a := by
  cases x <;> simp_all [answers]

theorem meets_TaskCommandsStart :
    (Takes (st (sent workPkg 0x0201 copyDesc)) (.queue 0) 0x0201 (.queue 0 0) copyDesc (took workPkg 0x0201 copyDesc) ∧
      stepShut workPkg = false ∧ commandBad (· == 0x50) copyDesc = false) ∧
    (Takes (st (sent workPkg 0x0301 matDesc)) (.queue 0) 0x0301 (.queue 0 0) matDesc (took workPkg 0x0301 matDesc) ∧
      commandBad (· == 1) matDesc = false ∧
      readProducts set0 (took workPkg 0x0301 matDesc) (commandInst (.queue 0 0) 0x0301 matDesc [.whole] (took workPkg 0x0301 matDesc))
        matDesc = .ok (none, [(0, 0, tensors)]) ∧
      placeProducts set0 (took workPkg 0x0301 matDesc) (commandInst (.queue 0 0) 0x0301 matDesc [.whole] (took workPkg 0x0301 matDesc))
        matDesc .whole (none, [(0, 0, tensors)]) = .ok ([(0, 0, tensors)], [])) ∧
    (Takes (st (sent workPkg 0x0302 groupDesc)) (.queue 0) 0x0302 (.queue 0 0) groupDesc (took workPkg 0x0302 groupDesc) ∧
      commandBad (· == 2) groupDesc = false ∧
      readProducts set0 (took workPkg 0x0302 groupDesc) (commandInst (.queue 0 0) 0x0302 groupDesc [.whole] (took workPkg 0x0302 groupDesc))
        groupDesc = .ok (none, [(0, 0, groupTs)]) ∧
      placeProducts set0 (took workPkg 0x0302 groupDesc) (commandInst (.queue 0 0) 0x0302 groupDesc [.whole] (took workPkg 0x0302 groupDesc))
        groupDesc .whole (none, [(0, 0, groupTs)]) = .ok ([(0, 0, groupTs)], [])) ∧
    (Takes (st (sent workPkg 0x0310 chainDesc)) (.queue 0) 0x0310 (.queue 0 0) chainDesc (took workPkg 0x0310 chainDesc) ∧
      commandBad (· == 0x10) chainDesc = false ∧
      (let p := took workPkg 0x0310 chainDesc
       let i := commandInst (.queue 0 0) 0x0310 chainDesc [.whole] p
       let c := parseChain (tBody chainDesc);
       prepare set0 p i chainDesc (chainOuts c) = .go tensors [] ∧
        chainTensorsBad c (fun k => tensors.getD k noTensor) (tensors.getD c.iter noTensor).ext false = false)) ∧
    (base.step.abortDue = false ∧ base.step.commitHeld = false ∧ (∀ i ∈ base.tasks.insts, i.iid ≠ base.tasks.nextIid) ∧ tIns matDesc = [] ∧
      tOuts matDesc = [] ∧ tSub matDesc = 0 ∧ base.tasks.held = []) :=
  ⟨⟨takes_sent _ _ _ _ rfl rfl, by decide +kernel⟩,
    ⟨takes_sent _ _ _ _ rfl rfl, by decide +kernel, ok_of_answers (by decide +kernel), ok_of_answers (by decide +kernel)⟩,
    ⟨takes_sent _ _ _ _ rfl rfl, by decide +kernel, ok_of_answers (by decide +kernel), ok_of_answers (by decide +kernel)⟩,
    ⟨takes_sent _ _ _ _ rfl rfl, by decide +kernel⟩, by decide +kernel⟩

/-- Instance 0, its one task ready since fabric time 0. -/
def inst (d : List Byte) : Inst :=
  { iid := 0, graph := none, num := 0, j1 := false, origin := .packet .nobody 0x0320 0, step := some 0, inStep := true
    mode := 0, descs := [d], parts := [], toks := [], tasks := [.ready 0], started := 0 }

/-- The package with that instance alone. -/
def readyPkg (d : List Byte) : Pkg := { workPkg with tasks := { insts := [inst d], nextIid := 1 } }

theorem meets_TasksLaunch :
    (launchable set0 (readyPkg matDesc) 0 0 1 = some (inst matDesc, some 0) ∧
      readProducts set0 (readyPkg matDesc) (inst matDesc) matDesc = .ok (none, [(0, 0, tensors)]) ∧
      placeProducts set0 (readyPkg matDesc) (inst matDesc) matDesc .whole (none, [(0, 0, tensors)]) =
        .ok ([(0, 0, tensors)], [])) ∧
    (launchable set0 (readyPkg groupDesc) 0 0 2 = some (inst groupDesc, some 0) ∧
      readProducts set0 (readyPkg groupDesc) (inst groupDesc) groupDesc = .ok (none, [(0, 0, groupTs)]) ∧
      placeProducts set0 (readyPkg groupDesc) (inst groupDesc) groupDesc .whole (none, [(0, 0, groupTs)]) =
        .ok ([(0, 0, groupTs)], [])) ∧
    (launchable set0 (readyPkg chainDesc) 0 0 0x10 = some (inst chainDesc, some 0) ∧
      prepare set0 (readyPkg chainDesc) (inst chainDesc) chainDesc [2] = .go tensors [] ∧
      chainOuts (parseChain (tBody chainDesc)) = [2] ∧
      chainTensorsBad (parseChain (tBody chainDesc)) (fun k => tensors.getD k noTensor) [1, 1, 1, 1, 1] false = false ∧
      (chainRun set0 (readyPkg chainDesc) (inst chainDesc) 0 0 tensors []).fate ≠ stIndex) ∧
    (launchable set0 (readyPkg copyDesc) 0 0 0x50 = some (inst copyDesc, some 0x0303) ∧
      prepare set0 (readyPkg copyDesc) (inst copyDesc) copyDesc [2] = .go tensors [] ∧
      copyTensorsBad 1 (tensors.getD 0 noTensor) (tensors.getD 2 noTensor) = false ∧
      rowError set0 (readyPkg copyDesc) (tensors.getD 0 noTensor) = none) :=
  ⟨⟨by decide +kernel, ok_of_answers (by decide +kernel), ok_of_answers (by decide +kernel)⟩,
    ⟨by decide +kernel, ok_of_answers (by decide +kernel), ok_of_answers (by decide +kernel)⟩, by decide +kernel,
    by decide +kernel⟩

/-- A BRANCH of table 0 on summary slot 3 between subgraphs 1 and 2. -/
def branchDesc : List Byte := taskDesc 0x70 1 [0, 0, 3, 0, 2, 0, 0, 0, 1, 2]
def sendDesc : List Byte := taskDesc 0x30 3 [2, 0, 0]
def releaseDesc : List Byte := taskDesc 0x22 3 [2]
def drainDesc : List Byte := taskDesc 0x21 3 [2, 0, 0, 255, 7, 0, 255, 255]
def pushDesc : List Byte := taskDesc 0x20 3 [2, 1, 0, 255, 7, 0]

/-- The frame of tensor 0 in unit 0, and the hollow of stage 2 with it as its only frame. -/
def kept : Kept := ⟨7, 2, [1, 1, 1, 1, 1], false, 2, [0], false, 0, none⟩
def hollow2 (segs : List Segment) : Hollows :=
  { stages := List.replicate 2 {} ++ [{ on := true, base := 2 ^ 30, size := 2 ^ 20, segs }] ++ List.replicate 5 {} }

/-- Stage 2 is job stage 4; its downstream neighbour is job stage 5 on this package. -/
def stage2 : Stage :=
  { on := true, cfg := pay ([2, 0, 4, 0, 255, 255, 5, 0] ++ List.replicate 8 255) 128, down := ⟨2, [0, 1], none⟩ }
def stagePkg (p : Pkg) (s : Stage) : Pkg :=
  { p with pipe := { stages := List.replicate 2 {} ++ [s] ++ List.replicate 5 {} } }

/-- A join of layout epoch 3. -/
def staleJoin : List Byte := joinDesc.set 6 3

theorem meets_ControlAndStashTasksLaunch :
    (launchable set0 (readyPkg joinDesc) 0 0 0x60 = some (inst joinDesc, some 0x0200) ∧
      prepare set0 (readyPkg joinDesc) (inst joinDesc) joinDesc [] = .go (tensors.take 1) []) ∧
    (launchable set0 (readyPkg staleJoin) 0 0 0x60 = some (inst staleJoin, some 0x0200) ∧ tEpoch staleJoin ≠ 0xFFFF ∧
      tEpoch staleJoin ≠ (readyPkg staleJoin).reshard.epoch) ∧
    (let p := { readyPkg branchDesc with tasks := { (readyPkg branchDesc).tasks with branches := [branchPay] } };
      launchable set0 p 0 0 0x70 = some (inst branchDesc, some 0x0200) ∧
        prepare set0 p (inst branchDesc) branchDesc [] = .go (tensors.take 1) [] ∧
        p.tasks.branches.find? (fun t => le t 0 1 == le (tBody branchDesc) 0 1) = some branchPay ∧
        branchChoice branchPay (summaryAt p (inst branchDesc) 3) ∈ branchSubs (tBody branchDesc)) ∧
    (let p := stagePkg (readyPkg sendDesc) stage2;
      launchable set0 p 0 0 0x30 = some (inst sendDesc, some 0x0301) ∧
        prepare set0 p (inst sendDesc) sendDesc [] = .go tensors [] ∧
        sendFails p (inst sendDesc) (tBody sendDesc) (tensors.getD 0 noTensor) = none) ∧
    (let p := readyPkg releaseDesc;
      launchable set0 p 0 0 0x22 = some (inst releaseDesc, some 0x0300) ∧
        prepare set0 p (inst releaseDesc) releaseDesc [] = .go tensors []) ∧
    (let p := { readyPkg drainDesc with hollow := hollow2 [⟨0, [kept]⟩] }
      let b := tBody drainDesc;
      launchable set0 p 0 0 0x21 = some (inst drainDesc, some 0x0300) ∧
        prepare set0 p (inst drainDesc) drainDesc [0] = .go tensors [] ∧ stashBitsBad b tensors = false ∧
        sharesOther tensors 0 [0] = false ∧ (hollowAt p 2).on = true ∧ segmentOf (hollowAt p 2) 0 = some ⟨0, [kept]⟩ ∧
        drainFrame ⟨0, [kept]⟩ b = some (0, kept) ∧ drainBadFit b tensors kept = false ∧ kept.dropped = false ∧
        frameError set0 p (hollowAt p 2) kept = none) ∧
    (let p := { readyPkg pushDesc with hollow := hollow2 [] };
      launchable set0 p 0 0 0x20 = some (inst pushDesc, some 0x0300) ∧
        prepare set0 p (inst pushDesc) pushDesc [] = .go tensors [] ∧ stashBitsBad (tBody pushDesc) tensors = false ∧
        (hollowAt p 2).on = true ∧ pushMay p (inst pushDesc) 0 = true) ∧
    (let p := { readyPkg pushDesc with hollow := hollow2 ((List.range 64).map fun k => ⟨k + 1, []⟩) };
      pushMay p (inst pushDesc) 0 = false) :=
  ⟨by decide +kernel, by decide +kernel, by decide +kernel, by decide +kernel, by decide +kernel, by decide +kernel,
    by decide +kernel, by decide +kernel⟩

theorem meets_StartTakesTokens :
    instOf (readyPkg joinDesc) 0 = some (inst joinDesc) ∧
      ((inst joinDesc).noMore = true ∨ ∀ d ∈ (inst joinDesc).descs, tSub d = 0) ∧ 0 < (inst joinDesc).tasks.length := by
  decide +kernel

/-- The run of task 0 of instance 0. -/
def run (u : Nat) (work : List Work) : Run := { iid := 0, task := 0, unit := u, j1 := false, began := 0, tensors, work }

/-- Task 0 of instance 0 runs beside a second task of the instance. -/
def runPkg (d : List Byte) (r : Run) : Pkg :=
  { workPkg with tasks := { insts := [{ inst d with tasks := [.running, .running] }], runs := [r], nextIid := 1 } }

theorem meets_PushPlacesFrames :
    (let p := { runPkg pushDesc (run 0x0300 []) with hollow := hollow2 [⟨0, [kept]⟩] };
      instOf p 0 = some { inst pushDesc with tasks := [.running, .running] } ∧ runOf p 0 0 = some (run 0x0300 []) ∧
        2 < p.hollow.stages.length ∧ segmentOf (hollowAt p 2) 0 = some ⟨0, [kept]⟩ ∧ [kept].length < 256 ∧
        placeFrame (hollowAt p 2) true (newFrame (tBody pushDesc) tensors).size = .stored [1] ∧
        pushError set0 p (tBody pushDesc) tensors = none ∧
        cacheShare (hollowAt p 2) < (newFrame (tBody pushDesc) tensors).size) ∧
    (let h := { hollowAt { base with hollow := hollow2 [⟨0, [kept]⟩] } 2 with cache := 16 };
      placeFrame h true (newFrame (tBody pushDesc) tensors).size = .stored [1] ∧
        cacheUsed h + (newFrame (tBody pushDesc) tensors).size ≤ cacheShare h) ∧
    (let h := (hollowAt { base with hollow := hollow2 [⟨0, [kept]⟩] } 2);
      placeFrame { h with reserve := 2 ^ 20 } false (newFrame (tBody pushDesc) tensors).size = .dropped) := by
  decide +kernel

theorem meets_TasksComplete :
    let p := runPkg joinDesc (run 0x0200 [])
    let i := { inst joinDesc with tasks := [.running, .running] }
    instOf p 0 = some i ∧ runOf p 0 0 = some (run 0x0200 []) ∧ (run 0x0200 []).work = [] ∧ (run 0x0200 []).fate = 0 ∧
      mayEnd set0 p (run 0x0200 []) = true ∧ p.step.commitHeld = false ∧ i.noMore = false ∧ p.step.abortDue = false ∧ 0 < i.tasks.length ∧
      1 ≠ 0 ∧ i.tasks[1]? = some .running ∧
      (∀ e ∈ [(⟨1, 0, 5, false⟩ : MemErr)], e.fatal = false) ∧ (∃ e ∈ [(⟨2, 5, 5, true⟩ : MemErr)], e.fatal = true) := by
  decide +kernel

theorem meets_SendsTransmit :
    let r := { run 0x0301 [] with waits := true }
    let p := stagePkg (runPkg sendDesc r) stage2
    instOf p 0 = some { inst sendDesc with tasks := [.running, .running] } ∧ runOf p 0 0 = some r ∧
      tType sendDesc = 0x30 ∧ r.waits = true ∧ (stageAt p 2).resync = false ∧ 0 % 2 ∈ (viewOf (stageAt p 2) false).free ∧
      tensorReadError set0 p (tensors.getD 0 noTensor) = none ∧ ({ stage2 with resync := true } : Stage).resync = true := by
  decide +kernel

/-- The checked tile of the product. -/
def tile0 : Tile := makeTile set0 workPkg (matOf matDesc) tensors 0 0 true [0, 0, 0] [0] [0] 1

theorem meets_RunningWorkIsChecked :
    (let r := run 0 [.tile tile0]
      let p := runPkg matDesc r;
      instOf p 0 = some { inst matDesc with tasks := [.running, .running] } ∧ runOf p 0 0 = some r ∧ frozen p r = false ∧
        p.step.abortDue = false ∧ r.work = .tile tile0 :: [] ∧ tile0.checked = true ∧
        .fail ∉ rowVerdicts tile0 (tolerance 0 1) ++ colVerdicts tile0 (tolerance 0 1)) ∧
    (let r := run 0 [];
      hasStrips (inst chainDesc) 0 r = true ∧ r.work = [] ∧ r.iid = 0 ∧ (1 : W32) ≠ 2) ∧
    (let p : Pkg := { base with ft := { base.ft with count := 1024000000 } };
      (p.tasks.cores.getD 5 {}).shadowAt + 1024000000 ≤ p.ft.count) ∧
    (let r := { run 5 [] with j1 := true }
      let p := runPkg matDesc r;
      r.unit = 5 ∧ r.j1 = true ∧ set0.filler = false ∧ p.step.commitHeld = false ∧ bestFor set0 (pauseJ1 5 p) 5 = none) := by
  decide +kernel

/-- A product that waits for one token of FEEDER 2 and prefetches tensor 0. -/
def fetchDesc : List Byte := pay (matDesc.take 16 ++ leBytes 4 0x81000000) 32 ++ matDesc.drop 32

theorem meets_PrefetchFillsAStore :
    let tok : List Byte := [1, 0, 2, 0, 2, 0, 0, 0]
    let g : Graph := ⟨5, false, [fetchDesc], [tok]⟩
    let i := { inst fetchDesc with graph := some 5, toks := [⟨1, 0, 0, 0⟩], tasks := [.waiting] }
    let p := { workPkg with tasks := { graphs := [g], insts := [i], nextIid := 1 } }
    instOf p 0 = some i ∧ prefetchable p i 0 = true ∧ placeCore set0 p fetchDesc false = some 0 ∧
      nextOnCore set0 p i 0 0 = true ∧ tPrefetch fetchDesc = 0 ∧
      readDescs set0 p i fetchDesc [] = .go tensors [] ∧
      placeTensor p i fetchDesc false (tensors.getD 0 noTensor) = .ok (tensors.getD 0 noTensor) none ∧ healthy p = true := by
  decide +kernel

/-! ### Fixtures and stage links -/

/-- CONFIGURE of stage 2: job stage 4 without neighbours, slots of 1000 ns, generation 3. -/
def cfgPay (op : Byte) : List Byte :=
  if op == 1 then pay [2, 1] 128
  else pay ([2, 0, 4, 0, 255, 255, 255, 255] ++ List.replicate 22 0 ++ leBytes 2 3 ++ List.replicate 12 0 ++ leBytes 4 1000) 128

/-- A fixture of graph 5 on stage 2: T = 0, W = 10, micro-batch 6 of step 0, span 1. -/
def fixtureEntry (flags : Byte) : List Byte :=
  leBytes 8 0 ++ leBytes 4 10 ++ leBytes 2 5 ++ leBytes 2 6 ++ leBytes 4 0 ++ [2, flags, 1] ++ List.replicate 9 0

def fixPay : List Byte := pay ([0, 0, 1, 0, 0, 0, 0, 0] ++ leBytes 8 65536)

/-- Stage 2 configured, the graph resident, and the entry at address 65536. -/
def fixPkg : Pkg := memPkg (stagePkg resident { on := true, cfg := cfgPay 0 }) 65536 (fixtureEntry 0)

theorem meets_StagesAndFixtureTables :
    (Takes (st (sent base 0x0501 (cfgPay 0))) (.queue 0) 0x0501 (.queue 0 0) (cfgPay 0) (took base 0x0501 (cfgPay 0)) ∧
      stageFieldsBad base.links (cfgPay 0) = false ∧ stageRoomBad base (cfgPay 0) = false ∧ stepBusy base = false ∧
        stageUsed base 2 = false ∧ base.tasks.runs = [] ∧ le (cfgPay 0) 1 1 = 0 ∧ 2 < base.pipe.stages.length) ∧
    (Takes (st (sent base 0x0501 (cfgPay 1))) (.queue 0) 0x0501 (.queue 0 0) (cfgPay 1) (took base 0x0501 (cfgPay 1)) ∧
      stageFieldsBad base.links (cfgPay 1) = false ∧ le (cfgPay 1) 1 1 = 1) ∧
    (Takes (st (sent fixPkg 0x0502 fixPay)) (.queue 0) 0x0502 (.queue 0 0) fixPay (took fixPkg 0x0502 fixPay) ∧
      (le fixPay 0 1 = 0 ∧ le fixPay 1 1 = 0 ∧ le fixPay 2 2 = 1 ∧ zeros fixPay 4 4 = true ∧ zeros fixPay 16 48 = true ∧
        addrOk (le fixPay 8 8) 32 32 = true ∧ readError set0 fixPkg 65536 32 = none ∧
        chunksOf 32 1 (readMem set0 fixPkg 65536 32) = [fixtureEntry 0] ∧
        fixtureError fixPkg [fixtureEntry 0] = none ∧ (∀ e ∈ [fixtureEntry 0], stepPast fixPkg e = false) ∧
        1 ≤ freeFixtures fixPkg)) ∧
    (let b := pay [1, 255];
      Takes (st (sent base 0x0502 b)) (.queue 0) 0x0502 (.queue 0 0) b (took base 0x0502 b) ∧
        (le b 0 1 = 1 ∧ le b 1 1 = 0xFF ∧ zeros b 2 6 = true ∧ zeros b 8 56 = true ∧ base.step.state = .none)) :=
  ⟨⟨takes_sent _ _ _ _ rfl rfl, by decide +kernel⟩, ⟨takes_sent _ _ _ _ rfl rfl, by decide +kernel⟩,
    ⟨takes_sent _ _ _ _ rfl rfl, by decide +kernel⟩, takes_sent _ _ _ _ rfl rfl, by decide +kernel⟩

/-- The fixture waits in the table while step 0 is open, at fabric time `t` ns. -/
def waitingFix (flags : Byte) (t : Nat) : Pkg :=
  { fixPkg with
    step := { state := .opened }, ft := { count := t * 65536 }
    pipe := { fixPkg.pipe with
      fixtures := [{ id := 0, entry := fixtureEntry flags, q := 0, seq := 0, qtag := 0, replyAddr := 0 }], nextFix := 1 } }

theorem meets_FixturesLaunch :
    (let p := waitingFix 0 5
      let f : Fixture := { id := 0, entry := fixtureEntry 0, q := 0, seq := 0, qtag := 0, replyAddr := 0 };
      nextFixture p 2 = some f ∧ neededMsgs p f.entry = some [] ∧
        graphOf p 5 = some ⟨5, false, [joinDesc], []⟩ ∧ (stageAt p 2).on = true ∧ (stageAt p 2).resync = false ∧
        fixtureOpen p f.entry = true ∧ (launchRule (stageAt p 2) f.entry none p.step.openAt).l ≤ p.ft.count ∧ p.step.commitHeld = false ∧
        liveNumber p 5 6 = false ∧ roomFor p 5 = true ∧ p.step.abortDue = false ∧
        (∀ i ∈ p.tasks.insts, i.iid ≠ p.tasks.nextIid)) ∧
    (let p := waitingFix 4 10000010;
      (p.pipe.fixtures.find? (fun f => !f.launched && !f.hung && fStage f.entry == 2 && fixtureOpen p f.entry &&
        decide (watchEnd p f.entry ≤ p.ft.count))).isSome = true) := by
  decide +kernel

/-- Stage 2 with an upstream neighbour, job stage 3, on this package: two slots of 4096 bytes. -/
def fedStage : Stage :=
  { on := true, gen := 3, down := ⟨2, [], none⟩
    cfg := pay ([2, 0, 4, 0, 3, 0, 5, 0] ++ List.replicate 8 255 ++ leBytes 8 (2 ^ 20) ++ leBytes 4 4096 ++ [2, 0, 3, 0]) 128 }

def stageHdr (kind mb src len : Nat) : StageHdr := ⟨kind, 2, 4, src, 3, 0, mb, 0, len⟩

theorem meets_StageMessages :
    let p := stagePkg base fedStage
    let grad := false
    stageOfJob p 4 = some 2 ∧
    ([1, 2].length = 2 ∧ (stageAt p 2).resync = false ∧ (stageAt p 2).gen = 3 ∧ 3 = (stageAt p 2).neighbour (!grad) ∧
      2 ≤ (stageAt p 2).slotSize grad ∧ (stageAt p 2).msgs = [] ∧ stepDone p 0 = false ∧
      writeError set0 p ((stageAt p 2).base grad + 1 % (stageAt p 2).depth grad * (stageAt p 2).slotSize grad) 2 = none ∧
      p.step.abortDue = false ∧ p.step.commitHeld = false ∧ (stageHdr 0 1 3 2).kind ≤ 1) ∧
    (linkOf (stageAt p 2) 5 = some false ∧ (stageHdr 2 1 5 0).kind = 2 ∧ 1 < (viewOf (stageAt p 2) false).depth ∧
      1 ∉ (viewOf (stageAt p 2) false).free) ∧
    ((stageHdr 3 0 5 0).kind = 3 ∧ (stageHdr 3 0 5 0).gen = (stageAt p 2).gen ∧ 4 ≠ (stageAt p 2).gen) := by
  decide +kernel

/-! ### Collectives and reshards -/

/-- Group 1 of this package alone; its address is 9. -/
def soloPkg (p : Pkg) : Pkg :=
  { p with
    links := { p.links with addr := 9 }
    colls := { groups := [{}, { on := true, n := 1, pos := 0, gen := 3, members := [9] }, {}, {}] } }

/-- CONFIGURE, RELEASE and RESYNC of group 1. -/
def groupPay (op : Byte) : List Byte :=
  if op == 0 then pay ([1, 0, 1, 0, 0, 0, 0, 0] ++ leBytes 8 65536 ++ [3])
  else if op == 1 then pay [1, 1] else pay ([1, 2] ++ List.replicate 14 0 ++ [4])

/-- A collective of type `ty` in group 1 with RID 8 from tensor 0 into tensor 2. -/
def collDesc (ty : Nat) : List Byte :=
  taskDesc ty 3 [1, 0, 0, 0, 8, 0, 0, 0, 0, 255, 255, 255, if ty == 0x41 || ty == 0x43 then 1 else 2, 255, 255]

/-- The collective with RID 8 that runs in group 1 in step 0 and has sent data. -/
def coll8 : Coll :=
  { group := 1, rid := 8, type := 0x42, iid := 0, task := 0, step := some 0, body := tBody (collDesc 0x42), tn := tensors
    version := 0, retired := false, e := 1, ctx := some 0, sentData := true, reduced := [⟨false, 0, 0⟩] }

def collPkg (st : StepState) : Pkg :=
  { soloPkg base with step := { state := st }, colls := { (soloPkg base).colls with running := [coll8] } }

theorem meets_CollectivesStart :
    (let p := soloPkg (memPkg base 65536 [9]);
      Takes (st (sent p 0x0601 (groupPay 0))) (.queue 0) 0x0601 (.queue 0 0) (groupPay 0) (took p 0x0601 (groupPay 0)) ∧
        (groupFieldsBad (groupPay 0) = false ∧ stepBusy p = false ∧ (∀ c ∈ p.colls.running, c.group ≠ 1) ∧
          readError set0 p 65536 4 = none ∧ p.links.addr ≠ 0xFFFFFFFF ∧ [readLe set0 p 65536 4].Nodup ∧
          [readLe set0 p 65536 4][0]? = some p.links.addr)) ∧
    (let p := soloPkg base;
      Takes (st (sent p 0x0601 (groupPay 1))) (.queue 0) 0x0601 (.queue 0 0) (groupPay 1) (took p 0x0601 (groupPay 1)) ∧
        (groupFieldsBad (groupPay 1) = false ∧ le (groupPay 1) 1 1 = 1)) ∧
    (let p := soloPkg base;
      Takes (st (sent p 0x0601 (groupPay 2))) (.queue 0) 0x0601 (.queue 0 0) (groupPay 2) (took p 0x0601 (groupPay 2)) ∧
        (groupFieldsBad (groupPay 2) = false ∧ le (groupPay 2) 1 1 = 2 ∧ (groupOf p 1).on = true ∧
          (groupOf p 1).gen ≠ le (groupPay 2) 16 2)) ∧
    (let p := soloPkg workPkg; let b := collDesc 0x42;
      Takes (st (sent p 0x0602 b)) (.queue 0) 0x0602 (.queue 0 0) b (took p 0x0602 b) ∧
        (commandBad (fun t => 0x40 ≤ t && t ≤ 0x43) b = false ∧ stepShut p = false ∧ p.reshard.active = false)) ∧
    (let p := collPkg .opened; let b := pay [1, 0, 0, 0, 8];
      Takes (st (sent p 0x0603 b)) (.queue 0) 0x0603 (.queue 0 0) b (took p 0x0603 b) ∧
        (zeros b 1 3 = true ∧ zeros b 16 48 = true ∧ le b 0 1 = 1 ∧ 1 < p.colls.groups.length ∧
          sentColl p 1 (le b 4 4) = some (0x42, false) ∧ le b 8 8 = p.step.num ∧ p.step.state = .opened ∧
          p.step.abortDue = false)) :=
  ⟨⟨takes_sent _ _ _ _ rfl rfl, by decide +kernel⟩, ⟨takes_sent _ _ _ _ rfl rfl, by decide +kernel⟩,
    ⟨takes_sent _ _ _ _ rfl rfl, by decide +kernel⟩, ⟨takes_sent _ _ _ _ rfl rfl, by decide +kernel⟩,
    takes_sent _ _ _ _ rfl rfl, by decide +kernel⟩

/-- The collective tasks on that group: a reduction or a gather of one element. -/
theorem meets_CollectivesStart_tasks : ∀ ty ∈ [0x40, 0x41, 0x42, 0x43],
    let d := collDesc ty
    let p := soloPkg (readyPkg d)
    launchable set0 p 0 0 ty = some (inst d, some 0x0302) ∧ answers (collTensors set0 p (inst d) d) (tensors, [], false) = true ∧
      collTensorsBad (groupOf p 1) ty (tBody d) tensors false = false ∧ tType d = ty ∧ (groupOf p 1).on = true ∧
      (groupOf p 1).resync = false ∧ p.reshard.active = false ∧ cThin (tBody d) = 0 ∧
      collReadError set0 p (tBody d) tensors false = none := by
  decide +kernel

def collHdr (kind flags step : Nat) : CollHdr := ⟨kind, 0x42, 1, flags, 8, step, 3, 0, 0, 0, 0, 0, 0, 0, 0, 0, 0, 0⟩

/-- A thinned reduction of a group of three of which this package, position 0, has no contribution but its own. -/
def trioPkg (stalled : List Early) : Pkg :=
  let g : CollGroup := { on := true, n := 3, pos := 0, gen := 3, members := [9, 10, 11], stalled }
  { base with
    step := { state := .opened }
    colls := { groups := [{}, g, {}, {}], running := [{ coll8 with body := coll8.body.set 3 1, reduced := [] }] } }

theorem meets_CollectiveMessages :
    (let h := collHdr 0 0 0; let p := collPkg .opened;
      1 ≠ collDigest h [] ∧ h.kind = 0 ∧ h.group < p.colls.groups.length ∧ p.step.state ≠ .sealing ∧
        p.step.abortDue = false ∧ p.step.commitHeld = false ∧ (collHdr 1 0 0).kind = 1 ∧ (collHdr 2 0 0).kind = 2 ∧
        (∀ e ∈ [(⟨1, 0, 5, false⟩ : MemErr)], e.fatal = false) ∧ (∃ e ∈ [(⟨1, 0, 5, true⟩ : MemErr)], e.fatal = true) ∧
        (meetErrors [⟨1, 0, 5, true⟩] p).colls.running.find? (forColl h) = some coll8) ∧
    (groupOf (trioPkg [⟨8, collHdr 0 0 0, []⟩]) 1).stalled ≠ [] ∧
    ((groupOf base 1).stalled = [] ∧ (groupOf base 1).on = false) ∧
    (let p := collPkg .opened; let h := collHdr 0 0 0;
      (groupOf p 1).stalled = [] ∧ (groupOf p 1).on = true ∧ (groupOf p 1).resync = false ∧ h.gen = (groupOf p 1).gen ∧
        (p.step.num = h.step ∧ p.step.state ≠ .committed ∧ p.step.state ≠ .aborted) ∧ (h.rid, some 0) ∉ (groupOf p 1).done ∧
        p.colls.running.find? (forColl h) = some coll8 ∧ hasRoom set0 (groupOf p 1) coll8 h [] = true ∧
        p.colls.running.find? (forColl (collHdr 0 0 1)) = none ∧ earlyUsed (groupOf p 1) + 64 + 0 ≤ 2 ^ 20 ∧
        (h.epoch = p.reshard.epoch ∧ h.version = coll8.version ∧ bit h.flags 3 = false ∧
          (⟨false, 0, 0⟩ : PieceKey) ∈ coll8.reduced)) ∧
    (bit (collHdr 0 0 0).flags 6 = false ∧ (collHdr 0 0 0).step = (collPkg .committed).step.num ∧
      (collPkg .committed).step.state = .committed) ∧
    (let x := { coll8 with type := 0x43, body := tBody (collDesc 0x43) }
      let h := { collHdr 0 0 0 with srcPos := 1 };
      h.kind ≠ 2 ∧ x.type = 0x43 ∧ h.srcPos ≠ cSrcPos x.body ∧ h.version = x.version ∧
        (collHdr 0 0 0).srcPos = cSrcPos x.body ∧
        (⟨false, 0, 0⟩ : PieceKey) ∈ ({ x with gathered := [⟨false, 0, 0⟩] } : Coll).gathered) ∧
    (let h := collHdr 3 0 0; let p := collPkg .opened;
      h.kind = 3 ∧ h.step = p.step.num ∧ p.step.state = .opened ∧ p.step.abortDue = false ∧ p.step.commitHeld = false ∧
        (collPkg .committed).step.state = .committed ∧ (0 + 1) % 1 = h.srcPos) := by
  decide +kernel

/-- A piece ahead of its turn that is too long for the staging of its context, and one too long for the early buffer. -/
theorem meets_CollectiveMessages_noRoom (n : Nat) (hn : 2 ^ 24 ≤ n) :
    let p := trioPkg []
    let h := { collHdr 0 0 0 with srcPos := 2 }
    let x := { coll8 with body := coll8.body.set 3 1, reduced := [] }
    p.colls.running.find? (forColl h) = some x ∧ hasRoom set0 (groupOf p 1) x h (List.replicate n 0) = false ∧
      p.colls.running.find? (forColl (collHdr 0 0 1)) = none ∧
      2 ^ 20 < earlyUsed (groupOf p 1) + 64 + (List.replicate n (0 : Byte)).length := by
  refine ⟨by decide +kernel, ?_, by decide +kernel, by rw [List.length_replicate]; omega⟩
  have a : isAhead (groupOf (trioPkg []) 1) { coll8 with body := coll8.body.set 3 1, reduced := [] } ⟨false, 0, 0⟩ 2 = true := by
    decide +kernel
  have d : isDirect set0 { coll8 with body := coll8.body.set 3 1, reduced := [] } = true := by decide +kernel
  have b : ¬ contextRoom ≥ aheadBytes (groupOf (trioPkg []) 1) { coll8 with body := coll8.body.set 3 1, reduced := [] } + n := by
    have : contextRoom = 10485760 := rfl
    omega
  unfold hasRoom
  rw [List.length_replicate]
  have e : bit (collHdr 0 0 0).flags 5 = false := by decide
  have f3 : bit (collHdr 0 0 0).flags 3 = false := by decide
  simp only [e, f3, d]
  simp [collHdr, set0, a] at *
  omega

/-- A ROUND of no move, FINAL, under epoch 1 with the layer table at address 131072; and CANCEL. -/
def roundPay : List Byte := pay ([0, 1, 1, 0] ++ List.replicate 20 0 ++ leBytes 8 131072 ++ [1])

def reshardHdr (kind array off len : Nat) : ReshardHdr := ⟨kind, array, 1, 0xFFFF, off, len, 7, 0⟩

/-- A reshard to epoch 1 with a running round that awaits 4 bytes and two acknowledgements. -/
def movingPkg : Pkg :=
  { base with reshard := {
      active := true, payload := roundPay
      round := some ⟨.nobody, true, 4, 0, 0, [(0, 0xFFFF, 0, 7), (0, 0xFFFF, 64, 7)]⟩ } }

theorem meets_Resharding :
    (let p := updPkg .opened;
      Takes (st (sent p 0x0701 roundPay)) (.queue 0) 0x0701 (.queue 0 0) roundPay (took p 0x0701 roundPay) ∧
        (reshardFieldsBad p roundPay = false ∧ rOp roundPay = 0 ∧ rMoves roundPay = 0 ∧ rCount roundPay = 1 ∧
          readError set0 p 0 0 = none ∧ readError set0 p 131072 64 = none ∧
          roundBad set0 p (chunksOf 64 1 (readMem set0 p 131072 64)) [] = none ∧ roundDiffers p roundPay = false ∧
          (∀ m ∈ ([] : List (List Byte)), movesOut p m = false) ∧ stepBusy p = true)) ∧
    (let p := updPkg .none;
      Takes (st (sent p 0x0701 roundPay)) (.queue 0) 0x0701 (.queue 0 0) roundPay (took p 0x0701 roundPay) ∧
        (roundBad set0 p (chunksOf 64 1 (readMem set0 p 131072 64)) [] = none ∧ stepBusy p = false ∧ p.reshard.held = [] ∧
          p.reshard.round = none ∧ p.colls.running = [] ∧ p.upd.waits = [] ∧ p.step.opens = [] ∧
          p.reshard.active = false ∧ rIncoming roundPay = 0 ∧ rFinal roundPay = true)) ∧
    (let p : Pkg := { base with reshard := { active := true, payload := roundPay } }; let b := pay [1];
      Takes (st (sent p 0x0701 b)) (.queue 0) 0x0701 (.queue 0 0) b (took p 0x0701 b) ∧
        (reshardFieldsBad p b = false ∧ rOp b = 1 ∧ p.reshard.active = true ∧ p.reshard.round = none ∧
          p.reshard.held = [] ∧ p.upd.waits = [] ∧ p.step.opens = [] ∧ movingPkg.reshard.round ≠ none ∧
          base.reshard.active = false)) ∧
    (let p : Pkg := { movingPkg with reshard := { movingPkg.reshard with table := [layer] } };
      reshardFieldsBad p roundPay = false ∧ p.reshard.active = true ∧ roundBad set0 p p.reshard.table [] = none ∧
        roundDiffers p roundPay = false) ∧
    ((1 : Nat) ≠ crc64 (reshardHead (reshardHdr 0 0 64 2) ++ [1, 2])) ∧
    (movingPkg.reshard.round ≠ none ∧ movingPkg.upd.waits = [] ∧ movingPkg.step.opens = [] ∧
      movingPkg.reshard.active = true ∧ 1 = rEpoch movingPkg.reshard.payload) ∧
    ((reshardHdr 0 0 64 2).kind = 0 ∧ [(1 : Byte), 2].length = 2 ∧ 0 + 2 < 4 ∧
      piecePlace set0 movingPkg (reshardHdr 0 0 64 2) = some 64 ∧ writeError set0 movingPkg 64 2 = none) ∧
    ((reshardHdr 1 0 64 0).kind = 1 ∧
      [(0, 0xFFFF, 0, 7), (0, 0xFFFF, 64, 7)].filter (fun x => x != (0, 0xFFFF, 64, 7)) ≠ []) :=
  ⟨⟨takes_sent _ _ _ _ rfl rfl, by decide +kernel⟩, ⟨takes_sent _ _ _ _ rfl rfl, by decide +kernel⟩,
    ⟨takes_sent _ _ _ _ rfl rfl, by decide +kernel⟩, by decide +kernel⟩

/-! ### Pattern packs, firmware and records -/

/-- The start of a pack of one pattern: a product of three tensors that needs 1024 bytes; the rest is zeros. -/
def packHead : List Byte :=
  pay ([7, 0, 1, 0, 0, 0x42, 1, 0] ++ leBytes 4 512) ++
    pay ([0, 2, 3, 0] ++ leBytes 4 192 ++ leBytes 4 320 ++ leBytes 4 0 ++ leBytes 4 0 ++ leBytes 4 1024) 128 ++ matDesc ++
    tdesc 4096 2 1 2 ++ tdesc 8192 2 1 2 ++ tdesc 12288 0 1 4

/-- The pack in memory at address 65536: offset 4096 of stack 0. -/
def packPkg : Pkg :=
  { base with mem := { base.mem with
    cells := (((List.range 512).zip packHead).filter (·.2 != 0)).map fun x => (4096 + x.1, x.2) } }

def loadPackPay : List Byte := pay ([0, 3, 0, 0] ++ leBytes 4 5139 ++ leBytes 8 65536)

/-- The pack as it is stored in slot 3. -/
def pack : List Byte := packHead ++ List.replicate 4627 0
def storedPkg (fenced : Nat) : Pkg :=
  { base with integ := { base.integ with packs := [⟨3, pack, 0⟩], fenced } }

/-- PATTERN_RUN of slot 3 on grove 0 with 16 KiB of scratch at 65536 and its results at 0. -/
def runPay : List Byte := pay ([3, 0, 1, 0, 0, 0, 0, 0] ++ leBytes 8 65536 ++ leBytes 8 16384)

theorem meets_PatternPacks :
    (Takes (st (sent packPkg 0x0B01 loadPackPay)) (.queue 0) 0x0B01 (.queue 0 0) loadPackPay (took packPkg 0x0B01 loadPackPay) ∧
      (let pack := readMem set0 packPkg 65536 5139;
       loadBad loadPackPay = false ∧ le loadPackPay 0 1 = 0 ∧ le loadPackPay 8 8 = 65536 ∧ le loadPackPay 4 4 = 5139 ∧
        readError set0 packPkg 65536 5139 = none ∧ packHeadBad pack = false ∧ set0.stepping.toNat = le pack 5 1 ∧
        (∀ n, n < kCount pack → patternBad pack n = false) ∧ packIn packPkg 3 = none)) ∧
    ((readMem set0 packPkg 65536 5139).length ≤ packFree packPkg) ∧
    (let p := storedPkg 0; let b := pay [1, 3];
      Takes (st (sent p 0x0B01 b)) (.queue 0) 0x0B01 (.queue 0 0) b (took p 0x0B01 b) ∧
        (loadBad b = false ∧ le b 0 1 = 1 ∧ packIn p (le b 1 1) ≠ none)) ∧
    (let p := storedPkg 0;
      Takes (st (sent p 0x0B02 runPay)) (.queue 0) 0x0B02 (.queue 0 0) runPay (took p 0x0B02 runPay) ∧
        packBytes p 3 = some pack ∧ (le runPay 0 1 = 3 ∧ runBad p runPay = false ∧ patternsOf runPay pack = some [0] ∧
          patNeed (patternOf pack 0) ≤ rSize runPay / 16 ∧ set0.envAct ≠ 3 ∧ le runPay 1 1 ≠ 1 ∧ stepBusy p = false)) ∧
    (({} : Settings).envAct = 3) ∧
    (let p := storedPkg 1;
      (∀ g, g < 16 → bit (rMask runPay) g = true → bit p.integ.fenced g = true) ∧
        writeError set0 p (rResults runPay) 512 = none) :=
  ⟨⟨takes_sent _ _ _ _ rfl rfl, by decide +kernel⟩, by rw [readMem, List.length_map, List.length_range]; decide +kernel,
    ⟨takes_sent _ _ _ _ rfl rfl, by decide +kernel⟩, ⟨takes_sent _ _ _ _ rfl rfl, rfl, by decide +kernel⟩, rfl,
    by decide +kernel⟩

/-- A package whose staging buffer is open with a size and pieces. -/
def stagedPkg (size : Nat) (pieces : List (Nat × List Byte)) : Pkg :=
  { base with mgt := { base.mgt with stage := { size := some size, pieces } } }

/-- FW_STAGE OPEN of 4691 bytes; COPY of two bytes; CLOSE. -/
def stagePay (op : Byte) : List Byte := pay ([op, 0, 0, 0, 0, 0, 0, 0] ++ leBytes 4 (if op == 0 then 4691 else if op == 1 then 2 else 0))

/-- The first operator key, enrolled without a signature. -/
def keyPay : List Byte := [0, 1, 255, 0] ++ leBytes 4 1 ++ List.replicate 2592 7

theorem meets_FirmwareAndRecords :
    (Takes (st (sent base 0x0C01 (stagePay 0))) (.queue 0) 0x0C01 (.queue 0 0) (stagePay 0) (took base 0x0C01 (stagePay 0)) ∧
      (base.mgt.stage.writing = none ∧ 64 ≤ (stagePay 0).length ∧ zeros (stagePay 0) 1 3 = true ∧
        zeros (stagePay 0) 12 4 = true ∧ zeros (stagePay 0) 24 40 = true ∧ le (stagePay 0) 0 1 = 0 ∧
        4691 ≤ le (stagePay 0) 8 4 ∧ le (stagePay 0) 8 4 ≤ 25165824)) ∧
    (Takes (st (sent base 0x0C01 (stagePay 2))) (.queue 0) 0x0C01 (.queue 0 0) (stagePay 2) (took base 0x0C01 (stagePay 2)) ∧
      le (stagePay 2) 0 1 = 2) ∧
    (let p := stagedPkg 4691 []; let b := stagePay 1;
      Takes (st (sent p 0x0C01 b)) (.queue 0) 0x0C01 (.queue 0 0) b (took p 0x0C01 b) ∧
        (le b 0 1 = 1 ∧ p.mgt.stage.size = some 4691 ∧ le b 4 4 + le b 8 4 ≤ 4691 ∧ le b 16 8 < 2 ^ 48 ∧
          inStack (le b 16 8) (le b 8 4) = true ∧ readError set0 p (le b 16 8) (le b 8 4) = none)) ∧
    (let p := stagedPkg 4691 []; let b := stagePay 1 ++ [5, 6];
      Takes (st p) (.mctp .smbus (0 :: 0 :: b)) 0x0C01 (.mctp .smbus) b p ∧
        (le b 16 8 = 0 ∧ b.length = 64 + le b 8 4 ∧ le b 8 4 ≤ 8192)) ∧
    (let p := stagedPkg 2 [(0, [5, 6])];
      Takes (st (sent p 0x0C02 zero64)) (.queue 0) 0x0C02 (.queue 0 0) zero64 (took p 0x0C02 zero64) ∧
        (64 ≤ zero64.length ∧ zeros zero64 1 63 = true ∧ le zero64 0 1 < 2 ∧ p.mgt.stage.writing = none ∧
          p.mgt.stage.size = some (stagedBytes p.mgt.stage.pieces))) ∧
    (let p : Pkg := { base with mgt := { base.mgt with stage := { writing := some .nobody } } };
      p.mgt.stage.writing = some .nobody ∧ p.boot.recovery = false) ∧
    (Takes (st (sent base 0x0C03 zero64)) (.queue 0) 0x0C03 (.queue 0 0) zero64 (took base 0x0C03 zero64) ∧
      (zeros zero64 1 7 = true ∧ zeros zero64 48 16 = true ∧ destBad (.queue 0 0) (le zero64 40 8) = false ∧
        le zero64 0 1 = 0)) ∧
    (let b := pay [1];
      Takes (st base) (.mctp .pcie (0 :: 0 :: b)) 0x0C03 (.mctp .pcie) b base ∧
        (zeros b 1 7 = true ∧ zeros b 48 16 = true ∧ destBad (.mctp .pcie) (le b 40 8) = false ∧ le b 0 1 = 1)) ∧
    (mctpOpen base = true ∧ zeros (0 :: 0 :: keyPay) 0 2 = true ∧ Transport.smbus ≠ .pcie ∧
      keyEnrolStatus base.flash keyPay = stOk ∧ le keyPay 0 1 = 0) ∧
    (let b := pay [0, 0, 0, 0, 0, 0, 0, 0, 1];
      Takes (st (sent base 0x0C04 b)) (.queue 0) 0x0C04 (.queue 0 0) b (took base 0x0C04 b) ∧
        (1 ≤ le b 8 4 ∧ le b 8 4 ≤ 8192 ∧ zeros b 12 4 = true ∧ zeros b 24 40 = true ∧ le b 16 8 % 64 = 0)) ∧
    (let b := pay [0, 0, 0, 0, 0, 0, 0, 0, 0, 0, 0, 0, 64];
      Takes (st (sent base 0x0D02 b)) (.queue 0) 0x0D02 (.queue 0 0) b (took base 0x0D02 b) ∧
        (zeros b 1 7 = true ∧ zeros b 24 40 = true ∧ le b 0 1 = 0 ∧ le b 8 4 % 64 = 0 ∧ le b 12 4 % 64 = 0 ∧
          1 ≤ le b 12 4 ∧ le b 12 4 ≤ 8192 ∧ le b 8 4 + le b 12 4 ≤ 8388608 ∧ destBad (.queue 0 0) (le b 16 8) = false ∧
          base.integ.crash.state ≠ 1)) ∧
    (let p : Pkg := { base with integ := { base.integ with crash := { state := 2 } } }; let b := pay [1];
      Takes (st (sent p 0x0D02 b)) (.queue 0) 0x0D02 (.queue 0 0) b (took p 0x0D02 b) ∧
        (le b 0 1 = 1 ∧ zeros b 8 16 = true ∧ p.integ.crash.state = 2)) :=
  ⟨⟨takes_sent _ _ _ _ rfl rfl, by decide +kernel⟩, ⟨takes_sent _ _ _ _ rfl rfl, by decide +kernel⟩,
    ⟨takes_sent _ _ _ _ rfl rfl, by decide +kernel⟩, ⟨takes_mctp _ _ _ _ rfl, by decide +kernel⟩,
    ⟨takes_sent _ _ _ _ rfl rfl, by decide +kernel⟩, by decide +kernel,
    ⟨takes_sent _ _ _ _ rfl rfl, by decide +kernel⟩, ⟨takes_mctp _ _ _ _ rfl, by decide +kernel⟩, by decide +kernel,
    ⟨takes_sent _ _ _ _ rfl rfl, by decide +kernel⟩, ⟨takes_sent _ _ _ _ rfl rfl, by decide +kernel⟩,
    takes_sent _ _ _ _ rfl rfl, by decide +kernel⟩

/-! ### Peer ports and dies -/

/-- Port 0 as given; the package's address is 9. -/
def portPkg (o : Port) : Pkg :=
  { base with links := { base.links with addr := 9, ports := o :: List.replicate 11 {} } }

def frame9 : Frame := ⟨2, 0, true, true, 9, 3, 0, [5]⟩
def frameBs : List Byte := frameBytes 1 0 0 0xFFFFFFFF 0 [] frame9

/-- The frame that comes two places after it. -/
def frameBs2 : List Byte := frameBytes 1 2 0 0xFFFFFFFF 0 [] frame9

/-- The CRC of a frame lies where R394 puts it. -/
theorem frameBs_crc (n : Nat) (hn : n = 0 ∨ n = 2) (b : List Byte) (hb : b = frameBytes 1 n 0 0xFFFFFFFF 0 [] frame9) :
    le b 504 8 = crc64 (b.take 504) := by
  obtain ⟨h, e, n⟩ : ∃ h, b = h ++ leBytes 8 (crc64 h) ∧ h.length = 504 := by
    rcases hn with rfl | rfl <;> exact ⟨_, hb, by decide +kernel⟩
  rw [e, List.take_left' n]
  simpa using le_field h [] 504 8 _ n (crc64_lt h)

theorem meets_PeerPorts :
    0 < (portPkg {}).links.ports.length ∧
    (∀ ph ∈ [TrainPhase.detect, .equalise, .lock, .agree],
      let p := portPkg { state := .training, phase := ph };
      (portOf p 0).state = .training ∧ (portOf p 0).phase = ph ∧ p.ft.refclk = true) ∧
    (agreeReason 0 0 ⟨0, 1, 1, 1, 4⟩ = none ∧ agreeReason 0 0 ⟨1, 1, 1, 1, 4⟩ = some 5) ∧
    ((portOf (portPkg { state := .up }) 0).state = .up) ∧
    (let p := { portPkg {} with ft := {} }; (portOf p 0).state ≠ .up ∧ p.ft.refclk = false) ∧
    (let p := portPkg { state := .retrain };
      (portOf p 0).state = .retrain ∧ p.step.abortDue = false ∧ p.step.commitHeld = false ∧ p.step.state ≠ .sealing) ∧
    (let o : Port := { state := .up }; o.state = .up ∧ nextVc o = none) ∧
    (let o : Port := { state := .up, own := [frame9], credits := List.replicate 16 1 };
      o.state = .up ∧ o.sent.length < 512 ∧ nextVc o = some 2 ∧ vcReady o 2 = some (.inl frame9)) ∧
    (let o := portOf (portPkg { state := .up }) 0;
      frameBs.length = 512 ∧ le frameBs 0 1 = 1 ∧ le frameBs 12 4 = o.rxSeq ∧
        le frameBs 476 4 = 0xFFFFFFFF ∧ o.frontReplays < 16 ∧ (parseFrame frameBs).vc ≠ 1 ∧
        (parseFrame frameBs).dst = (portPkg o).links.addr ∧ (parseFrame frameBs).som = true ∧
        (parseFrame frameBs).eom = true ∧ o.hold = [] ∧ (portPkg o).links.addr ≠ 0xFFFFFFFF ∧
        frameBs2.length = 512 ∧ le frameBs2 0 1 = 1 ∧ le frameBs2 12 4 ≠ o.rxSeq ∧
        (le frameBs2 12 4 + 2 ^ 32 - o.rxSeq) % 2 ^ 32 < 512) ∧
    (portOf (portPkg { state := .up }) 0).skipping = false := by
  decide +kernel

/-- A capability flit with SEQ 0 that gives 3 credits of flow 1, and an IDLE NAK of everything after SEQ 5. -/
def flit : FlitHdr := ⟨4, 0, 0, 0, false, 1, 3, 0, 0⟩
def nakFlit : FlitHdr := ⟨0, 0, 0, 5, true, 0, 0, 0, 0⟩

/-- Die 0 with a flit of SEQ 6 that waits for its ACK on group 127, and group 3 as given. -/
def flitDie (retraining : Bool) : Die :=
  { (base.dies.getD 0 {}) with groups := [{ id := 127, sent := [({ flit with seq := 6 }, [])] }, { id := 3, retraining }] }

def diePkg (e : Episode) : Pkg :=
  { base with
    dies := [{ state := .fenced, cap := some cap }, {}, {}, {}], integ := { base.integ with episode := some e } }

def req (addr op len unit : Nat) (arg : List Byte) : WdiReq := ⟨addr, op, len, 5, unit, 0, 0, arg⟩

theorem meets_DieInterfaces :
    (0 < 4 ∧ base.dies.length = 4 ∧ (base.dies.getD 0 {}).state = .up ∧ 127 < 128) ∧
    (let y := groupAt (base.dies.getD 0 {}) 127;
      y.retraining = false ∧ crosses 0 127 flit = false ∧ y.queue = [] ∧ flit.type = 4 ∧ flit.seq = y.rxSeq ∧
        flit.nak = false ∧ y.frontReplays < 8) ∧
    (let y := groupAt (flitDie false) 127;
      nakFlit.type = 0 ∧ nakFlit.nak = true ∧ y.skipping = false ∧ y.frontReplays < 7 ∧ y.owed = [0, 0, 0] ∧
        y.queue = [] ∧ y.retraining = false ∧ afterAck nakFlit.ack y.sent ≠ []) ∧
    (crosses 0 111 { flit with dest := 1 } = true) ∧ (flitCrc flit [] + 1 ≠ flitCrc flit []) ∧
    reqBad set0 0 79 0 (req 64 0 3 0 []) [] = true ∧
    (reqBad set0 0 79 0 (req 64 0 1 0 []) [] = false ∧ readError set0 base 64 64 = none ∧
      reqBad set0 0 111 1 (req 0x4000 1 1 0 []) (List.replicate 64 3) = false ∧ writeError set0 base 0x4000 64 = none) ∧
    (reqBad set0 0 124 0 (req 0 4 0 0 []) [] = false ∧ roleOf 124 ≠ 1 ∧ endsService (req 0 4 0 0 []) = false ∧
      reqBad set0 0 80 4 (req 0 4 0 0 []) [] = false ∧ roleOf 80 = 1) ∧
    (let r := req 0 7 0 0x0203 [0, 0, 0, 0, 1];
      reqBad set0 0 124 0 r [] = false ∧ 4 ≤ r.op ∧ endsService r = true ∧ r.unit = 0x0200 + 4 * 0 + 3) ∧
    (reqBad set0 0 80 1 (req 0 5 0 0 []) [] = false ∧ (base.dies.getD 1 {}).state = .up ∧
      ((corePkg .fenced).dies.getD 1 {}).state ≠ .up) ∧
    ((flitDie true).state = .up ∧ (groupAt (flitDie true) 3).retraining = true ∧ base.integ.episode = none) ∧
    (let e : Episode := ⟨3, [0x0400], none, [], false, true, 6, 0x0400, 0, true, [], [], [], false, []⟩
      let p := diePkg e
      let x := p.dies.getD 0 {};
      x.state = .fenced ∧ p.integ.episode = some e ∧ e.collecting = false ∧ 0x0400 + 0 ∈ e.units ∧
        returnReason x.cap ⟨some cap, none⟩ = none ∧ p.step.abortDue = false ∧ p.step.commitHeld = false ∧
        returnReason x.cap ⟨some cap, some 127⟩ = some 2) :=
  ⟨by decide +kernel, by decide +kernel, by decide +kernel, by decide +kernel, by omega, by decide +kernel,
    by decide +kernel, by decide +kernel, by decide +kernel, by decide +kernel, by decide +kernel, by decide +kernel⟩

/-! ### The ladder, start-up and power -/

/-- An episode of a rung for a unit. -/
def epi (rung unit : Nat) (collecting recorded : Bool) : Episode :=
  ⟨rung, rungUnits rung unit, none, [], collecting, recorded, 6, unit, 0, false, [], [], [], false, []⟩

/-- The package with that episode, its record COLLECTING. -/
def epiPkg (e : Episode) : Pkg :=
  { base with integ := { base.integ with episode := some e, crash := { state := 1 } } }

def resetPay (level unit : Byte) : List Byte := pay [level, 0, unit]

/-- A core of grove 0 runs a task of the open step. -/
def busyPkg : Pkg :=
  { workPkg with
    step := { state := .opened }
    tasks := { insts := [inst matDesc], runs := [{ iid := 0, task := 0, unit := 5, j1 := false, began := 0 }], nextIid := 1 } }

theorem meets_RecoveryLadder :
    (∀ level : Byte, ∀ unit : Byte, Takes (st (sent base 0x0D01 (resetPay level unit))) (.queue 0) 0x0D01 (.queue 0 0)
      (resetPay level unit) (took base 0x0D01 (resetPay level unit))) ∧
    (∀ via, (.queue 0 0 : Who) ≠ .mctp via) ∧
    (∀ level : Byte, Takes (st base) (.mctp .smbus (0 :: 0 :: resetPay level 15)) 0x0D01 (.mctp .smbus) (resetPay level 15) base) ∧
    ([((5 : Byte), (0 : Byte)), (8, 15), (6, 15), (7, 15), (1, 255), (2, 15), (3, 3), (4, 0)].all fun x =>
      64 ≤ (resetPay x.1 x.2).length ∧ zeros (resetPay x.1 x.2) 1 1 = true ∧ zeros (resetPay x.1 x.2) 4 60 = true ∧
        unitOk (le (resetPay x.1 x.2) 0 1) (le (resetPay x.1 x.2) 2 2) = true ∧ le (resetPay x.1 x.2) 0 1 = x.1.toNat) ∧
    (base.boot.failed = false ∧ bit base.integ.fenced 15 = false ∧ base.step.abortDue = false ∧
      base.step.state ≠ .sealing ∧ base.integ.episode = none ∧ base.integ.crash.state = 0 ∧ base.step.commitHeld = false) ∧
    (let p : Pkg := { base with integ := { base.integ with fenced := 2 ^ 15 } };
      bit p.integ.fenced 15 = true ∧ (p.dies.getD (15 / 4) {}).state ≠ .fenced ∧ p.integ.episode = none) ∧
    (holdsWork base 0x0200 0 = true ∧ holdsWork busyPkg 5 0 = true ∧ stepWork busyPkg 5 0 = true ∧
      busyPkg.step.state = .opened ∧ busyPkg.integ.recovered = []) ∧
    (let e := epi 1 5 true true;
      (epiPkg e).integ.episode = some e ∧
        (itemsDue (epiPkg e) e).find? (fun x => x.1 == 0x13 && x.2.2 == 5) = some (0x13, 5, 5) ∧
        alignUp (sectionUsed (epiPkg e).integ.crash.items (sectionOf 0x13 5)) 64 + 32 ≤ sectionRoom (sectionOf 0x13 5)) ∧
    (let e := epi 2 0x0203 true false;
      (epiPkg e).integ.episode = some e ∧ e.recorded = false ∧ (epiPkg e).integ.rungs.length = 4 ∧
        (epiPkg e).tasks.runs = [] ∧ (epiPkg e).colls.running = [] ∧ (epiPkg e).reshard.round = none ∧
        (epiPkg e).reshard.held = [] ∧ (epiPkg e).upd.waits = [] ∧ (epiPkg e).step.opens = [] ∧
        (epiPkg e).step.abortDue = false) ∧
    (let e := epi 3 0x0401 false true;
      e.collecting = false ∧ e.due = [] ∧ e.asked = [] ∧ e.release = [] ∧ diesOut (epiPkg e) e = false ∧ e.rung < 4 ∧
        ¬ (e.rung = 3 ∧ e.only3 = true)) ∧
    ((epi 4 0x0300 false true).rung = 4 ∧ (epi 4 0x0300 false true).due = []) ∧
    (base.integ.decayH ≠ 0 ∧ base.boot.ready = true ∧ 511 < 512 ∧ base.boot.off = false ∧
      ∀ r ∈ busyPkg.tasks.runs, groveOfUnit r.unit ≠ some (511 / 32)) := by
  refine ⟨fun _ _ => takes_sent _ _ _ _ rfl rfl, nofun, fun _ => ⟨by decide +kernel, rfl, rfl, rfl, rfl⟩,
    by decide +kernel, by decide +kernel, by decide +kernel, by decide +kernel, ?_,
    by decide +kernel, by decide +kernel, by decide +kernel, by decide +kernel⟩
  exact ⟨rfl, by decide +kernel, by decide +kernel⟩

/-- A package in a phase of start-up. -/
def phasePkg (phase : Nat) : Pkg := { State.reset.p with boot := { phase } }

theorem meets_StartUp :
    (let p : Pkg := { State.reset.p with boot := { off := true, qualFails := 1 } };
      p.boot.off = true ∧ 0 < p.boot.qualFails ∧ p.boot.stopped = false) ∧
    (∀ n, n < 9 → (phasePkg n).boot.phase = n ∧ (phasePkg n).boot.off = false ∧ (phasePkg n).boot.ready = false ∧
      (phasePkg n).boot.recovery = false ∧ (phasePkg n).cal.stopFlag = false ∧ (phasePkg n).mgt.restarting = false ∧
      (phasePkg n).dies.length = 4) ∧
    ((phasePkg 2).flash.image = some shippedImage ∧ shippedImage.valid = true) ∧
    (let p : Pkg := { phasePkg 2 with flash := { image := none } }; ∀ i, p.flash.image = some i → i.valid = false) ∧
    (releaseReason ⟨some cap, none⟩ = none ∧ releaseReason ⟨some cap, some 127⟩ = some 2) ∧
    (15 ∈ [15] ∧ 15 < 16 ∧ (0 : Nat) ∉ [15] ∧ 31 < 32) ∧
    (∀ q ∈ (phasePkg 6).links.ports, q.state = .up ∨ q.state = .down) ∧
    (let p : Pkg := { base with boot := { base.boot with resetDue := true } };
      p.boot.resetDue = true ∧ resetUnposted p = false) ∧
    (0 < portCount ({} : Settings).lanes ∧ 0 < (phasePkg 5).links.ports.length ∧ (phasePkg 5).tasks.runs = []) := by
  refine ⟨by decide, by decide +kernel, by decide, (fun i h => by cases h), by decide, by decide, by decide, by decide,
    by decide⟩

theorem meets_RestartsAndStacks :
    base.boot.off = false ∧
    (let p : Pkg := { base with mgt := { base.mgt with restarting := true } };
      p.mgt.restarting = true ∧ p.mgt.image.valid = true ∧ p.mgt.waits = [] ∧ mctpUp p = true) ∧
    (let p : Pkg := { base with mgt := { base.mgt with restarting := true, image := ⟨[], false⟩ } };
      p.mgt.image.valid = false) ∧
    (bit base.mem.trained 15 = true ∧ bit base.mem.failed 15 = false ∧ 4 ≤ base.boot.phase ∧
      ∃ off ∈ [64], off < stackSize) := by
  decide

/-- The package with power state as given. -/
def pwrPkg (w : Pwr) : Pkg := { base with pwr := w }

theorem meets_HoldsLowerTheEnvelope :
    (clocksOn base = true ∧ 14000 < 7000 + 7001 ∧ base.pwr.current ≠ some (min 2 (set0.envAct + 1)) ∧
      6000 + 6599 < 12600) ∧
    (envPower set0.envAct * 105 < 4831 * 100 ∧ base.pwr.power ≠ some (min 2 (set0.envAct + 1))) ∧
    ((pwrPkg { power := some 1 }).pwr.power = some 1 ∧ 4600 ≤ envPower (1 - 1)) ∧
    (499 < 500 ∧ 2000 < 2001 ∧ base.pwr.connector = false) ∧
    (63 < 64 ∧ sensorValid base 63 = true ∧ holdTemp 63 < 1521 ∧ base.pwr.thermal = none) ∧
    (let p := pwrPkg { thermal := some 1 }; let ts : List Int := List.replicate 64 1440;
      ts.length = 64 ∧ p.pwr.thermal ≠ none ∧ ∀ i, i < 64 → sensorValid p i = true → ts.getD i 0 ≤ releaseTemp i) ∧
    (let p := pwrPkg { thermal := some 1 };
      sensorValid p 63 = true ∧ p.pwr.thermal = some 1 ∧ 1 ≠ min 2 (({ envAct := 1 } : Settings).envAct + 1) ∧
        thermalDue p = true) ∧
    (hostOpen base = true ∧ base.pwr.limit = 0 ∧ 24 ≤ 24 ∧ 24 ≤ 46 ∧ (pwrPkg { limit := 46 }).pwr.limit ≠ 0) ∧
    (23 < 24 ∧ 46 < 255) ∧
    (envGiven ({ envAct := 1 } : Settings).env base.pwr < ({ envAct := 1 } : Settings).envAct) ∧
    ({ envAct := 3 } : Settings).envAct = 3 := by
  decide

theorem meets_SupplyTripsAndRails :
    (base.boot.off = false ∧ base.dies.length = 4 ∧ base.boot.ready = true ∧ base.pwr.supply ≠ .under ∧
      base.pwr.supply ≠ .over ∧ ∀ d, d < 4 → (base.dies.getD d {}).state = .up) ∧
    (phasePkg 5).boot.ready = false ∧
    (let p : Pkg := { base with dies := List.replicate 4 { state := .fenced }, pwr := { supply := .under, tripFence := 15 } };
      p.pwr.supply ≠ .normal ∧ p.step.abortDue = false ∧ ∀ d, d < 4 → bit p.pwr.tripFence d = true ∧
        mayReturn { p with pwr := { p.pwr with supply := .normal } } d = true) ∧
    (sensorValid base 39 = true ∧ tripTemp 39 < 1761 ∧ sensorValid base 47 = true ∧ tripTemp 47 < 1999) ∧
    (let p : Pkg := { base with dies := { state := .fenced } :: List.replicate 3 { state := .up },
                                pwr := { trippedBy := [(0, 3)] } };
      let ts : List Int := List.replicate 64 1440;
      p.step.abortDue = false ∧ (∃ x ∈ p.pwr.trippedBy, x.1 = 0) ∧ ts.length = 64 ∧ (p.dies.getD 0 {}).state = .fenced ∧ p.pwr.supply = .normal ∧
        bit p.pwr.hostOnly 0 = false ∧ bit p.pwr.railOut 0 = false ∧
        ∀ x ∈ p.pwr.trippedBy, x.1 = 0 → ∀ i ∈ sensorRow x.2, sensorValid p i = true → ts.getD i 0 ≤ releaseTemp i) ∧
    (let p : Pkg := { base with dies := { state := .fenced } :: List.replicate 3 { state := .up }, pwr := { railOut := 1 } };
      bit p.pwr.railOut 0 = true ∧
        mayReturn { p with pwr := { p.pwr with railOut := clearBit p.pwr.railOut 0 } } 0 = true) := by
  decide

theorem meets_NumberFormats :
    (∀ f, 1 < 2 ^ Fmt.bits f ∧ decode f 1 ≠ .nan) ∧ 65535 < 65536 ∧ Fmt.fp32 ≠ .int8 := by
  refine ⟨fun f => ?_, by decide, by decide⟩
  cases f <;> decide

/-! ### Ill-formed commands

For each check of WellFormed.lean a command that it refuses. -/

theorem test_wf_accepts : (Instr.matmul 63).wf = true ∧ (Instr.nop (.mctp .pcie [])).wf = true ∧
    (Instr.crashItemTimeout 255 0).wf = true ∧ (Instr.portDown 11).wf = true := by decide

/-- An argument one byte too long. -/
def zeros18 : List Byte := List.replicate 18 0

theorem test_wf_routes : ∀ i ∈ ([
    .nop (.queue 64), .identify (.queue 64), .getStatus (.queue 64), .fwStage (.queue 64), .fwInstall (.queue 64),
      .attest (.queue 64), .logRead (.queue 64), .resetUnit (.queue 64), .dumpRead (.queue 64)] : List Instr), i.wf = false := by
  decide +kernel

theorem test_wf_queues : ∀ i ∈ ([
    .setMode 64, .linkConfig 64, .copy 64, .fillerConfig 64, .matmul 64, .groupedMatmul 64, .vchain 64,
      .taskGraphSubmit 64, .branchTableLoad 64, .hollowConfig 64, .ringConfig 64, .stageConfig 64, .fixtureLoad 64,
      .collGroupConfig 64, .collStart 64, .retract 64, .reshard 64, .stepOpen 64, .stepSeal 64, .stepCommit 64,
      .stepAbort 64, .updateConfig 64, .healthRead 64, .ftStatus 64, .calSet 64, .ftConfig 64, .patternLoad 64,
      .patternRun 64, .queueEnable 64, .queueDisable 64, .queueDrained 64, .queueResume 64, .sqFetchError 64,
      .replyPost 64, .hostWriteError 64, .launchAt 64] : List Instr), i.wf = false := by
  decide +kernel

theorem test_wf_tasks : ∀ i ∈ ([
    .matrixProduct 0 16384, .groupedMatrixProduct 0 16384, .vectorChain 0 16384, .push 0 16384, .drain 0 16384,
      .segmentRelease 0 16384, .send 0 16384, .sendTransmit 0 16384, .reduceScatter 0 16384, .allGather 0 16384,
      .allReduce 0 16384, .permute 0 16384, .copyTask 0 16384, .join 0 16384, .branch 0 16384,
      .taskComplete 0 16384 [], .prefetch 0 16384] : List Instr), i.wf = false := by
  decide +kernel

theorem test_wf_registers : ∀ i ∈ ([
    .hostSqBell 64 0, .hostSqBell 0 4294967296, .hostCqBell 64 0, .hostCqBell 0 4294967296, .queueFlush 64 true,
      .hostFenceWrite 1024 0, .hostFenceWrite 0 4294967296, .pkgMemMapWrite 4294967296, .icPendClear 32 0,
      .icPendClear 0 4294967296, .icMaskSet 32 0, .icMaskSet 0 4294967296, .icMaskClr 32 0,
      .icMaskClr 0 4294967296, .icMaskWrite 32 0, .icMaskWrite 0 4294967296, .icSrcPrioWrite 1024 0,
      .icSrcPrioWrite 0 4294967296, .icSrcTargetWrite 1024 0, .icSrcTargetWrite 0 4294967296, .icThreshWrite 96 0,
      .icThreshWrite 0 4294967296, .icBell 4294967296, .mgtAlertClear 4294967296, .mgtAlertMaskWrite 4294967296,
      .pwrLimitWrite 4294967296, .bar2Read 0 4097 [], .registerWrite 67108864 4 0, .registerWrite 0 3 0,
      .registerWrite 0 4 4294967296, .registerWrite 0 8 18446744073709551616, .interruptEndOfService 17] : List Instr), i.wf = false := by
  decide +kernel

theorem test_wf_work : ∀ i ∈ ([
    .tileLedgerCheck 0 16384 [], .shadowCompare 0 16384 0 0 0 0, .shadowCompare 0 0 0 8 0 0, .j1TileEnd 512,
      .shadowIndexAdvance 512, .corePark 512, .fixtureLaunch 8, .fixtureHung 8] : List Instr), i.wf = false := by
  decide +kernel

theorem test_wf_stageHeaders : ∀ i ∈ ([
    .stageCreditReceive ⟨4, 0, 0, 0, 0, 0, 0, 0, 0⟩, .stageCreditReceive ⟨0, 256, 0, 0, 0, 0, 0, 0, 0⟩,
      .stageCreditReceive ⟨0, 0, 65536, 0, 0, 0, 0, 0, 0⟩, .stageCreditReceive ⟨0, 0, 0, 65536, 0, 0, 0, 0, 0⟩,
      .stageCreditReceive ⟨0, 0, 0, 0, 65536, 0, 0, 0, 0⟩, .stageCreditReceive ⟨0, 0, 0, 0, 0, 0, 65536, 0, 0⟩,
      .stageCreditReceive ⟨0, 0, 0, 0, 0, 0, 0, 65536, 0⟩, .stageCreditReceive ⟨0, 0, 0, 0, 0, 0, 0, 0, 4294967296⟩] : List Instr), i.wf = false := by
  decide +kernel

theorem test_wf_stageMessages : ∀ i ∈ ([
    .stageMessageReceive ⟨4, 0, 0, 0, 0, 0, 0, 0, 0⟩ [], .stageMessageReceive ⟨0, 0, 0, 0, 0, 0, 0, 0, 0⟩ [0],
      .stageResetReceive ⟨4, 0, 0, 0, 0, 0, 0, 0, 0⟩] : List Instr), i.wf = false := by
  decide +kernel

theorem test_wf_collHeaders : ∀ i ∈ ([
    .collVerdictReceive ⟨4, 0, 0, 0, 0, 0, 0, 0, 0, 0, 0, 0, 0, 0, 0, 0, 0, 0⟩ 0,
      .collVerdictReceive ⟨0, 256, 0, 0, 0, 0, 0, 0, 0, 0, 0, 0, 0, 0, 0, 0, 0, 0⟩ 0,
      .collVerdictReceive ⟨0, 0, 4, 0, 0, 0, 0, 0, 0, 0, 0, 0, 0, 0, 0, 0, 0, 0⟩ 0,
      .collVerdictReceive ⟨0, 0, 0, 256, 0, 0, 0, 0, 0, 0, 0, 0, 0, 0, 0, 0, 0, 0⟩ 0,
      .collVerdictReceive ⟨0, 0, 0, 0, 4294967296, 0, 0, 0, 0, 0, 0, 0, 0, 0, 0, 0, 0, 0⟩ 0,
      .collVerdictReceive ⟨0, 0, 0, 0, 0, 18446744073709551616, 0, 0, 0, 0, 0, 0, 0, 0, 0, 0, 0, 0⟩ 0,
      .collVerdictReceive ⟨0, 0, 0, 0, 0, 0, 65536, 0, 0, 0, 0, 0, 0, 0, 0, 0, 0, 0⟩ 0,
      .collVerdictReceive ⟨0, 0, 0, 0, 0, 0, 0, 65536, 0, 0, 0, 0, 0, 0, 0, 0, 0, 0⟩ 0,
      .collVerdictReceive ⟨0, 0, 0, 0, 0, 0, 0, 0, 65536, 0, 0, 0, 0, 0, 0, 0, 0, 0⟩ 0,
      .collVerdictReceive ⟨0, 0, 0, 0, 0, 0, 0, 0, 0, 4096, 0, 0, 0, 0, 0, 0, 0, 0⟩ 0,
      .collVerdictReceive ⟨0, 0, 0, 0, 0, 0, 0, 0, 0, 0, 4096, 0, 0, 0, 0, 0, 0, 0⟩ 0,
      .collVerdictReceive ⟨0, 0, 0, 0, 0, 0, 0, 0, 0, 0, 0, 256, 0, 0, 0, 0, 0, 0⟩ 0,
      .collVerdictReceive ⟨0, 0, 0, 0, 0, 0, 0, 0, 0, 0, 0, 0, 0, 4294967296, 0, 0, 0, 0⟩ 0] : List Instr), i.wf = false := by
  decide +kernel

theorem test_wf_collMessages : ∀ i ∈ ([
    .collDataReceive ⟨4, 0, 0, 0, 0, 0, 0, 0, 0, 0, 0, 0, 0, 0, 0, 0, 0, 0⟩ [] 0 [],
      .collDataReceive ⟨0, 0, 0, 0, 0, 0, 0, 0, 0, 0, 0, 0, 0, 0, 0, 0, 0, 0⟩ [0] 0 [],
      .collDataReceive ⟨0, 0, 0, 0, 0, 0, 0, 0, 0, 0, 0, 0, 0, 0, 0, 0, 0, 0⟩ [] 18446744073709551616 [],
      .collPrepassReceive ⟨4, 0, 0, 0, 0, 0, 0, 0, 0, 0, 0, 0, 0, 0, 0, 0, 0, 0⟩ [] 0,
      .collPrepassReceive ⟨0, 0, 0, 0, 0, 0, 0, 0, 0, 0, 0, 0, 0, 0, 0, 0, 0, 0⟩ [0] 0,
      .collPrepassReceive ⟨0, 0, 0, 0, 0, 0, 0, 0, 0, 0, 0, 0, 0, 0, 0, 0, 0, 0⟩ [] 18446744073709551616,
      .collVerdictReceive ⟨0, 0, 0, 0, 0, 0, 0, 0, 0, 0, 0, 0, 0, 0, 0, 0, 0, 0⟩ 18446744073709551616,
      .retractReceive ⟨4, 0, 0, 0, 0, 0, 0, 0, 0, 0, 0, 0, 0, 0, 0, 0, 0, 0⟩ 0,
      .retractReceive ⟨0, 0, 0, 0, 0, 0, 0, 0, 0, 0, 0, 0, 0, 0, 0, 0, 0, 0⟩ 18446744073709551616] : List Instr), i.wf = false := by
  decide +kernel

theorem test_wf_reshards : ∀ i ∈ ([
    .reshardAckReceive ⟨2, 0, 0, 0, 0, 0, 0, 0⟩ 0, .reshardAckReceive ⟨0, 6, 0, 0, 0, 0, 0, 0⟩ 0,
      .reshardAckReceive ⟨0, 0, 65536, 0, 0, 0, 0, 0⟩ 0, .reshardAckReceive ⟨0, 0, 0, 0, 0, 0, 4294967296, 0⟩ 0,
      .reshardAckReceive ⟨0, 0, 0, 0, 0, 4294967296, 0, 0⟩ 0,
      .reshardAckReceive ⟨0, 0, 0, 0, 0, 0, 0, 0⟩ 18446744073709551616,
      .reshardPieceReceive ⟨2, 0, 0, 0, 0, 0, 0, 0⟩ [] 0, .reshardPieceReceive ⟨0, 0, 0, 0, 0, 0, 0, 0⟩ [0] 0,
      .reshardPieceReceive ⟨0, 0, 0, 0, 0, 0, 0, 0⟩ [] 18446744073709551616] : List Instr), i.wf = false := by
  decide +kernel

theorem test_wf_ports : ∀ i ∈ ([
    .hppFrameReceive 0 [] true 0 0, .hppFrameReceive 12 (List.replicate 512 0) true 0 0,
      .hppFrameReceive 0 (List.replicate 512 0) true 0 8, .frameForward 12, .helloReceive 12 ⟨0, 0, 1, 1, 0⟩,
      .helloReceive 0 ⟨4, 0, 1, 1, 0⟩, .helloReceive 0 ⟨0, 16, 1, 1, 0⟩, .portTrainingPhaseEnd 12 false [],
      .portTrainingPhaseEnd 0 false (List.replicate 9 0),
      .portTrainingTimeout 12, .portRetrain 12, .portDown 12, .timeReqSend 12, .timeRespTimeout 12] : List Instr), i.wf = false := by
  decide +kernel

theorem test_wf_times : ∀ i ∈ ([
    .timeReqReceive 0 ⟨2, false, false, 0, 0, 0, 0, 0, 0, 0, 0⟩,
      .timeReqReceive 0 ⟨0, false, false, 256, 0, 0, 0, 0, 0, 0, 0⟩,
      .timeReqReceive 0 ⟨0, false, false, 0, 64, 0, 0, 0, 0, 0, 0⟩,
      .timeReqReceive 0 ⟨0, false, false, 0, 0, 4294967296, 0, 0, 0, 0, 0⟩,
      .timeReqReceive 0 ⟨0, false, false, 0, 0, 0, 18446744073709551616, 0, 0, 0, 0⟩,
      .timeReqReceive 0 ⟨0, false, false, 0, 0, 0, 0, 18446744073709551616, 0, 0, 0⟩,
      .timeReqReceive 0 ⟨0, false, false, 0, 0, 0, 0, 0, 4294967296, 0, 0⟩,
      .timeReqReceive 0 ⟨0, false, false, 0, 0, 0, 0, 0, 0, 4294967296, 0⟩,
      .timeReqReceive 0 ⟨0, false, false, 0, 0, 0, 0, 0, 0, 0, 18446744073709551616⟩,
      .timeReqReceive 12 ⟨0, false, false, 0, 0, 0, 0, 0, 0, 0, 0⟩,
      .timeRespReceive 12 ⟨0, false, false, 0, 0, 0, 0, 0, 0, 0, 0⟩,
      .timeRespReceive 0 ⟨2, false, false, 0, 0, 0, 0, 0, 0, 0, 0⟩] : List Instr), i.wf = false := by
  decide +kernel

theorem test_wf_dies : ∀ i ∈ ([
    .wdiFlitReceive 0 0 ⟨16, 0, 0, 0, false, 0, 0, 0, 0⟩ [] 0 true [],
      .wdiFlitReceive 0 0 ⟨0, 4, 0, 0, false, 0, 0, 0, 0⟩ [] 0 true [],
      .wdiFlitReceive 0 0 ⟨0, 0, 1024, 0, false, 0, 0, 0, 0⟩ [] 0 true [],
      .wdiFlitReceive 0 0 ⟨0, 0, 0, 1024, false, 0, 0, 0, 0⟩ [] 0 true [],
      .wdiFlitReceive 0 0 ⟨0, 0, 0, 0, false, 4, 0, 0, 0⟩ [] 0 true [],
      .wdiFlitReceive 0 0 ⟨0, 0, 0, 0, false, 0, 64, 0, 0⟩ [] 0 true [],
      .wdiFlitReceive 0 0 ⟨0, 0, 0, 0, false, 0, 0, 65536, 0⟩ [] 0 true [],
      .wdiFlitReceive 0 0 ⟨0, 0, 0, 0, false, 0, 0, 0, 16⟩ [] 0 true [],
      .wdiFlitReceive 4 0 ⟨0, 0, 0, 0, false, 0, 0, 0, 0⟩ [] 0 true [],
      .wdiFlitReceive 0 128 ⟨0, 0, 0, 0, false, 0, 0, 0, 0⟩ [] 0 true [],
      .wdiFlitReceive 0 0 ⟨0, 0, 0, 0, false, 0, 0, 0, 0⟩ [] 4294967296 true [],
      .wdiFlitReceive 0 0 ⟨0, 0, 0, 0, false, 0, 0, 0, 0⟩ (List.replicate 129 0) 0 true [],
      .wdiRequest 0 ⟨281474976710656, 0, 0, 0, 0, 0, 0, []⟩ [] 0 0 [], .wdiRequest 0 ⟨0, 256, 0, 0, 0, 0, 0, []⟩ [] 0 0 [],
      .wdiRequest 0 ⟨0, 0, 0, 65536, 0, 0, 0, []⟩ [] 0 0 [], .wdiRequest 0 ⟨0, 0, 0, 0, 0, 0, 0, zeros18⟩ [] 0 0 [],
      .wdiRequest 4 ⟨0, 0, 0, 0, 0, 0, 0, []⟩ [] 0 0 [], .wdiRequest 0 ⟨0, 0, 0, 0, 0, 0, 0, []⟩ (List.replicate 129 0) 0 0 [],
      .wdiGroupRetrain 4 0, .wdiGroupRetrain 0 128, .wdiGroupRetrainEnd 4 0 true, .wdiGroupRetrainEnd 0 128 true,
      .wdiRequest 0 ⟨0, 0, 0, 0, 0, 0, 0, []⟩ [] 128 0 [], .wdiRequest 0 ⟨0, 0, 0, 0, 0, 0, 0, []⟩ [] 0 16 [],
      .wdiRequest 0 ⟨0, 0, 256, 0, 0, 0, 0, []⟩ [] 0 0 [], .wdiRequest 0 ⟨0, 0, 0, 0, 65536, 0, 0, []⟩ [] 0 0 [],
      .wdiRequest 0 ⟨0, 0, 0, 0, 0, 65536, 0, []⟩ [] 0 0 [], .wdiRequest 0 ⟨0, 0, 0, 0, 0, 0, 256, []⟩ [] 0 0 [],
      .dieClockLoss 4, .dieClockReturn 4 ⟨none, none⟩, .dieClockReturn 0 ⟨none, some 128⟩,
      .dieClockReturn 0 ⟨some ⟨256, 1, 1, 1, 0, 0, 128, 4⟩, none⟩,
      .dieClockReturn 0 ⟨some ⟨0, 1, 1, 65536, 0, 0, 128, 4⟩, none⟩,
      .dieClockReturn 0 ⟨some ⟨0, 1, 1, 1, 0, 4294967296, 128, 4⟩, none⟩] : List Instr), i.wf = false := by
  decide +kernel

/-- Memory errors in units that are not, and sizes that configuration space cannot name. -/
theorem test_wf_errors :
    (∀ e ∈ ([⟨0, 16, 0, true⟩, ⟨1, 4, 0, true⟩, ⟨2, 512, 0, true⟩, ⟨3, 0, 0, true⟩] : List MemErr), e.ok = false ∧
      (Instr.taskComplete 0 0 [e]).wf = false ∧ (Instr.bar2Read 0 4 [e]).wf = false ∧
      (Instr.bar2Write 0 [] [e]).wf = false ∧ (Instr.wdiRequest 0 ⟨0, 0, 0, 0, 0, 0, 0, []⟩ [] 0 0 [e]).wf = false ∧
      (Instr.wdiFlitReceive 0 0 ⟨0, 0, 0, 0, false, 0, 0, 0, 0⟩ [] 0 true [e]).wf = false ∧
      (Instr.collDataReceive ⟨0, 0, 0, 0, 0, 0, 0, 0, 0, 0, 0, 0, 0, 0, 0, 0, 0, 0⟩ [] 0 [e]).wf = false) ∧
    (∀ c ∈ ([⟨129, 512, false, 36⟩, ⟨128, 8192, false, 36⟩, ⟨128, 512, false, 19⟩, ⟨128, 512, false, 64⟩] : List CfgWrite),
      (Instr.msixEnable true false c).wf = false) ∧ (Instr.commitComplete (some 512)).wf = false := by
  decide +kernel

theorem test_wf_system : ∀ i ∈ ([
    .setEndpointId .smbus 256, .packetRead 64 (pay []), .packetRead 0 [], .packetRead 0 (List.replicate 4161 0),
      .bar2Write 0 (List.replicate 4097 0) [], .watchdogExpiry 0x0210 0, .watchdogExpiry 0 2,
      .checkerProbe 0x0610 true, .crashItemTimeout 256 0, .stackScrub 16 0 [], .stackInterfaceLoss 16,
      .closingSweep [0x0306], .phase3End [], .phase4End [16], .phase5End [(16, 0)], .phase5End [(0, 32)]] : List Instr), i.wf = false := by
  decide +kernel

theorem test_wf_power : ∀ i ∈ ([
    .supplyUnder 4294967296, .supplyOver 4294967296, .supplyNormal 4294967296, .brownOut 4294967296,
      .connectorOpen 65536 0, .connectorOpen 0 65536, .connectorHoldRelease 65536 0, .connectorHoldRelease 0 65536,
      .currentHold 65536 0, .currentHold 0 65536, .currentHoldRelease 65536 0, .currentHoldRelease 0 65536,
      .powerHold 65536, .powerHoldRelease 65536, .thermalHold 64 0, .thermalHoldRelease [], .thermalTrip 64 0,
      .tripRecovery 4 (List.replicate 64 0), .tripRecovery 0 [], .railFault (.die 4), .railFault (.stack 16),
      .railRecovery 4] : List Instr), i.wf = false := by
  decide +kernel

/-! ### Known answers

Each from an example of the manual, or the CRC's published check value. -/

/-- R58, R59: 470.0, 464.0 and −0.003 in E4M3 under SAT and IEEE, with what is counted. -/
theorem test_convert_e4m3 :
    (convert .e4m3 false (.fin false 470 0)).bits = 0x7E ∧ (convert .e4m3 false (.fin false 470 0)).sat = true ∧
      (convert .e4m3 true (.fin false 470 0)).bits = 0x7F ∧ (convert .e4m3 true (.fin false 470 0)).nonfin = true ∧
      (convert .e4m3 false (.fin false 464 0)).bits = 0x7E ∧ (convert .e4m3 false (.fin false 464 0)).sat = false ∧
      (convert .e4m3 true (ofF32 0xBB449BA6#32)).bits = 0x82 := by decide

/-- R58: 61 440 in E5M2 under SAT and IEEE. -/
theorem test_convert_e5m2 : (convert .e5m2 false (.fin false 61440 0)).bits = 0x7B ∧
    (convert .e5m2 true (.fin false 61440 0)).bits = 0x7C := by decide

/-- R60: the MW40 master 1 + 3 · 2^−34 rounds up from r = 40 960 on. -/
theorem test_stochastic_master : stochastic .mw40 (.fin false (2 ^ 34 + 3) (-34)) 40960 = (0x3F80000001, false) ∧
    stochastic .mw40 (.fin false (2 ^ 34 + 3) (-34)) 40959 = (0x3F80000000, false) := by decide

/-- R62, R63: a block of E2M1 whose largest magnitude is 10.5. -/
theorem test_chosen_scale : chooseExp .e2m1 (.fin false 21 (-1)) = 1 ∧
    ((convert .e2m1 true (.fin false 21 (-2))).bits, (convert .e2m1 true (ofF32 0xBFA66666#32)).bits,
      (convert .e2m1 true (ofF32 0x3EB33333#32)).bits, (convert .e2m1 true (.fin false 1 (-2))).bits) = (7, 11, 1, 0) ∧
    (convert .e2m1 true (.fin false 1 (-2))).zero = true := by decide

/-- R62: the exponents of 100, 300, 50 and 200 for E4M3. -/
theorem test_chosen_scales : [100, 300, 50, 200].map (fun m => chooseExp .e4m3 (.fin false m 0)) = [-2, 0, -3, -1] := by
  decide

/-- R70, R71: the order of addition shows: (2^24 + 1) + 1 and 2^24 + (1 + 1). -/
theorem test_addition_order :
    fadd (fadd (f32Nat (2 ^ 24)) f32One) f32One = f32Nat (2 ^ 24) ∧
      fadd (f32Nat (2 ^ 24)) (fadd f32One f32One) = f32Nat (2 ^ 24 + 2) := by decide

/-- R165: 2.0, 1.5, −0.0 and 4.0 at their lanes, the second of five masked. -/
theorem test_row_sum :
    sumR165 [0x40000000#32, f32NegZero, 0x3FC00000#32, f32NegZero, 0x40800000#32] = 0x40F00000#32 := by decide +kernel

/-- R365: the address of the manual's example under ALL16 and under QUARTER. -/
theorem test_interleave :
    (stackOf { spread := 0, granule := 0 } 0x1234567890, offsetOf { spread := 0, granule := 0 } 0x1234567890) =
        (7, 0x123456890) ∧
      (stackOf { spread := 1, granule := 0 } 0x1234567890, offsetOf { spread := 1, granule := 0 } 0x1234567890) =
        (3, 0x48D159890) := by decide

/-- R310: the chunks of 10 000 elements over four members. -/
theorem test_chunks : (List.range 4).map (chunkRange 4 10000 (false, 0, 10)) =
    [(0, 2048), (2048, 5120), (5120, 7168), (7168, 10000)] := by decide

/-- R404: the first hop of the manual's route, its wrap, and the turn into Y. -/
theorem test_route :
    let dst : Nat := 7 + 1 * 1024 + 1 * 1048576
    let at_ (x y z : Nat) : Links := { addr := x + y * 1024 + z * 1048576, dims := [8, 5, 16] }
    nextHop (at_ 2 3 14) dst none 0 = .out 1 0 ∧ nextHop (at_ 0 3 14) dst (some 0) 0 = .out 1 1 ∧
      nextHop (at_ 7 3 14) dst (some 0) 1 = .out 3 0 ∧ nextHop (at_ 7 1 15) dst (some 5) 0 = .out 4 1 := by decide

/-- R442, R443: θ, δ and U of the manual's exchange, in 2^−16 ns. -/
theorem test_exchange :
    let ns (n q : Nat) : Nat := n * 65536 + q * 16384
    offsetOfExchange (ns 1000000000 0) (ns 1000000137 1) (ns 1000000512 0) (ns 1000000648 3) = 16384 ∧
      delayOfExchange (ns 1000000000 0) (ns 1000000137 1) (ns 1000000512 0) (ns 1000000648 3) = 137 * 65536 := by decide

/-- R327: CRC-64/XZ of "123456789". -/
theorem test_crc64 : crc64 [0x31, 0x32, 0x33, 0x34, 0x35, 0x36, 0x37, 0x38, 0x39] = 0x995DC9BBDF1939FA := by decide +kernel

/-- R423: CRC-32 of "123456789". -/
theorem test_crc32 : crc32 [0x31, 0x32, 0x33, 0x34, 0x35, 0x36, 0x37, 0x38, 0x39] = 0xCBF43926 := by decide +kernel

/-- R573: the first bytes of SHA3-512 of the empty string. -/
theorem test_sha3 : (sha3_512 []).take 8 = [0xA6, 0x9F, 0x73, 0xCC, 0xA2, 0x3A, 0x9A, 0xC5] := by decide +kernel

/-! ### Steps -/

/-- R489: NOP at the front of the queue answers OK with its SEQ, which waits to be posted. -/
theorem test_nop :
    (match step { st (sent base 0x0100 zero64) with pending := [.nop (.queue 0), .ready] } with
      | .next s => s.pending == [.ready] && (queueOf s.p 0).due.map (fun r => (r.opcode, r.status, r.seq)) == [(0x0100, 0, 9)]
      | _ => false) = true := by decide +kernel

/-- R435: an idle block counts one REFTIME cycle. -/
theorem test_idle :
    (match step (st base) with | .next s => decide (base.ft.count < s.p.ft.count) | _ => false) = true := by
  decide +kernel

/-- R545: 140.01 A sets a CURRENT hold, and ENV_ACT falls from P0 to P1. -/
theorem test_current_hold :
    (match step { st base with pending := [.currentHold 7000 7001] } with
      | .next s => s.set.envAct == 1 && s.p.pwr.holds == 1
      | _ => false) = true := by decide +kernel
end Sys2Proof.Tests
end

section
/-! PROOFS. Host accesses of BAR0 registers (O22). First that no write of a register, and nothing that such a write
starts, closes the way from the host (the interrupt controller, the queues, the power limit); then an equation for each
access, and the statement from them. -/

namespace Sys2Proof.Machine

theorem hostOpen_iff (p : Pkg) : hostOpen p = true ↔ p.host.linkUp = true ∧ p.host.perst = false := by
  simp [hostOpen]

theorem hostOpen_of_host {p q : Pkg} (h : q.host = p.host) : hostOpen q = hostOpen p := by
  simp only [hostOpen, h]

theorem hostOpen_ite {c : Prop} [Decidable c] {a b p : Pkg} (ha : hostOpen a = hostOpen p)
    (hb : hostOpen b = hostOpen p) : hostOpen (if c then a else b) = hostOpen p := by
  split
  · exact ha
  · exact hb

theorem SameIc.host {p q : Pkg} (h : SameIc p q) : q.host = p.host := by rw [h.1]

theorem SameIc.hostOpen {p q : Pkg} (h : SameIc p q) : hostOpen q = hostOpen p := hostOpen_of_host h.host

theorem SameIc.ite {c : Prop} [Decidable c] {a b p : Pkg} (ha : SameIc p a) (hb : SameIc p b) :
    SameIc p (if c then a else b) := by
  split
  · exact ha
  · exact hb

/-! ### The interrupt controller's registers -/

theorem clearPend_frame (w v : Nat) (p : Pkg) : SameIc p (clearPend w v p) :=
  foldl_frame _ (fun q s => icClear_frame s q) _ _

theorem setMaskWord_frame (w v : Nat) (p : Pkg) : SameIc p (setMaskWord w v p) := icChange_frame _ _ _ (.of rfl)

theorem setPrio_frame (src v : Nat) (p : Pkg) : SameIc p (setPrio src v p) := by
  unfold setPrio
  split
  · exact (icChange_frame _ _ _ (.of rfl)).trans (icClear_frame _ _)
  · exact icChange_frame _ _ _ (.of rfl)

theorem setTarget_frame (src v : Nat) (p : Pkg) : SameIc p (setTarget src v p) :=
  icChange_frame _ _ _ <| .ite (.trans (.of rfl) (icTake_frame src _)) (.of rfl)

theorem setThresh_frame (t v : Nat) (p : Pkg) : SameIc p (setThresh t v p) := icChange_frame _ _ _ (.of rfl)

/-- A write of a register of the interrupt controller (R458 to R462) starts deliveries at most. -/
theorem writeIcReg_frame (o v : Nat) (p : Pkg) : SameIc p (writeIcReg o v p) :=
  .ite (.ite (setPrio_frame _ _ _) (.refl p)) <|
  .ite (.ite (setTarget_frame _ _ _) (.refl p)) <|
  .ite (.ite (clearPend_frame _ _ _) (.refl p)) <|
  .ite (.ite (.refl p) (setMaskWord_frame _ _ _)) <|
  .ite (.ite (setThresh_frame _ _ _) (.refl p)) (.refl p)

theorem bell_frame (v : Nat) (p : Pkg) : SameIc p (bell v p) := by
  unfold bell
  split
  · exact .of rfl
  · exact raise_frame _ _

/-! ### The registers of the host interface -/

theorem hostOpen_writeQueueReg (q k v : Nat) (p : Pkg) : hostOpen (writeQueueReg q k v p) = hostOpen p := by
  unfold writeQueueReg
  dsimp only
  split
  case h_6 => exact hostOpen_ite rfl (hostOpen_ite (hostOpen_ite rfl rfl) (hostOpen_ite rfl rfl))
  case h_7 => rfl
  case h_8 => rfl
  all_goals exact hostOpen_ite rfl rfl

theorem hostOpen_writeBell (o v : Nat) (p : Pkg) : hostOpen (writeBell o v p) = hostOpen p :=
  hostOpen_ite rfl (hostOpen_ite rfl rfl)

theorem hostOpen_setWindow (w : Nat) (p : Pkg) : hostOpen (setWindow w p) = hostOpen p := hostOpen_ite rfl rfl

/-- A 4-byte write of a register outside the settings leaves the way from the host as it is: in the order of
`writeWordP`, TAU_DEF, the BAR2 window, the integrity registers, the interrupt controller, the queues, the fences, the
alerts, the doorbells, IC_BELL and the MSI-X table. -/
theorem hostOpen_writeWordP (off v : Nat) (p : Pkg) : hostOpen (writeWordP off v p) = hostOpen p :=
  hostOpen_ite (hostOpen_ite rfl rfl) <|
  hostOpen_ite (hostOpen_setWindow _ _) <|
  hostOpen_ite (hostOpen_setWindow _ _) <|
  hostOpen_ite (hostOpen_ite rfl rfl) <|
  hostOpen_ite rfl <|
  hostOpen_ite (writeIcReg_frame _ _ _).hostOpen <|
  hostOpen_ite (hostOpen_writeQueueReg _ _ _ _) <|
  hostOpen_ite rfl <|
  hostOpen_ite rfl <|
  hostOpen_ite rfl <|
  hostOpen_ite (hostOpen_writeBell _ _ _) <|
  hostOpen_ite (bell_frame _ _).hostOpen <|
  hostOpen_ite rfl rfl

/-! ### PWR_LIMIT -/

theorem setEnvAct_host (e : Nat) (s : State) : (setEnvAct e s).p.host = s.p.host := by
  unfold setEnvAct
  dsimp only
  split <;> rfl

theorem lowerEnv_host (s : State) : (lowerEnv s).p.host = s.p.host := by
  unfold lowerEnv
  split
  · exact setEnvAct_host _ _
  · rfl

theorem notice_host (cause : Nat) (p : Pkg) : (notice cause p).host = p.host := by
  simp [notice, alert]

theorem holdSet_host (f : Pwr → Pwr) (s : State) : (holdSet f s).p.host = s.p.host := by
  simp [holdSet, lowerEnv_host, notice_host]

theorem setLimit_host (v : Nat) (s : State) : (setLimit v s).p.host = s.p.host := by
  unfold setLimit
  dsimp only
  split
  · rfl
  · split
    · exact holdSet_host _ _
    · exact lowerEnv_host _

/-! ### PKG_MEM_MAP and the 4-byte write -/

@[simp] theorem setMap_p (v : Nat) (s : State) : (setMap v s).p = s.p := by
  unfold setMap
  dsimp only
  split <;> rfl

theorem hostOpen_writeWord (off v : Nat) (s : State) : hostOpen (writeWord off v s).p = hostOpen s.p := by
  unfold writeWord
  split
  · rw [setMap_p]
  · split
    · exact hostOpen_of_host (setLimit_host _ _)
    · exact hostOpen_writeWordP _ _ _

/-! ### Host reads that latch (R437, R455, R585) -/

section
variable {s : State} (h : hostOpen s.p = true)
include h

theorem exec_ftNowLoRead_of_hostOpen (wide : Bool) :
    exec (.ftNowLoRead wide) s = .next { s with p := readFtNow wide s.p } := by
  simp [exec, execFtNowLoRead, h]

theorem exec_calTimeLoRead_of_hostOpen :
    exec .calTimeLoRead s =
      .next { s with p := readData (leBytes 4 s.p.cal.secs) { s.p with cal.hiLatch := some (calHi s.p.cal) } } := by
  simp [exec, execCalTimeLoRead, h]

theorem exec_mgtLogSeqLoRead_of_hostOpen :
    exec .mgtLogSeqLoRead s =
      .next { s with p := readData (leBytes 4 (newestSeq s.p)) { s.p with mgt.seqHi := newestSeq s.p / 2 ^ 32 } } := by
  simp [exec, execMgtLogSeqLoRead, h]

/-! ### Host writes with a command of their own (R366, R569) -/

theorem exec_pkgMemMapWrite_of_hostOpen (v : Nat) : exec (.pkgMemMapWrite v) s = .next (setMap v s) := by
  simp [exec, execPkgMemMapWrite, h]

theorem exec_mgtAlertClear_of_hostOpen (v : Nat) :
    exec (.mgtAlertClear v) s = .next { s with p := clearAlerts v s.p } := by
  simp [exec, execMgtAlertClear, h]

theorem exec_mgtAlertMaskWrite_of_hostOpen (v : Nat) :
    exec (.mgtAlertMaskWrite v) s = .next { s with p := { s.p with mgt.alertMask := v % 64 } } := by
  simp [exec, execMgtAlertMaskWrite, h]

end

/-- PKG_MEM_MAP takes an interleave that is laid out, while nothing is loaded (R366). -/
theorem setMap_taken {v : Nat} {s : State} (hfree : mapFree s.p = true) (hg : bits v 3 2 ≠ 3) (hs : bits v 1 0 < 2) :
    setMap v s = { s with set := { s.set with granule := bits v 3 2, spread := bits v 1 0 } } := by
  simp [setMap, hfree, hg, Nat.not_le.mpr hs]

theorem setMap_ignored {v : Nat} {s : State} (h : mapFree s.p = false ∨ bits v 3 2 = 3 ∨ 2 ≤ bits v 1 0) :
    setMap v s = s := by
  obtain h | h | h := h <;> simp [setMap, h]

/-! ### Accesses of BAR0 (R498) -/

theorem exec_registerWrite (off size v : Nat) (s : State) :
    exec (.registerWrite off size v) s = .next (writeBar0 off size v s) := rfl

theorem writeBar0_four {off v : Nat} {s : State} (h : hostOpen s.p = true) (ha : off % 4 = 0) (hoff : off < 0x4000000)
    (hv : v < 2 ^ 32) : writeBar0 off 4 v s = writeWord off v s := by
  simp [writeBar0, h, ha, Nat.not_le.mpr hoff, Nat.mod_eq_of_lt (show v < 4294967296 from hv)]

theorem writeBar0_dropped {off size : Nat} (h : off % size ≠ 0 ∨ (size ≠ 4 ∧ size ≠ 8)) (v : Nat) (s : State) :
    writeBar0 off size v s = s := by
  obtain h | ⟨h4, h8⟩ := h
  · simp [writeBar0, h]
  · simp [writeBar0, h4, h8]

/-- The upper half goes to the state that the write of the lower half left, which the host still reaches. -/
theorem writeBar0_eight {off v : Nat} {s : State} (h : hostOpen s.p = true) (ha : off % 8 = 0) (hoff : off < 0x4000000)
    (hv : v < 2 ^ 64) :
    writeBar0 off 8 v s = writeBar0 (off + 4) 4 (v / 2 ^ 32) (writeBar0 off 4 (v % 2 ^ 32) s) := by
  have hlo : v % 2 ^ 32 < 2 ^ 32 := Nat.mod_lt _ (by decide)
  have hhi : v / 2 ^ 32 < 2 ^ 32 := by omega
  have hopen : hostOpen (writeWord off (v % 2 ^ 32) s).p = true := (hostOpen_writeWord _ _ _).trans h
  rw [writeBar0_four h (by omega) hoff hlo, writeBar0_four hopen (by omega) (by omega) hhi]
  simp [writeBar0, h, ha, Nat.not_le.mpr hoff, Nat.mod_eq_of_lt (show v / 4294967296 < 4294967296 from hhi)]

/-- The offsets of BAR0 at which a write can have an effect (R23, R415): the single registers, the interrupt
controller, the queues, the fences, the doorbells and the MSI-X table. -/
def writable (off : Nat) : Bool :=
  off == 0x40 || off == 0x300 || off == 0x600 || off == 0x604 || off == 0x800 || off == 0x804 || off == 0xE018 ||
    off == 0xE01C || off == 0xF010 || off == 0x140000 || (0x8000 ≤ off && off < 0xC000) ||
    (0xC000 ≤ off && off < 0xD000) || (0xD000 ≤ off && off < 0xE000) || (0x100000 ≤ off && off < 0x140000) ||
    (0x200000 ≤ off && off < 0x200400)

/-- A register that is read-only, or a reserved offset, ignores a write (R23). -/
theorem writeWord_of_not_writable {off : Nat} (h : writable off = false) (v : Nat) (s : State) :
    writeWord off v s = s := by
  simp only [writable, Bool.or_eq_false_iff] at h
  simp only [writeWord, writeWordP, h, Bool.false_eq_true, if_false]

/-! ### Registers with a range (R147, R538) -/

theorem bits_four_zero (v : Nat) : bits v 4 0 = v % 32 := by simp [bits]

theorem writeWord_tauDef (v : Nat) (s : State) :
    writeWord 0x40 v s =
      if 12 ≤ v % 32 ∧ v % 32 ≤ 20 then
        { s with p := { s.p with tasks := { s.p.tasks with tauDef := v % 32 } } } else s := by
  simp only [writeWord, writeWordP, bits_four_zero]
  by_cases hv : 12 ≤ v % 32 ∧ v % 32 ≤ 20 <;> simp [hv]

theorem writeWord_watchMs (v : Nat) (s : State) :
    writeWord 0x800 v s =
      if 1 ≤ v % 65536 ∧ v % 65536 ≤ 1000 then
        { s with p := { s.p with integ := { s.p.integ with watchMs := v % 65536 } } } else s := by
  simp only [writeWord, writeWordP, modInteg]
  by_cases hv : 1 ≤ v % 65536 ∧ v % 65536 ≤ 1000 <;> simp [hv]

/-- Settles O22: each access is the equation of its register; an access of 8 bytes is two of 4, since a write leaves the
way from the host open. -/
theorem registerAccesses : Obligations.RegisterAccesses := by
  unfold Obligations.RegisterAccesses
  refine ⟨fun s hup hperst => ?_, fun s hup hperst => ?_⟩
  all_goals have h : hostOpen s.p = true := (hostOpen_iff _).2 ⟨hup, hperst⟩
  · exact ⟨exec_ftNowLoRead_of_hostOpen h, exec_calTimeLoRead_of_hostOpen h, exec_mgtLogSeqLoRead_of_hostOpen h⟩
  · refine ⟨fun v hfree hg hs => ?_, fun v hv => ?_, exec_mgtAlertClear_of_hostOpen h,
      exec_mgtAlertMaskWrite_of_hostOpen h, fun v hv hlo hhi => ?_, fun v hv hout => ?_, fun v hv hlo hhi => ?_,
      fun off v hv hro => ?_, fun off v ha hoff hv => ?_, fun off size v hbad => ?_⟩
    · rw [exec_pkgMemMapWrite_of_hostOpen h, setMap_taken hfree hg hs]
    · rw [exec_pkgMemMapWrite_of_hostOpen h, setMap_ignored hv]
    · rw [exec_registerWrite, writeBar0_four h rfl (by decide) hv, writeWord_tauDef, if_pos ⟨hlo, hhi⟩]
    · rw [exec_registerWrite, writeBar0_four h rfl (by decide) hv, writeWord_tauDef, if_neg (by omega)]
    · rw [exec_registerWrite, writeBar0_four h rfl (by decide) hv, writeWord_watchMs, if_pos ⟨hlo, hhi⟩]
    · have hoff : off % 4 = 0 ∧ off < 0x4000000 ∧ writable off = false := by
        revert off; decide
      obtain ⟨ha, hlt, hw⟩ := hoff
      rw [exec_registerWrite, writeBar0_four h ha hlt hv, writeWord_of_not_writable hw]
    · exact ⟨_, rfl, by rw [exec_registerWrite, exec_registerWrite, writeBar0_eight h ha hoff hv]⟩
    · rw [exec_registerWrite, writeBar0_dropped hbad]

end Sys2Proof.Machine
end

section
/-! PROOFS. The settings (O4, O5, O7, O8): the commands by which they change, and that each of these keeps them legal and,
but for the end of start-up phase 1, keeps LANES. -/

namespace Sys2Proof.Machine

/-! ### Legal settings -/

theorem PendMode.wf_iff (m : PendMode) : m.wf = true ↔ ∀ e, m.env = some e → e < 4 := by
  unfold PendMode.wf
  cases m.env <;> simp

theorem Settings.wf_iff (t : Settings) :
    t.wf = true ↔ t.env < 4 ∧ t.envAct < 4 ∧ t.env ≤ t.envAct ∧ t.lanes < 3 ∧ t.nextPlan < 3 ∧ t.granule < 3 ∧
      t.spread < 2 ∧ ∀ m, t.pend = some m → m.wf = true := by
  unfold Settings.wf
  cases t.pend <;> simp [and_assoc]

theorem reset_set_wf : State.reset.set.wf = true := rfl

/-- Settles O4: the settings of the reset state are the defaults, and no cell of memory is listed. -/
theorem resetIsSafe : Obligations.ResetIsSafe := by
  unfold Obligations.ResetIsSafe State.safe
  rw [reset_set_wf, reset_mem_wf]
  rfl

/-! ### The commands by which settings change (R31, R32, R34, R545, R366) -/

theorem mctpServe_set {via : Transport} {body : List Byte} {f : Who → List Byte → State → State} {s : State}
    (hf : ∀ w b u, (f w b u).set = u.set) : (mctpServe via body f s).set = s.set := by
  unfold mctpServe
  split
  · exact hf _ _ _
  · rfl

/-- A request of R576 leaves the settings. -/
theorem mctpCode_set (via : Transport) (code : Nat) (body : List Byte) (s : State) :
    (mctpCode via code body s).set = s.set := by
  unfold mctpCode
  dsimp only
  split
  case h_10 | h_11 | h_12 | h_13 => rfl
  all_goals exact mctpServe_set fun _ _ _ => rfl

theorem mctpAsked_set (s : State) (x : Transport × MctpAsk) : (mctpAsked s x).set = s.set := by
  unfold mctpAsked
  split
  · exact mctpCode_set _ _ _ _
  all_goals rfl

/-- A fold whose every step keeps a view `g` keeps it. -/
theorem foldl_view {α β γ : Type} (g : β → γ) {f : β → α → β} (hf : ∀ x a, g (f x a) = g x) (l : List α) (x : β) :
    g (l.foldl f x) = g x := by
  induction l generalizing x with
  | nil => rfl
  | cons a l ih => exact (ih _).trans (hf x a)

theorem restartEnds_set (s : State) : (restartEnds s).set = s.set := by
  unfold restartEnds
  split
  · rfl
  · exact foldl_view State.set mctpAsked_set _ _

/-- Settles O7: every command that is not named works on the package's state alone, as a physical event or a register
access (`onP`), a packet (`onPacketP`) or a request by packet or MCTP (`onRoute`); the end of the management processor's
restart serves such requests. -/
theorem onlyTheseCommandsChangeSettings : Obligations.OnlyTheseCommandsChangeSettings := by
  unfold Obligations.OnlyTheseCommandsChangeSettings
  intro c s t h hne
  unfold exec at h
  cases c with
  | setMode | linkConfig | commitComplete | abortComplete | pkgMemMapWrite | registerWrite | pwrLimitWrite
  | phase1End | phase4End | packageReset | brownOut | supplyUnder | supplyOver | thermalTrip | railFault
  | thermalHold | currentHold | powerHold | connectorOpen | envActRise => trivial
  | nop | identify | getStatus | fwStage | fwInstall | attest | logRead | resetUnit | dumpRead =>
    refine hne (onRoute_keeps ?_ h).1
    exact fun _ _ _ => ⟨rfl, rfl⟩
  | copy | fillerConfig | matmul | groupedMatmul | vchain | taskGraphSubmit | branchTableLoad | hollowConfig | ringConfig
  | stageConfig | fixtureLoad | collGroupConfig | collStart | retract | reshard | stepOpen | stepSeal | stepCommit
  | stepAbort | updateConfig | healthRead | ftStatus | calSet | ftConfig | patternLoad | patternRun =>
    exact hne (onPacketP_keeps h).1
  | mgtRestartComplete =>
    cases h
    exact hne (restartEnds_set s)
  | _ =>
    cases h
    exact hne rfl

/-! ### What each operation on the settings makes of them -/

/-- `t` is as legal as `s` is, and LANES stands. -/
def State.KeepsLegal (s t : State) : Prop := (s.set.wf = true → t.set.wf = true) ∧ t.set.lanes = s.set.lanes

namespace State.KeepsLegal

theorem of_set {s t : State} (h : t.set = s.set) : KeepsLegal s t := ⟨fun hs => h ▸ hs, by rw [h]⟩

theorem refl (s : State) : KeepsLegal s s := of_set rfl

/-- What else stands in the state does not matter. -/
theorem of_p {s t : State} {p : Pkg} (h : KeepsLegal { s with p := p } t) : KeepsLegal s t := h

theorem trans {s t u : State} (h1 : KeepsLegal s t) (h2 : KeepsLegal t u) : KeepsLegal s u :=
  ⟨h2.1 ∘ h1.1, h2.2.trans h1.2⟩

theorem ite {c : Prop} [Decidable c] {s t u : State} (ht : c → KeepsLegal s t) (hu : ¬c → KeepsLegal s u) :
    KeepsLegal s (if c then t else u) := by
  split
  · exact ht ‹_›
  · exact hu ‹_›

end State.KeepsLegal

open State (KeepsLegal)

/-- R545: the envelope given is ENV or one clocked lower, and an envelope. -/
theorem envGiven_bounds (env : Nat) (w : Pwr) : env ≤ envGiven env w ∧ (env < 4 → envGiven env w < 4) := by
  unfold envGiven holdEnv
  omega

theorem envAfter_bounds {set : Settings} (w : Pwr) {env : Nat} (hact : set.envAct < 4) (henv : env < 4) :
    env ≤ envAfter set w env ∧ envAfter set w env < 4 := by
  obtain ⟨hle, hlt⟩ := envGiven_bounds env w
  have := hlt henv
  unfold envAfter
  split <;> omega

@[simp] theorem setEnvAct_set (e : Nat) (s : State) : (setEnvAct e s).set = { s.set with envAct := e } := rfl

/-- ENV_ACT may become every envelope that is not clocked higher than ENV. -/
theorem setEnvAct_keepsLegal {e : Nat} {s : State} (h : s.set.wf = true → s.set.env ≤ e ∧ e < 4) :
    KeepsLegal s (setEnvAct e s) := by
  refine ⟨fun hs => ?_, rfl⟩
  obtain ⟨hle, hlt⟩ := h hs
  obtain ⟨henv, -, -, hrest⟩ := (Settings.wf_iff _).1 hs
  exact (Settings.wf_iff _).2 ⟨henv, hlt, hle, hrest⟩

/-! #### Holds (R545, R546) -/

theorem lowerEnv_keepsLegal (s : State) : KeepsLegal s (lowerEnv s) := by
  refine .ite (fun _ => setEnvAct_keepsLegal fun hs => ?_) fun _ => .refl s
  obtain ⟨henv, hact, hle, -⟩ := (Settings.wf_iff _).1 hs
  have := (envGiven_bounds s.set.env s.p.pwr).2 henv
  omega

theorem riseEnv_keepsLegal (s : State) : KeepsLegal s (riseEnv s) := by
  refine .ite (fun hc => setEnvAct_keepsLegal fun hs => ?_) fun _ => .refl s
  obtain ⟨henv, hact, hle, -⟩ := (Settings.wf_iff _).1 hs
  obtain ⟨-, hlt⟩ : clocksOn s.p = true ∧ envGiven s.set.env s.p.pwr < s.set.envAct := by simpa using hc
  have := (envGiven_bounds s.set.env s.p.pwr).1
  omega

theorem holdSet_keepsLegal (f : Pwr → Pwr) (s : State) : KeepsLegal s (holdSet f s) :=
  .of_p (lowerEnv_keepsLegal _)

theorem holdAt_keepsLegal (old : Option Nat) (f : Option Nat → Pwr → Pwr) (s : State) :
    KeepsLegal s (holdAt old f s) :=
  .ite (fun _ => .refl s) fun _ => holdSet_keepsLegal _ s

theorem currentHold_keepsLegal (ia ib : Nat) (s : State) : KeepsLegal s (currentHold ia ib s) :=
  .ite (fun _ => .of_p (holdAt_keepsLegal _ _ _)) fun _ => .of_set rfl

theorem powerHold_keepsLegal (watts : Nat) (s : State) : KeepsLegal s (powerHold watts s) :=
  .ite (fun _ => .of_p (holdAt_keepsLegal _ _ _)) fun _ => .of_set rfl

theorem connectorOpen_keepsLegal (ia ib : Nat) (s : State) : KeepsLegal s (connectorOpen ia ib s) :=
  .ite (fun _ => .of_set rfl) fun _ =>
  .ite (fun _ => .of_set rfl) fun _ => .of_p (holdSet_keepsLegal _ _)

theorem setLimit_keepsLegal (v : Nat) (s : State) : KeepsLegal s (setLimit v s) :=
  .ite (fun _ => .refl s) fun _ =>
  .ite (fun _ => holdSet_keepsLegal _ s) fun _ => .of_p (lowerEnv_keepsLegal _)

theorem thermalHold_keepsLegal (i : Nat) (t : Int) (s : State) : KeepsLegal s (thermalHold i t s) :=
  .ite (fun _ => .refl s) fun _ =>
  .ite (fun _ => .of_set rfl) fun _ => .of_p (holdAt_keepsLegal _ _ _)

/-! #### Loss of power, package reset and start-up (R34, R535, R541, R554) -/

/-- The settings after a package reset are the defaults, and the lane plans as they were. -/
theorem keepsLegal_of_restarted {s t : State} (h : t.set = restarted s.set) : KeepsLegal s t := by
  unfold KeepsLegal
  rw [h]
  refine ⟨fun hs => ?_, rfl⟩
  obtain ⟨-, -, -, hlanes, hplan, -⟩ := (Settings.wf_iff _).1 hs
  rw [Settings.wf_iff]
  simp [restarted, hlanes, hplan]

theorem powerLost_keepsLegal (flag : Bool) (s : State) : KeepsLegal s (powerLost flag s) := keepsLegal_of_restarted rfl

theorem brownOut_keepsLegal (vin : Nat) (s : State) : KeepsLegal s (brownOut vin s) :=
  .ite (fun _ => .refl s) fun _ => powerLost_keepsLegal _ s

theorem supplyLeaves_keepsLegal (st : Supply) (vin : Nat) (s : State) : KeepsLegal s (supplyLeaves st vin s) :=
  .ite (fun _ => .refl s) fun _ => .ite (fun _ => powerLost_keepsLegal _ s) fun _ => .of_set rfl

theorem thermalTrip_keepsLegal (i : Nat) (t : Int) (s : State) : KeepsLegal s (thermalTrip i t s) :=
  .ite (fun _ => .refl s) fun _ =>
  .ite (fun _ => .of_p (powerLost_keepsLegal _ _)) fun _ =>
  .ite (fun _ => .of_set rfl) fun _ => .of_set rfl

theorem railFault_keepsLegal (r : Rail) (s : State) : KeepsLegal s (railFault r s) := by
  refine .ite (fun _ => .refl s) fun _ => ?_
  cases r with
  | base => exact powerLost_keepsLegal _ s
  | stack k => exact .ite (fun _ => .refl s) fun _ => .of_set rfl
  | die d => exact .ite (fun _ => .refl s) fun _ => .of_set rfl

theorem packageReset_keepsLegal (s : State) : KeepsLegal s (packageReset s) :=
  .ite (fun _ => keepsLegal_of_restarted rfl) fun _ => .refl s

theorem phase4_keepsLegal (failed : List Nat) (s : State) : KeepsLegal s (phase4 failed s) := by
  refine .ite (fun _ => .refl s) fun _ => .of_p (setEnvAct_keepsLegal fun hs => ?_)
  obtain ⟨henv, -⟩ := (Settings.wf_iff _).1 hs
  exact ⟨(envGiven_bounds _ _).1, (envGiven_bounds _ _).2 henv⟩

/-- Phase 1 latches the lane plan that flash holds, and nothing else of the settings. -/
theorem phase1_set (railsOk : Bool) (s : State) :
    (phase1 railsOk s).set = s.set ∨ railsOk = true ∧ (phase1 railsOk s).set = { s.set with lanes := s.set.nextPlan } := by
  unfold phase1
  split
  · exact .inl rfl
  · split
    · exact .inr ⟨‹_›, rfl⟩
    · exact .inl rfl

theorem phase1_wf (railsOk : Bool) {s : State} (hs : s.set.wf = true) : (phase1 railsOk s).set.wf = true := by
  rcases phase1_set railsOk s with h | ⟨-, h⟩
  · rwa [h]
  · obtain ⟨henv, hact, hle, -, hplan, hrest⟩ := (Settings.wf_iff _).1 hs
    rw [h]
    exact (Settings.wf_iff _).2 ⟨henv, hact, hle, hplan, hplan, hrest⟩

/-! #### PKG_MEM_MAP and writes of BAR0 (R23, R364, R366) -/

theorem setMap_keepsLegal (v : Nat) (s : State) : KeepsLegal s (setMap v s) := by
  refine .ite (fun _ => .refl s) fun hc => ⟨fun hs => ?_, rfl⟩
  obtain ⟨henv, hact, hle, hlanes, hplan, -, -, hpend⟩ := (Settings.wf_iff _).1 hs
  have hg : bits v 3 2 < 4 := Nat.mod_lt _ (by decide)
  simp only [Bool.or_eq_true, beq_iff_eq, decide_eq_true_eq, not_or] at hc
  obtain ⟨⟨hg3, hspread⟩, -⟩ := hc
  exact (Settings.wf_iff _).2 ⟨henv, hact, hle, hlanes, hplan, by dsimp only; omega, by dsimp only; omega, hpend⟩

theorem writeWord_keepsLegal (off v : Nat) (s : State) : KeepsLegal s (writeWord off v s) :=
  .ite (fun _ => setMap_keepsLegal v s) fun _ => .ite (fun _ => setLimit_keepsLegal v s) fun _ => .of_set rfl

theorem writeBar0_keepsLegal (off size v : Nat) (s : State) : KeepsLegal s (writeBar0 off size v s) :=
  .ite (fun _ => .refl s) fun _ =>
  .ite (fun _ => writeWord_keepsLegal _ _ s) fun _ =>
  .ite (fun _ => .trans (writeWord_keepsLegal _ _ s) (writeWord_keepsLegal _ _ _)) fun _ => .refl s

/-! #### LINK_CONFIG (R389, R410) -/

/-- The lane plan that LINK_CONFIG puts in flash is one of R389. -/
theorem plan_lt_of_linkFieldsBad {set : Settings} {b : List Byte} (h : linkFieldsBad set b = false) : le b 5 1 < 3 := by
  simp only [linkFieldsBad, Bool.or_eq_false_iff, decide_eq_false_iff_not] at h
  omega

theorem applyLink_keepsLegal (w : Who) {b : List Byte} (table : List Byte) (s : State) (hb : le b 5 1 < 3) :
    KeepsLegal s (applyLink w b table s) := by
  refine .ite (fun _ => .of_set rfl) fun _ => .ite (fun _ => .of_set rfl) fun _ => ?_
  cases cSetPlan b with
  | false => exact .of_set (by simp)
  | true =>
    refine ⟨fun hs => ?_, by simp⟩
    obtain ⟨henv, hact, hle, hlanes, -, hrest⟩ := (Settings.wf_iff _).1 hs
    simp only [if_true]
    exact (Settings.wf_iff _).2 ⟨henv, hact, hle, hlanes, hb, hrest⟩

theorem linkConfig_keepsLegal (w : Who) (b : List Byte) (s : State) : KeepsLegal s (linkConfig w b s) := by
  refine .ite (fun _ => .of_set rfl) fun hc => ?_
  have hb := plan_lt_of_linkFieldsBad (Bool.eq_false_iff.2 hc)
  refine .ite (fun _ => ?_) fun _ => applyLink_keepsLegal w [] s hb
  split
  · exact .of_set rfl
  · exact applyLink_keepsLegal w _ s hb

/-! #### SET_MODE and the step boundary (R31, R32, R35, R100) -/

/-- The envelope that SET_MODE names is one. -/
theorem env_lt_of_modeFieldsBad {b : List Byte} (h : modeFieldsBad b = false) (hsel : bit (le b 0 1) 0 = true) :
    le b 1 1 < 4 := by
  simp only [modeFieldsBad, Bool.or_eq_false_iff, hsel, if_true, decide_eq_false_iff_not] at h
  omega

theorem mergePend_wf {b : List Byte} (hb : modeFieldsBad b = false) {old : Option PendMode}
    (hold : ∀ m, old = some m → m.wf = true) {m : PendMode} (hm : mergePend b old = some m) : m.wf = true := by
  unfold mergePend at hm
  dsimp only at hm
  split at hm
  · exact hold m hm
  · cases hm
    refine (PendMode.wf_iff _).2 fun e he => ?_
    dsimp only at he
    split at he
    · cases he
      exact env_lt_of_modeFieldsBad hb ‹_›
    · cases old with
      | none => cases he
      | some m => exact (PendMode.wf_iff m).1 (hold m rfl) e he

@[simp] theorem memError_pwr (set : Settings) (a : Nat) (p : Pkg) : (memError set a p).pwr = p.pwr := by
  simp [memError, memErrorKey, memErrorAt]

@[simp] theorem memError_tasks (set : Settings) (a : Nat) (p : Pkg) : (memError set a p).tasks = p.tasks := by
  simp [memError, memErrorKey, memErrorAt]

/-- A conversion of masters touches neither the power registers nor the tasks. -/
theorem convertMasters_pwr_tasks (set : Settings) (toLean : Bool) (p : Pkg) :
    (convertMasters set toLean p).pwr = p.pwr ∧ (convertMasters set toLean p).tasks = p.tasks := by
  refine Prod.mk.inj (foldl_view (fun q : Pkg => (q.pwr, q.tasks)) (fun q e => ?_) _ p)
  unfold convertLayer
  dsimp only
  split
  · simp
  · rfl

theorem writeBlock_pwr (set : Settings) (a : Nat) (bs : List Byte) (p : Pkg) : (writeBlock set a bs p).pwr = p.pwr := by
  unfold writeBlock
  split
  · exact memError_pwr _ _ _
  · rfl

theorem spillJ1_pwr (set : Settings) (p : Pkg) : (spillJ1 set p).pwr = p.pwr := by
  unfold spillJ1
  split
  · rfl
  · exact foldl_view Pkg.pwr (fun _ _ => writeBlock_pwr _ _ _ _) _ _

/-- Unless shares of running J1 tasks are read back, a change of FILLER leaves the power registers. -/
theorem moveFiller_pwr {set : Settings} {on : Bool} {p : Pkg} (h : on = true → set.filler = true ∨ j1Runs p = []) :
    (moveFiller set on p).pwr = p.pwr := by
  unfold moveFiller
  split
  · rfl
  · split
    case isTrue hne hon =>
      rcases h hon with hf | hj
      · simp [hon, hf] at hne
      · simp [restoreJ1, hj]
    case isFalse => exact spillJ1_pwr _ _

/-- The settings after what waited has taken effect: the fields named, and ENV_ACT as R545 gives it under the power
registers `w`. -/
def PendMode.onto (m : PendMode) (set : Settings) (w : Pwr) : Settings :=
  { set with
    env := m.env.getD set.env, c1 := m.c1.getD set.c1, arrival := m.arrival.getD set.arrival
    lean := m.lean.getD set.lean, filler := m.filler.getD set.filler, pend := none
    envAct := envAfter set w (m.env.getD set.env) }

/-- What waited takes effect, under the power registers of before unless shares of running J1 tasks are read back. -/
theorem applyPend_some {s : State} {m : PendMode} (h : s.set.pend = some m) :
    ∃ w p, applyPend s = { s with set := m.onto s.set w, p := p } ∧
      ((m.filler.getD s.set.filler = true → s.set.filler = true ∨ j1Runs s.p = []) → w = s.p.pwr) := by
  unfold applyPend
  rw [h]
  refine ⟨_, _, rfl, fun hf => ?_⟩
  obtain ⟨hpwr, htasks⟩ := convertMasters_pwr_tasks s.set (m.lean.getD s.set.lean) s.p
  split
  · rw [moveFiller_pwr (by simpa only [j1Runs, htasks] using hf), hpwr]
  · exact moveFiller_pwr hf

theorem PendMode.onto_wf {m : PendMode} {set : Settings} (w : Pwr) (hm : m.wf = true) (hset : set.wf = true) :
    (m.onto set w).wf = true := by
  obtain ⟨henv, hact, -, hlanes, hplan, hg, hspread, -⟩ := (Settings.wf_iff _).1 hset
  have hnew : m.env.getD set.env < 4 := by
    cases he : m.env with
    | none => exact henv
    | some e => exact (PendMode.wf_iff m).1 hm e he
  obtain ⟨hle, hlt⟩ := envAfter_bounds w hact hnew
  exact (Settings.wf_iff _).2 ⟨hnew, hlt, hle, hlanes, hplan, hg, hspread, nofun⟩

theorem applyPend_keepsLegal (s : State) : KeepsLegal s (applyPend s) := by
  cases h : s.set.pend with
  | none => exact .of_set (by simp [applyPend, h])
  | some m =>
    obtain ⟨w, p, he, -⟩ := applyPend_some h
    rw [he]
    refine ⟨fun hs => PendMode.onto_wf w ?_ hs, rfl⟩
    obtain ⟨-, -, -, -, -, -, -, hpend⟩ := (Settings.wf_iff _).1 hs
    exact hpend m h

theorem boundary_keepsLegal (s : State) : KeepsLegal s (boundary s) :=
  .ite (fun _ => .refl s) fun _ => applyPend_keepsLegal s

theorem setMode_keepsLegal (w : Who) (b : List Byte) (s : State) : KeepsLegal s (setMode w b s) := by
  refine .ite (fun _ => .of_set rfl) fun hbad => .ite (fun _ => .of_set rfl) fun _ => ?_
  have hmerge : KeepsLegal s { s with set := { s.set with pend := mergePend b s.set.pend } } := by
    refine ⟨fun hs => ?_, rfl⟩
    obtain ⟨henv, hact, hle, hlanes, hplan, hg, hspread, hpend⟩ := (Settings.wf_iff _).1 hs
    exact (Settings.wf_iff _).2
      ⟨henv, hact, hle, hlanes, hplan, hg, hspread, fun _ => mergePend_wf (Bool.eq_false_iff.2 hbad) hpend⟩
  exact hmerge.trans (.ite (fun _ => .refl _) fun _ => applyPend_keepsLegal _)

/-! ### Every command keeps the settings legal (O5), and LANES but at start-up (O8) -/

/-- Of the commands by which settings change (O7), all but a phase 1 that ends well keep them legal, and LANES. -/
theorem exec_keepsLegal {c : Instr} {s t : State} (h : exec c s = .next t) (hc : c ≠ .phase1End true) :
    KeepsLegal s t := by
  by_cases hset : t.set = s.set
  · exact .of_set hset
  have named := onlyTheseCommandsChangeSettings c s t h hset
  unfold exec at h
  cases c with
  | setMode q =>
    exact onPacket_rel (K := KeepsLegal) (fun _ _ => .of_set rfl) (fun _ _ _ => .trans) setMode_keepsLegal h
  | linkConfig q =>
    exact onPacket_rel (K := KeepsLegal) (fun _ _ => .of_set rfl) (fun _ _ _ => .trans) linkConfig_keepsLegal h
  | commitComplete fault => cases h; exact .of_p (boundary_keepsLegal _)
  | abortComplete => cases h; exact .of_p (boundary_keepsLegal _)
  | pkgMemMapWrite v => cases h; exact .ite (fun _ => .refl s) fun _ => setMap_keepsLegal v s
  | registerWrite off size v => cases h; exact writeBar0_keepsLegal off size v s
  | pwrLimitWrite v => cases h; exact .ite (fun _ => .refl s) fun _ => setLimit_keepsLegal v s
  | phase1End railsOk =>
    cases h
    rcases phase1_set railsOk s with hsame | ⟨rfl, -⟩
    · exact .of_set hsame
    · exact absurd rfl hc
  | phase4End failed => cases h; exact phase4_keepsLegal failed s
  | packageReset => cases h; exact packageReset_keepsLegal s
  | brownOut vin => cases h; exact brownOut_keepsLegal vin s
  | supplyUnder vin => cases h; exact .ite (fun _ => supplyLeaves_keepsLegal _ vin s) fun _ => .refl s
  | supplyOver vin => cases h; exact .ite (fun _ => supplyLeaves_keepsLegal _ vin s) fun _ => .refl s
  | thermalTrip i temp => cases h; exact thermalTrip_keepsLegal i temp s
  | railFault r => cases h; exact railFault_keepsLegal r s
  | thermalHold i temp => cases h; exact thermalHold_keepsLegal i temp s
  | currentHold ia ib => cases h; exact currentHold_keepsLegal ia ib s
  | powerHold watts => cases h; exact powerHold_keepsLegal watts s
  | connectorOpen ia ib => cases h; exact connectorOpen_keepsLegal ia ib s
  | envActRise => cases h; exact riseEnv_keepsLegal s
  | _ => exact named.elim

theorem exec_wf {c : Instr} {s t : State} (h : exec c s = .next t) (hs : s.set.wf = true) : t.set.wf = true := by
  by_cases hc : c = .phase1End true
  · subst hc
    cases h
    exact phase1_wf true hs
  · exact (exec_keepsLegal h hc).1 hs

theorem tick_set (s : State) : (tick s).set = s.set := by
  unfold tick
  split
  · split <;> rfl
  · rfl

/-- Settles O5: a step is a cycle of the clock, which leaves the settings, or runs one command. -/
theorem everyStepKeepsLegalSettings : Obligations.EveryStepKeepsLegalSettings := by
  unfold Obligations.EveryStepKeepsLegalSettings
  intro s t hs h
  unfold step at h
  split at h
  · cases h
    rwa [tick_set]
  · exact exec_wf h hs

/-- Settles O8: a SET_MODE with legal fields that names another lane plan stops at the check of R34. -/
theorem lanesChangeOnlyAtStartUp : Obligations.LanesChangeOnlyAtStartUp := by
  unfold Obligations.LanesChangeOnlyAtStartUp
  refine ⟨fun c s t h hl => ?_, fun s q w b p h hbad hsel hl => ?_⟩
  · exact Classical.byContradiction fun hc => hl (exec_keepsLegal h hc).2
  · refine (onPacket_takes setMode h).trans ?_
    simp [setMode, hbad, hsel, hl]

end Sys2Proof.Machine
end

section
/-! PROOFS. SET_MODE under a step and at a boundary, and the commands that P3 refuses (O29). -/

namespace Sys2Proof.Machine

/-! ### SET_MODE with legal fields (R31, R32, R495) -/

section
variable (w : Who) {b : List Byte} {s : State} (hbad : modeFieldsBad b = false)
  (hplan : (bit (le b 0 1) 5 && le b 6 1 != s.set.lanes) = false)
include hbad hplan

theorem setMode_of_stepBusy (hbusy : stepBusy s.p = true) :
    setMode w b s =
      let set := { s.set with pend := mergePend b s.set.pend }
      { s with set := set, p := answer w stOk 0 (pkgMode set) s.p } := by
  simp [setMode, hbad, hplan, hbusy]

theorem setMode_of_boundary (hbusy : stepBusy s.p = false) :
    setMode w b s =
      let u := applyPend { s with set := { s.set with pend := mergePend b s.set.pend } }
      { u with p := answer w stOk 0 (pkgMode u.set) u.p } := by
  simp [setMode, hbad, hplan, hbusy]

end

theorem getD_selected {α : Type} (c : Bool) (x d : α) : (if c then some x else none).getD d = if c then x else d := by
  cases c <;> rfl

/-- The fields that a SET_MODE selects. -/
def selectedFields (b : List Byte) : PendMode :=
  { env := if bit (le b 0 1) 0 then some (le b 1 1) else none
    c1 := if bit (le b 0 1) 1 then some (le b 2 1 == 1) else none
    arrival := if bit (le b 0 1) 2 then some (le b 3 1 == 1) else none
    lean := if bit (le b 0 1) 3 then some (le b 4 1 == 1) else none
    filler := if bit (le b 0 1) 4 then some (le b 5 1 == 1) else none }

/-- A SET_MODE that does not turn FILLER ON leaves it ON only where it was. -/
theorem filler_of_selectedFields {b : List Byte} {old : Bool} (h : bit (le b 0 1) 4 = false ∨ le b 5 1 = 0)
    (hon : (selectedFields b).filler.getD old = true) : old = true := by
  simp only [selectedFields, getD_selected] at hon
  rcases h with h | h
  · simpa [h] using hon
  · simp only [h] at hon
    split at hon
    · cases hon
    · exact hon

/-- With nothing waiting, what a SET_MODE selects is what waits. -/
theorem mergePend_none {b : List Byte} (hsel : le b 0 1 % 32 ≠ 0) : mergePend b none = some (selectedFields b) := by
  simp [mergePend, selectedFields, hsel]

/-! ### P3 (R36) -/

section
variable {set : Settings} (h3 : set.envAct = 3) (w : Who) {b : List Byte} (p : Pkg)
include h3

theorem tryOpen_of_p3 (hb : openFieldsBad b = false) : tryOpen set ⟨w, b⟩ p = answer w stBadState 0 0 p := by
  simp [tryOpen, hb, h3]

theorem stepCommit_of_p3 (hb : stepNumBad p b = false) : stepCommit w b set p = answer w stBadState 0 0 p := by
  simp [stepCommit, hb, h3]

theorem matrixCommand_of_p3 {op : Nat} (hb : commandBad (· == if op == 0x0301 then 0x01 else 0x02) b = false) :
    matrixCommand op w b set p = answer w stBadState 0 0 p := by
  rw [matrixCommand, hb]
  simp [h3]

theorem chainCommand_of_p3 (hb : commandBad (· == 0x10) b = false) :
    chainCommand w b set p = answer w stBadState 0 0 p := by
  simp [chainCommand, hb, h3]

end

theorem onPacketP_of_eq {s : State} {q op : Nat} {w : Who} {b : List Byte} {p r : Pkg}
    {f : Who → List Byte → Settings → Pkg → Pkg} (h : Takes s (.queue q) op w b p) (hf : f w b s.set p = r) :
    onPacketP q op f s = .next { s with p := r } := by
  rw [onPacketP_takes f h, hf]

/-- Settles O29: under a step SET_MODE only merges what waits; at a boundary the merged values take effect at once. -/
theorem setModeTakesEffect : Obligations.SetModeTakesEffect := by
  unfold Obligations.SetModeTakesEffect
  refine ⟨fun s q w b p h hbad hlanes => ?_, fun s q w b p h3 => ?_⟩
  · have hplan : (bit (le b 0 1) 5 && le b 6 1 != s.set.lanes) = false := by simpa using hlanes
    have hexec := onPacket_takes setMode h
    refine ⟨fun hbusy => ?_, fun hbusy hpend hsel => ?_⟩
    · exact hexec.trans (congrArg _ (setMode_of_stepBusy (s := { s with p := p }) w hbad hplan hbusy))
    · have hset := setMode_of_boundary (s := { s with p := p }) w hbad hplan hbusy
      obtain ⟨v, r, happly, hv⟩ :=
        applyPend_some (s := { s with set := { s.set with pend := mergePend b s.set.pend }, p := p })
          (hpend ▸ mergePend_none hsel)
      rw [happly] at hset
      refine ⟨_, hexec.trans (congrArg _ hset), rfl, getD_selected _ _ _, getD_selected _ _ _, getD_selected _ _ _,
        getD_selected _ _ _, getD_selected _ _ _, fun hf => ?_, by simp [PendMode.onto, hpend]⟩
      have hpwr : v = p.pwr := hv fun hon => by
        rcases hf with h | h | h | h
        · exact .inl h
        · exact .inl (filler_of_selectedFields (.inl h) hon)
        · exact .inl (filler_of_selectedFields (.inr h) hon)
        · exact .inr h
      simp [PendMode.onto, envAfter, hpwr]
  · exact ⟨fun h hb => onPacketP_of_eq (f := fun w b set p => tryOpen set ⟨w, b⟩ p) h (tryOpen_of_p3 h3 w p hb),
      fun h hb => onPacketP_of_eq h (stepCommit_of_p3 h3 w p hb),
      fun h hb => onPacketP_of_eq h (matrixCommand_of_p3 (op := 0x0301) h3 w p hb),
      fun h hb => onPacketP_of_eq h (matrixCommand_of_p3 (op := 0x0302) h3 w p hb),
      fun h hb => onPacketP_of_eq h (chainCommand_of_p3 h3 w p hb)⟩

end Sys2Proof.Machine
end

section
/-! PROOFS. The number formats (O60). A pattern decodes by its fields to a number, an infinity or a NaN, and the number
lies on the format's own grid, so the one rounding gives the pattern back; then the range of stochastic rounding, and
the symmetry of the exact sum and product. -/

namespace Sys2Proof.Machine

/-! ### The fields of a pattern (R42 to R48) -/

/-- The sign bit of a pattern. -/
def Fmt.sign (f : Fmt) (b : Nat) : Bool := bit b (f.bits - 1)

/-- The pattern without its sign bit. -/
def Fmt.mag (f : Fmt) (b : Nat) : Nat := b % 2 ^ (f.bits - 1)

def Fmt.expField (f : Fmt) (b : Nat) : Nat := b / 2 ^ f.layout.fracBits % 2 ^ f.layout.expBits

def Fmt.fracField (f : Fmt) (b : Nat) : Nat := b % 2 ^ f.layout.fracBits

/-- The exponent of the last place of the subnormals, the finest of the grid (R53). -/
def FloatFmt.unit (l : FloatFmt) : Int := 1 - (l.bias : Int) - l.fracBits

theorem Fmt.bits_eq_layout (f : Fmt) : f.bits = f.layout.expBits + f.layout.fracBits + 1 := by
  cases f <;> rfl

theorem Fmt.mag_add_signBit {f : Fmt} {b : Nat} (hb : b < 2 ^ f.bits) : f.mag b + f.signBit (f.sign b) = b := by
  have htop : b / 2 ^ (f.bits - 1) < 2 := by
    rw [f.bits_eq_layout] at hb ⊢
    exact Nat.div_lt_of_lt_mul (by rwa [Nat.add_sub_cancel, ← Nat.pow_succ])
  have hsplit := Nat.mod_add_div b (2 ^ (f.bits - 1))
  rw [Fmt.mag, Fmt.sign, Fmt.signBit, bit]
  obtain h | h : b / 2 ^ (f.bits - 1) = 0 ∨ b / 2 ^ (f.bits - 1) = 1 := by
    generalize b / 2 ^ (f.bits - 1) = top at htop
    omega
  · simpa [h] using hsplit
  · simpa [h] using hsplit

theorem Fmt.mag_eq_fields (f : Fmt) (b : Nat) :
    f.mag b = f.expField b * 2 ^ f.layout.fracBits + f.fracField b := by
  rw [Fmt.mag, f.bits_eq_layout, Nat.add_sub_cancel, Nat.add_comm, Nat.pow_add, Nat.mod_mul, Nat.add_comm,
    Nat.mul_comm]
  rfl

theorem Fmt.fracField_lt (f : Fmt) (b : Nat) : f.fracField b < 2 ^ f.layout.fracBits :=
  Nat.mod_lt _ (Nat.two_pow_pos _)

theorem Fmt.expField_lt (f : Fmt) (b : Nat) : f.expField b < 2 ^ f.layout.expBits :=
  Nat.mod_lt _ (Nat.two_pow_pos _)

/-! ### What a pattern decodes to (R52) -/

/-- A finite pattern's value, over its fields. -/
def Fmt.number (f : Fmt) (b : Nat) : Val :=
  if f.expField b = 0 then .fin (f.sign b) (f.fracField b) f.layout.unit
  else .fin (f.sign b) (2 ^ f.layout.fracBits + f.fracField b) (f.layout.unit + (f.expField b - 1 : Nat))

theorem decode_e4m3 (b : Nat) :
    decode .e4m3 b = if Fmt.expField .e4m3 b = 15 ∧ Fmt.fracField .e4m3 b = 7 then .nan else Fmt.number .e4m3 b := by
  simp [decode, Fmt.number, Fmt.expField, Fmt.fracField, Fmt.sign, Fmt.bits, Fmt.layout, FloatFmt.unit] <;> rfl

theorem decode_e2m1 (b : Nat) : decode .e2m1 b = Fmt.number .e2m1 b := by
  simp [decode, Fmt.number, Fmt.expField, Fmt.fracField, Fmt.sign, Fmt.bits, Fmt.layout, FloatFmt.unit]

/-- The formats that keep the largest exponent field for infinities and NaNs, as IEEE 754 does. -/
def Fmt.Ieee (f : Fmt) : Prop := f ≠ .int8 ∧ f ≠ .e4m3 ∧ f ≠ .e2m1

theorem decode_of_ieee {f : Fmt} (hf : f.Ieee) (b : Nat) :
    decode f b =
      if f.expField b = 2 ^ f.layout.expBits - 1 then (if f.fracField b = 0 then .inf (f.sign b) else .nan)
      else f.number b := by
  obtain ⟨h8, h4, h2⟩ := hf
  cases f
  case int8 => exact absurd rfl h8
  case e4m3 => exact absurd rfl h4
  case e2m1 => exact absurd rfl h2
  all_goals
    simp [decode, Fmt.number, Fmt.expField, Fmt.fracField, Fmt.sign, Fmt.bits, Fmt.layout, FloatFmt.unit] <;> rfl

theorem Fmt.infinity_of_ieee {f : Fmt} (hf : f.Ieee) :
    f.infinity = (2 ^ f.layout.expBits - 1) * 2 ^ f.layout.fracBits ∧ f.infinity = f.maxFinite + 1 := by
  obtain ⟨h8, h4, h2⟩ := hf
  cases f <;> simp_all [Fmt.infinity, Fmt.maxFinite, Fmt.layout]

theorem Fmt.expField_eq_top_iff {f : Fmt} (hf : f.Ieee) (b : Nat) :
    f.expField b = 2 ^ f.layout.expBits - 1 ↔ f.maxFinite < f.mag b := by
  obtain ⟨htop, hmax⟩ := Fmt.infinity_of_ieee hf
  have hexp := f.expField_lt b
  have hfrac := f.fracField_lt b
  rw [← Nat.succ_le_iff, Nat.succ_eq_add_one, ← hmax, htop, f.mag_eq_fields]
  refine ⟨fun h => by simp [h], fun h => ?_⟩
  have : (2 ^ f.layout.expBits - 1) * 2 ^ f.layout.fracBits < (f.expField b + 1) * 2 ^ f.layout.fracBits := by
    rw [Nat.add_mul]; omega
  have := Nat.lt_of_mul_lt_mul_right this
  omega

theorem Fmt.e4m3_nan_iff (b : Nat) :
    (Fmt.expField .e4m3 b = 15 ∧ Fmt.fracField .e4m3 b = 7) ↔ Fmt.maxFinite .e4m3 < Fmt.mag .e4m3 b := by
  have hexp : Fmt.expField .e4m3 b < 16 := Fmt.expField_lt .e4m3 b
  have hfrac : Fmt.fracField .e4m3 b < 8 := Fmt.fracField_lt .e4m3 b
  have hmag : Fmt.mag .e4m3 b = Fmt.expField .e4m3 b * 8 + Fmt.fracField .e4m3 b := Fmt.mag_eq_fields .e4m3 b
  rw [hmag, show Fmt.maxFinite .e4m3 = 126 from rfl]
  omega

theorem Fmt.mag_e2m1_le (b : Nat) : Fmt.mag .e2m1 b ≤ Fmt.maxFinite .e2m1 :=
  Nat.le_of_lt_succ (Nat.mod_lt _ (by decide))

/-- A pattern that is no NaN is the infinity of its sign or a number no larger than the largest finite one. -/
theorem decode_of_ne_nan {f : Fmt} (hf : f ≠ .int8) {b : Nat} (hn : decode f b ≠ .nan) :
    (f.Ieee ∧ decode f b = .inf (f.sign b) ∧ f.mag b = f.infinity) ∨
      (decode f b = f.number b ∧ f.mag b ≤ f.maxFinite) := by
  by_cases h4 : f = .e4m3
  · subst h4
    rw [decode_e4m3] at hn ⊢
    have hfin : ¬ (Fmt.expField .e4m3 b = 15 ∧ Fmt.fracField .e4m3 b = 7) := fun h => hn (if_pos h)
    exact .inr ⟨if_neg hfin, by rwa [Fmt.e4m3_nan_iff, Nat.not_lt] at hfin⟩
  by_cases h2 : f = .e2m1
  · subst h2
    exact .inr ⟨decode_e2m1 b, Fmt.mag_e2m1_le b⟩
  have hi : f.Ieee := ⟨hf, h4, h2⟩
  rw [decode_of_ieee hi] at hn ⊢
  by_cases htop : f.expField b = 2 ^ f.layout.expBits - 1
  · have hzero : f.fracField b = 0 :=
      Decidable.byContradiction fun h => hn (by rw [if_pos htop, if_neg h])
    refine .inl ⟨hi, by rw [if_pos htop, if_pos hzero], ?_⟩
    rw [f.mag_eq_fields, htop, hzero, (Fmt.infinity_of_ieee hi).1, Nat.add_zero]
  · exact .inr ⟨if_neg htop, by rwa [Fmt.expField_eq_top_iff hi, Nat.not_lt] at htop⟩

/-! ### Rounding leaves the numbers of the grid as they are (R57) -/

/-- The bits of a magnitude rounded once, before what lies beyond the largest finite value is set aside. -/
def FloatFmt.roundBits (l : FloatFmt) (m : Nat) (e : Int) : Nat := packMag l (roundMag l m e).1 (roundMag l m e).2

theorem roundBits_of_subnormal {l : FloatFmt} {m : Nat} (h : m < 2 ^ l.fracBits) : l.roundBits m l.unit = m := by
  by_cases h0 : m = 0
  · simp [FloatFmt.roundBits, roundMag, packMag, h0]
  have hlog : Nat.log2 m < l.fracBits := (Nat.log2_lt h0).2 h
  have hgrid : gridExp l m l.unit = l.unit := by rw [gridExp, FloatFmt.unit]; omega
  simp [FloatFmt.roundBits, roundMag, h0, hgrid, up, packMag, h]

theorem roundBits_of_normal {l : FloatFmt} {frac : Nat} (h : frac < 2 ^ l.fracBits) (k : Nat) :
    l.roundBits (2 ^ l.fracBits + frac) (l.unit + k) = (k + 1) * 2 ^ l.fracBits + frac := by
  have hne : 2 ^ l.fracBits + frac ≠ 0 := by have := Nat.two_pow_pos l.fracBits; omega
  have hlog : Nat.log2 (2 ^ l.fracBits + frac) = l.fracBits :=
    (Nat.log2_eq_iff hne).2 ⟨by omega, by rw [Nat.pow_succ]; omega⟩
  have hgrid : gridExp l (2 ^ l.fracBits + frac) (l.unit + k) = l.unit + k := by
    rw [gridExp, hlog, FloatFmt.unit]; omega
  have hfield : (l.unit + k + l.fracBits + l.bias - 1).toNat = k := by rw [FloatFmt.unit]; omega
  have hround : roundMag l (2 ^ l.fracBits + frac) (l.unit + k) = (2 ^ l.fracBits + frac, l.unit + k) := by
    simp [roundMag, hgrid, up]
  have hbig : ¬ 2 ^ l.fracBits + frac < 2 ^ l.fracBits := by omega
  simp only [FloatFmt.roundBits, hround, packMag, if_neg hbig, hfield, Nat.add_mul, Nat.one_mul, Nat.add_assoc]

theorem Fmt.number_roundBits (f : Fmt) (b : Nat) :
    ∃ m e, f.number b = .fin (f.sign b) m e ∧ f.layout.roundBits m e = f.mag b := by
  rw [f.mag_eq_fields, Fmt.number]
  split
  case isTrue h => exact ⟨_, _, rfl, by rw [roundBits_of_subnormal (f.fracField_lt b), h, Nat.zero_mul, Nat.zero_add]⟩
  case isFalse h => exact ⟨_, _, rfl, by rw [roundBits_of_normal (f.fracField_lt b), Nat.sub_add_cancel (by omega)]⟩

/-! ### Conversion of a pattern's value (R57, R58) -/

theorem convert_inf {f : Fmt} (hf : f.Ieee) (neg : Bool) :
    (convert f true (.inf neg)).bits = f.infinity + f.signBit neg := by
  obtain ⟨h8, h4, h2⟩ := hf
  simp [convert, h4, h2]

theorem convert_fin_of_le {f : Fmt} (hf : f ≠ .int8) (neg : Bool) {m : Nat} {e : Int}
    (h : f.layout.roundBits m e ≤ f.maxFinite) :
    (convert f true (.fin neg m e)).bits = f.layout.roundBits m e + f.signBit neg := by
  have hfits : ¬ packMag f.layout (roundMag f.layout m e).1 (roundMag f.layout m e).2 > f.maxFinite := Nat.not_lt.2 h
  simp only [convert, if_neg hfits, FloatFmt.roundBits]

theorem convert_decode_float {f : Fmt} (hf : f ≠ .int8) {b : Nat} (hb : b < 2 ^ f.bits) (hn : decode f b ≠ .nan) :
    (convert f true (decode f b)).bits = b := by
  obtain ⟨hi, hdec, hmag⟩ | ⟨hdec, hmag⟩ := decode_of_ne_nan hf hn
  · rw [hdec, convert_inf hi, ← hmag, Fmt.mag_add_signBit hb]
  · obtain ⟨m, e, hnum, hround⟩ := f.number_roundBits b
    rw [hdec, hnum, convert_fin_of_le hf _ (hround ▸ hmag), hround, Fmt.mag_add_signBit hb]

theorem signed_eight_bounds {b : Nat} (hb : b < 256) : -128 ≤ signed 8 b ∧ signed 8 b ≤ 127 := by
  unfold signed
  split <;> omega

theorem unsigned_signed_eight {b : Nat} (hb : b < 256) : unsigned 8 (signed 8 b) = b := by
  unfold unsigned signed
  split <;> omega

theorem convInt8_of_bounds {i : Int} (hlo : -128 ≤ i) (hhi : i ≤ 127) :
    (convInt8 (.fin (i < 0) i.natAbs 0)).bits = unsigned 8 i := by
  simp only [convInt8, up, ge_iff_le, Int.le_refl, if_true, Int.toNat_zero, Nat.pow_zero, Nat.mul_one, decide_eq_true_eq]
  by_cases hneg : i < 0
  · have hfits : ¬ i.natAbs > 128 := by omega
    have habs : -(i.natAbs : Int) = i := by omega
    rw [if_pos hneg, if_neg hfits, habs]
  · have hfits : ¬ i.natAbs > 127 := by omega
    have hnat : i.natAbs = unsigned 8 i := by unfold unsigned; omega
    rw [if_neg hneg, if_neg hfits, hnat]

theorem convert_decode_int8 {b : Nat} (hb : b < 256) : (convert .int8 true (decode .int8 b)).bits = b := by
  obtain ⟨hlo, hhi⟩ := signed_eight_bounds hb
  calc (convert .int8 true (decode .int8 b)).bits
      = (convInt8 (.fin (signed 8 b < 0) (signed 8 b).natAbs 0)).bits := by
        simp only [convert, decode, Nat.mod_eq_of_lt hb]
    _ = b := by rw [convInt8_of_bounds hlo hhi, unsigned_signed_eight hb]

/-! ### Stochastic rounding (R60, R61) -/

theorem Fmt.maxFinite_lt (f : Fmt) : f.maxFinite < 2 ^ (f.bits - 1) := by cases f <;> decide

theorem Fmt.add_signBit_mod {f : Fmt} {q : Nat} (h : q ≤ f.maxFinite) (neg : Bool) :
    (q + f.signBit neg) % 2 ^ (f.bits - 1) = q := by
  have hlt := Nat.lt_of_le_of_lt h f.maxFinite_lt
  cases neg <;> simp [Fmt.signBit, Nat.mod_eq_of_lt hlt]

theorem stochastic_fin (f : Fmt) (neg : Bool) (m : Nat) (e : Int) (r : Nat) :
    ∃ q ≤ f.maxFinite, (stochastic f (.fin neg m e) r).1 = q + f.signBit neg := by
  unfold stochastic
  dsimp -zeta only
  split
  · exact ⟨0, Nat.zero_le _, (Nat.zero_add _).symm⟩
  · extract_lets g q fr mag
    split
    case isTrue => exact ⟨_, Nat.le_refl _, rfl⟩
    case isFalse h => exact ⟨_, Nat.not_lt.1 h, rfl⟩

/-! ### The exact sum and product are symmetric (R55) -/

theorem Val.add_comm (a b : Val) : a.add b = b.add a := by
  cases a <;> cases b
  case fin.fin n₁ m₁ e₁ n₂ m₂ e₂ => simp only [Val.add, Int.min_comm e₁ e₂, Int.add_comm, Bool.and_comm n₁ n₂]
  case inf.inf x y => cases x <;> cases y <;> rfl
  all_goals rfl

theorem Val.mul_comm (a b : Val) : a.mul b = b.mul a := by
  cases a <;> cases b
  case fin.fin n₁ m₁ e₁ n₂ m₂ e₂ => simp only [Val.mul, Nat.mul_comm m₁ m₂, Int.add_comm e₁ e₂, bne_comm (a := n₁)]
  all_goals simp only [Val.mul, bne_comm]

/-- Settles O60: a finite value lies on its format's grid, where rounding changes nothing; stochastic rounding saturates
at the largest finite value; sum and product are symmetric before their one rounding. -/
theorem numberFormats : Obligations.NumberFormats := by
  unfold Obligations.NumberFormats
  refine ⟨fun f b hb hn => ?_, fun f neg m e r _ _ => ?_, fun a b => ⟨?_, ?_⟩⟩
  · by_cases hf : f = .int8
    · subst hf
      exact convert_decode_int8 hb
    · exact convert_decode_float hf hb hn
  · obtain ⟨q, hq, heq⟩ := stochastic_fin f neg m e r
    rw [heq, Fmt.add_signBit_mod hq]
    exact hq
  · rw [fadd, Val.add_comm, fadd]
  · rw [fmul, Val.mul_comm, fmul]

end Sys2Proof.Machine
end

section
/-! PROOFS. The launch of tasks (O37, O38): a task that may be launched runs its meaning under `finish`; what each type's
meaning makes of descriptors that pass. -/

namespace Sys2Proof.Machine

theorem launchAs_of_launchable {set : Settings} {p : Pkg} {iid k type u : Nat} {i : Inst}
    (h : launchable set p iid k type = some (i, some u)) (f : Inst → Nat → Settings → Pkg → Pkg) :
    launchAs type iid k f set p = finish set (f i u set p) := by
  simp only [launchAs, h]

theorem onP_of_eq {s : State} {q : Pkg} {f : Settings → Pkg → Pkg} (h : f s.set s.p = q) :
    onP f s = .next { s with p := q } := by
  rw [onP_eq, h]

/-- A launch whose meaning `f` gives `q` leaves `q`, once what follows every launch is done. -/
theorem onP_launchAs {s : State} {iid k type u : Nat} {i : Inst} {q : Pkg} {f : Inst → Nat → Settings → Pkg → Pkg}
    (h : launchable s.set s.p iid k type = some (i, some u)) (hf : f i u s.set s.p = q) :
    onP (launchAs type iid k f) s = .next { s with p := finish s.set q } :=
  onP_of_eq (by rw [launchAs_of_launchable h, hf])

section
variable {set : Settings} {p : Pkg} {i : Inst} {k u : Nat}

/-! ### Work on memory (R93, R111, R123, R199, R375) -/

theorem startMatrix_of_placed {ps : Option (List Byte) × List (Nat × Nat × List Tensor)}
    {gs : List (Nat × Nat × List Tensor)} {holds : List (Nat × Nat)}
    (hread : readProducts set p i (i.desc k) = .ok ps)
    (hplace : placeProducts set p i (i.desc k) (i.part k) ps = .ok (gs, holds)) :
    startMatrix k i u set p = startRun set i k (matrixRun set p i k u ps.1 gs holds) p := by
  simp [startMatrix, hread, hplace, bind, Except.bind, pure, Except.pure]

theorem startChain_of_placed {tn : List Tensor} {holds : List (Nat × Nat)}
    (hprep : prepare set p i (i.desc k) (chainOuts (parseChain (tBody (i.desc k)))) = .go tn holds)
    (hfit : chainTensorsBad (parseChain (tBody (i.desc k))) (fun k => tn.getD k noTensor)
      (tn.getD (parseChain (tBody (i.desc k))).iter noTensor).ext false = false) :
    startChain k i u set p = startRun set i k (chainRun set p i k u tn holds)
      (if (chainRun set p i k u tn holds).fate = stIndex ∨ (parseChain (tBody (i.desc k))).branchBits = true then
        { p with free := p.free + 1 } else p) := by
  simp only [startChain, hprep, hfit, Bool.false_eq_true, if_false, Bool.or_eq_true, beq_iff_eq]

theorem startCopy_of_placed {tn : List Tensor} {holds : List (Nat × Nat)}
    (hprep : prepare set p i (i.desc k) [le (tBody (i.desc k)) 1 1] = .go tn holds) {op : Nat}
    (hop : le (tBody (i.desc k)) 2 1 = op) {src dst : Tensor} (hdst : tn.getD (le (tBody (i.desc k)) 1 1) noTensor = dst)
    (hsrc : (if op = 3 then dst else tn.getD (le (tBody (i.desc k)) 0 1) noTensor) = src)
    (hfit : copyTensorsBad op src dst = false) (hread : op ≠ 3 → rowError set p src = none) :
    startCopy k i u set p = startRun set i k
      { iid := i.iid, task := k, unit := u, j1 := i.j1, began := p.ft.count, tensors := tn, holds
        work := copyWork set p op src dst } p := by
  have herr : (if op == 3 then none else rowError set p src) = none := by
    split
    · rfl
    case isFalse h => exact hread fun he => h (beq_iff_eq.2 he)
  simp only [startCopy, hprep, hop, hdst, beq_iff_eq, hsrc, hfit, Bool.false_eq_true, if_false] at herr ⊢
  rw [herr, cutWork]

/-! ### Joins and branches (R103 to R105) -/

theorem startJoin_of_prepare {tn : List Tensor} {holds : List (Nat × Nat)}
    (hprep : prepare set p i (i.desc k) [] = .go tn holds) : startJoin k i u set p = passTask set i k u p := by
  simp only [startJoin, hprep]

theorem readDescs_of_stale {d : List Byte} (given : List Nat) (h : tEpoch d ≠ 0xFFFF) (he : tEpoch d ≠ p.reshard.epoch) :
    readDescs set p i d given = .fails stBadState none := by
  simp [readDescs, h, he]

/-- A join under another layout epoch fails with BAD_STATE (R111). -/
theorem startJoin_of_stale (h : tEpoch (i.desc k) ≠ 0xFFFF) (he : tEpoch (i.desc k) ≠ p.reshard.epoch) :
    startJoin k i u set p = failTask set i.iid k stBadState u p := by
  simp only [startJoin, prepare, readDescs_of_stale [] h he, failLaunch]

theorem startBranch_of_table {tn : List Tensor} {holds : List (Nat × Nat)} {table : List Byte}
    (hprep : prepare set p i (i.desc k) [] = .go tn holds)
    (htable : p.tasks.branches.find? (fun t => le t 0 1 == le (tBody (i.desc k)) 0 1) = some table) {c : Nat}
    (hc : branchChoice table (summaryAt p i (le (tBody (i.desc k)) 2 2)) = c) (hmem : c ∈ branchSubs (tBody (i.desc k))) :
    startBranch k i u set p = passTask set i k u (modInst i.iid (fun j => { j with
      chosen := j.chosen ++ [c], unchosen := j.unchosen ++ (branchSubs (tBody (i.desc k))).filter (· != c) }) p) := by
  have hsub : (branchSubs (tBody (i.desc k))).elem c = true := by simpa using hmem
  simp only [startBranch, hprep, htable, hc, hsub, Bool.not_true, Bool.false_eq_true, if_false]

/-! ### Sends and stash tasks (R246 to R253, R282, R283) -/

theorem startSend_of_prepare {tn : List Tensor} {holds : List (Nat × Nat)}
    (hprep : prepare set p i (i.desc k) [] = .go tn holds)
    (hsend : sendFails p i (tBody (i.desc k)) (tn.getD (le (tBody (i.desc k)) 2 1) noTensor) = none) :
    startSend k i u set p = startRun set i k
      { iid := i.iid, task := k, unit := u, j1 := i.j1, began := p.ft.count, tensors := tn, holds, waits := true } p := by
  simp only [startSend, hprep, hsend]

theorem startRelease_of_prepare {tn : List Tensor} {holds : List (Nat × Nat)}
    (hprep : prepare set p i (i.desc k) [] = .go tn holds) :
    startRelease k i u set p = closeSegment set (le (tBody (i.desc k)) 0 1) i.num (startRun set i k
      { iid := i.iid, task := k, unit := u, j1 := i.j1, began := p.ft.count, tensors := tn, holds } p) := by
  simp only [startRelease, hprep]

/-- A DRAIN that finds its frame, whole and readable, in an open segment. -/
theorem startDrain_of_frame {tn : List Tensor} {holds : List (Nat × Nat)} {b : List Byte} {n : Nat} {outs : List Nat}
    {h : Hollow} {seg : Segment} {place : Nat} {f : Kept} (hb : tBody (i.desc k) = b) (hn : le b 0 1 = n)
    (houts : (le b 2 1 :: if le b 3 1 == 0xFF then [] else [le b 3 1]) = outs) (hh : hollowAt p n = h)
    (hprep : prepare set p i (i.desc k) outs = .go tn holds) (hbits : stashBitsBad b tn = false)
    (hshare : sharesOther tn (le b 2 1) outs = false) (hon : h.on = true) (hseg : segmentOf h i.num = some seg)
    (hframe : drainFrame seg b = some (place, f)) (hfit : drainBadFit b tn f = false) (hkept : f.dropped = false)
    (hread : frameError set p h f = none) :
    startDrain k i u set p =
      let q := startRun set i k
        { iid := i.iid, task := k, unit := u, j1 := i.j1, began := p.ft.count, tensors := tn, holds
          summary := if le b 6 2 = 0xFFFF then none
            else some (le b 6 2, drainSummary f (seg.frames.length - b2n (le b 1 1 == 0)))
          work := drainWork b tn (frameBytesRead set p h f) } p
      refillCache set n i.num (if le b 1 1 = 0 then popFrame set n i.num q else q) := by
  simp only [startDrain, hb, hn, houts, hprep, hh, hbits, hshare, hon, hseg, hframe, hfit, hkept, hread, Bool.or_self,
    Bool.false_eq_true, if_false, Option.bind_some, Option.map_some]
  simp only [beq_iff_eq]

section
variable {tn : List Tensor} {holds : List (Nat × Nat)} (hprep : prepare set p i (i.desc k) [] = .go tn holds)
  (hbits : stashBitsBad (tBody (i.desc k)) tn = false) (hon : (hollowAt p (le (tBody (i.desc k)) 0 1)).on = true)
include hprep hbits hon

theorem startPush_of_pushMay (hmay : pushMay p i k = true) :
    startPush k i u set p = placePush set i k (startRun set i k
      { iid := i.iid, task := k, unit := u, j1 := i.j1, began := p.ft.count, tensors := tn, holds } p) := by
  simp only [startPush, hprep, hbits, hon, hmay, Bool.not_true, Bool.false_eq_true, if_false]

/-- A PUSH with no room to open its segment waits (R246). -/
theorem startPush_of_full (hmay : pushMay p i k = false) :
    startPush k i u set p =
      let q := startRun set i k
        { iid := i.iid, task := k, unit := u, j1 := i.j1, began := p.ft.count, tensors := tn, holds, waits := true } p
      { q with hollow := { q.hollow with pushWait := q.hollow.pushWait ++ [(i.iid, k)] } } := by
  simp only [startPush, hprep, hbits, hon, hmay, Bool.not_true, Bool.not_false, Bool.false_eq_true, if_false, if_true]

end

end

/-- Settles O37: a product, a chain and a copy whose descriptors pass start with the run of their chapter. -/
theorem tasksLaunch : Obligations.TasksLaunch := by
  unfold Obligations.TasksLaunch
  intro s iid k u i
  refine ⟨fun ps gs holds hl hread hplace => onP_launchAs hl (startMatrix_of_placed hread hplace),
    fun ps gs holds hl hread hplace => onP_launchAs hl (startMatrix_of_placed hread hplace),
    fun tn holds hl hprep hfit => onP_launchAs hl (startChain_of_placed hprep hfit),
    fun tn holds hl hprep hfit hread => onP_launchAs hl (startCopy_of_placed hprep rfl rfl rfl hfit hread)⟩

/-- Settles O38: each task of the control cores, the stage links and the hollow, from the equation of its meaning. -/
theorem controlAndStashTasksLaunch : Obligations.ControlAndStashTasksLaunch := by
  unfold Obligations.ControlAndStashTasksLaunch
  intro s iid k u i
  refine ⟨fun hl => ⟨fun tn holds hprep => onP_launchAs hl (startJoin_of_prepare hprep),
      fun h he => onP_launchAs hl (startJoin_of_stale h he)⟩,
    fun table tn holds hl hprep htable hmem => onP_launchAs hl (startBranch_of_table hprep htable rfl hmem),
    fun tn holds hl hprep hsend => onP_launchAs hl (startSend_of_prepare hprep hsend),
    fun tn holds hl hprep => onP_launchAs hl (startRelease_of_prepare hprep),
    fun tn holds seg place f hl hprep hbits hshare hon hseg hframe hfit hkept hread =>
      onP_launchAs hl (startDrain_of_frame rfl rfl rfl rfl hprep hbits hshare hon hseg hframe hfit hkept hread),
    fun tn holds hl hprep hbits hon => ⟨fun hmay => by
        dsimp only
        exact onP_launchAs hl (startPush_of_full hprep hbits hon hmay),
      fun hmay => onP_launchAs hl (startPush_of_pushMay hprep hbits hon hmay)⟩⟩

end Sys2Proof.Machine
end

section
/-! PROOFS. A prefetch (O44): the rows of a tensor, cut at 1 MiB, hold its first bytes in element order, and a core reads
each of them as it stands. -/

namespace Sys2Proof.Machine

/-! ### The first bytes of a list of ranges -/

/-- The addresses that ranges name, in order. -/
def addressesOf (rs : List (Nat × Nat)) : List Nat := rs.flatMap fun r => (List.range r.2).map (r.1 + ·)

/-- One range more after `acc.2`, which hold `acc.1` bytes of `limit`: cut to what is left, and omitted when nothing is. -/
def takeRange (limit : Nat) (acc : Nat × List (Nat × Nat)) (r : Nat × Nat) : Nat × List (Nat × Nat) :=
  let n := min r.2 (limit - acc.1)
  (acc.1 + n, if n == 0 then acc.2 else acc.2 ++ [(r.1, n)])

/-- The ranges that hold the first `limit` bytes of `rs`. -/
def firstRanges (limit : Nat) (rs : List (Nat × Nat)) : List (Nat × Nat) := (rs.foldl (takeRange limit) (0, [])).2

theorem addressesOf_append (as bs : List (Nat × Nat)) : addressesOf (as ++ bs) = addressesOf as ++ addressesOf bs :=
  List.flatMap_append

theorem addressesOf_takeRange {limit : Nat} {acc : Nat × List (Nat × Nat)} (r : Nat × Nat)
    (hlen : (addressesOf acc.2).length = acc.1) (hle : acc.1 ≤ limit) :
    addressesOf (takeRange limit acc r).2 = (addressesOf acc.2 ++ addressesOf [r]).take limit := by
  have hcut : (addressesOf [r]).take (limit - acc.1) = (List.range (min r.2 (limit - acc.1))).map (r.1 + ·) := by
    simp only [addressesOf, List.flatMap_cons, List.flatMap_nil, List.append_nil, ← List.map_take, List.take_range,
      Nat.min_comm]
  rw [List.take_append, hlen, hcut, List.take_of_length_le (hlen ▸ hle)]
  simp only [takeRange, beq_iff_eq]
  split
  case isTrue h => rw [h, List.range_zero, List.map_nil, List.append_nil]
  case isFalse => rw [addressesOf_append, addressesOf, addressesOf, List.flatMap_cons, List.flatMap_nil, List.append_nil]

theorem addressesOf_foldl_takeRange {limit : Nat} (rs : List (Nat × Nat)) (acc : Nat × List (Nat × Nat))
    (hlen : (addressesOf acc.2).length = acc.1) (hle : acc.1 ≤ limit) :
    addressesOf (rs.foldl (takeRange limit) acc).2 = (addressesOf acc.2 ++ addressesOf rs).take limit := by
  induction rs generalizing acc with
  | nil =>
    rw [List.foldl_nil, addressesOf.eq_1 [], List.flatMap_nil, List.append_nil, List.take_of_length_le (hlen ▸ hle)]
  | cons r rs ih =>
    have hcons : addressesOf (r :: rs) = addressesOf [r] ++ addressesOf rs := addressesOf_append [r] rs
    have hnext := addressesOf_takeRange r hlen hle
    have hr : (addressesOf [r]).length = r.2 := by simp [addressesOf]
    have hcount : (addressesOf (takeRange limit acc r).2).length = (takeRange limit acc r).1 := by
      rw [hnext, List.length_take, List.length_append, hlen, hr, takeRange]
      omega
    have hbound : (takeRange limit acc r).1 ≤ limit := by
      rw [takeRange]
      omega
    rw [List.foldl_cons, ih _ hcount hbound, hnext, hcons, ← List.append_assoc]
    generalize addressesOf acc.2 ++ addressesOf [r] = l
    rw [List.take_append, List.take_append, List.take_take, Nat.min_self, List.length_take]
    congr 2
    omega

theorem addressesOf_firstRanges (limit : Nat) (rs : List (Nat × Nat)) :
    addressesOf (firstRanges limit rs) = (addressesOf rs).take limit :=
  addressesOf_foldl_takeRange rs (0, []) rfl (Nat.zero_le _)

/-! ### The bytes that a core reads (R107, R108) -/

theorem readError_of_healthy {p : Pkg} (h : healthy p = true) (set : Settings) (a n : Nat) : readError set p a n = none := by
  obtain ⟨hfailed, hbad⟩ : p.mem.failed = 0 ∧ p.mem.bad = [] := by simpa [healthy] using h
  simp [readError, failedIn, hfailed, hbad, firstSome]

@[simp] theorem length_readMem (set : Settings) (p : Pkg) (a n : Nat) : (readMem set p a n).length = n := by
  simp [readMem]

/-- What core `c` holds of the ranges `rs` for task `k` of instance `iid`. -/
def fetchRanges (set : Settings) (p : Pkg) (iid k c : Nat) (rs : List (Nat × Nat)) : List Prefetched :=
  rs.map fun r => ⟨iid, k, c, r.1, readMem set p r.1 r.2⟩

theorem mem_fetchRanges {set : Settings} {p : Pkg} {iid k c : Nat} {rs : List (Nat × Nat)} {f : Prefetched}
    (h : f ∈ fetchRanges set p iid k c rs) : f.iid = iid ∧ f.task = k ∧ f.core = c ∧
      f.bytes = (List.range f.bytes.length).map fun o => readByte set p (f.addr + o) := by
  obtain ⟨r, -, rfl⟩ := List.mem_map.1 h
  exact ⟨rfl, rfl, rfl, by rw [length_readMem]; rfl⟩

theorem addresses_fetchRanges (set : Settings) (p : Pkg) (iid k c : Nat) (rs : List (Nat × Nat)) :
    ((fetchRanges set p iid k c rs).flatMap fun f => (List.range f.bytes.length).map (f.addr + ·)) = addressesOf rs := by
  simp only [fetchRanges, List.flatMap_map, length_readMem, addressesOf]

section
variable {set : Settings} {p : Pkg} {iid k c : Nat} {i : Inst} {tn : List Tensor} {holds : List (Nat × Nat)} {t : Tensor}
  {hold : Option (Nat × Nat)}

theorem prefetch_of_placed (hi : instOf p iid = some i) (hmay : prefetchable p i k = true)
    (hcore : placeCore set p (i.desc k) false = some c) (hnext : nextOnCore set p i k c = true)
    (hread : readDescs set p i (i.desc k) [] = .go tn holds)
    (hplace : placeTensor p i (i.desc k) false (tn.getD (tPrefetch (i.desc k)) noTensor) = .ok t hold)
    (hok : healthy p = true) :
    prefetch set iid k p = { p with tasks := { p.tasks with
      fetched := p.tasks.fetched.filter (fun f => !(f.iid == iid && f.task == k)) ++
        fetchRanges set p iid k c (firstRanges 0x100000 (rowRanges t)) } } := by
  have hsound (rs : List (Nat × Nat)) : (rs.any fun r => (readError set p r.1 r.2).isSome) = false := by
    simp [readError_of_healthy hok]
  simp only [prefetch, hi, hcore, hread, hmay, hnext, hplace, hsound, Bool.not_true, Bool.or_self, Bool.false_eq_true,
    if_false]
  rfl

end

/-- Settles O44: the ranges that the core reads are the tensor's rows, cut at 1 MiB. -/
theorem prefetchFillsAStore : Obligations.PrefetchFillsAStore := by
  unfold Obligations.PrefetchFillsAStore
  intro s iid k c i tn h1 h2 t hi hmay hcore hnext hread hplace hok
  refine ⟨fetchRanges s.set s.p iid k c (firstRanges 0x100000 (rowRanges t)),
    onP_of_eq (f := fun set p => prefetch set iid k p) (prefetch_of_placed hi hmay hcore hnext hread hplace hok),
    fun f hf => mem_fetchRanges hf, ?_⟩
  exact (addresses_fetchRanges _ _ _ _ _ _).trans (addressesOf_firstRanges _ _)

end Sys2Proof.Machine
end

section
/-! PROOFS. Instances and their tasks: what a change of one instance leaves, what settling it (R93, R94, R106) keeps, and
when what follows a command is quiet. For O35 and O41. -/

namespace Sys2Proof.Machine

/-! ### Instances and runs by name -/

/-- Finding an entry by a name that a change of the entries of that name keeps. -/
theorem find?_map_named {α : Type} {named : α → Bool} {f : α → α} (hf : ∀ x, named (f x) = named x) (l : List α) :
    (l.map fun x => if named x then f x else x).find? named = (l.find? named).map f := by
  have hkeep : (named ∘ fun x => if named x then f x else x) = named := by
    funext x
    simp only [Function.comp_apply]
    split
    · exact hf x
    · rfl
  rw [List.find?_map, hkeep]
  cases h : l.find? named with
  | none => rfl
  | some x => simp [List.find?_some h]

theorem instOf_modInst {iid : Nat} {f : Inst → Inst} {p : Pkg} {i : Inst} (h : instOf p iid = some i)
    (hf : ∀ x, (f x).iid = x.iid := by exact fun _ => rfl) : instOf (modInst iid f p) iid = some (f i) := by
  refine (find?_map_named (fun x => by rw [hf]) _).trans ?_
  rw [show p.tasks.insts.find? _ = some i from h, Option.map_some]

theorem runOf_modRun {iid k : Nat} {f : Run → Run} {p : Pkg} {r : Run} (h : runOf p iid k = some r)
    (hf : ∀ x, (f x).iid = x.iid ∧ (f x).task = x.task := by exact fun _ => ⟨rfl, rfl⟩) :
    runOf (modRun iid k f p) iid k = some (f r) := by
  refine (find?_map_named (fun x => by rw [(hf x).1, (hf x).2]) _).trans ?_
  rw [show p.tasks.runs.find? _ = some r from h, Option.map_some]

theorem runOf_dropRun (iid k : Nat) (p : Pkg) : runOf (dropRun iid k p) iid k = none := by
  simp only [runOf, dropRun, List.find?_eq_none, List.mem_filter, Bool.not_eq_true']
  exact fun r hr => by simp [hr.2]

/-! ### Settling an instance (R93, R94, R106) -/

/-- `j` is `i` with its tokens, its unstarted tasks and its undecided subgraphs brought up to date. -/
def Inst.SettlesTo (i j : Inst) : Prop :=
  j = { i with toks := j.toks, tasks := j.tasks, unchosen := j.unchosen } ∧ j.tasks.length = i.tasks.length ∧
    ∀ (k : Nat) (x : TaskState), x = .running ∨ x = .complete → i.tasks[k]? = some x → j.tasks[k]? = some x

namespace Inst.SettlesTo

theorem refl (i : Inst) : i.SettlesTo i := ⟨rfl, rfl, fun _ _ _ h => h⟩

theorem trans {i j l : Inst} (h1 : i.SettlesTo j) (h2 : j.SettlesTo l) : i.SettlesTo l := by
  obtain ⟨hrec1, hlen1, hkeep1⟩ := h1
  obtain ⟨hrec2, hlen2, hkeep2⟩ := h2
  exact ⟨by rw [hrec2, hrec1], hlen2.trans hlen1, fun k x hx h => hkeep2 k x hx (hkeep1 k x hx h)⟩

section
variable {i j : Inst} (h : i.SettlesTo j)
include h

theorem iid : j.iid = i.iid := by rw [h.1]
theorem noMore : j.noMore = i.noMore := by rw [h.1]
theorem ran : j.ran = i.ran := by rw [h.1]
theorem running {k : Nat} (hk : i.tasks[k]? = some .running) : j.tasks[k]? = some .running :=
  h.2.2 k _ (.inl rfl) hk
theorem complete {k : Nat} (hk : i.tasks[k]? = some .complete) : j.tasks[k]? = some .complete :=
  h.2.2 k _ (.inr rfl) hk

end

end Inst.SettlesTo

theorem skipTask_settles {i : Inst} {k : Nat} (hk : unstarted i k = true) : i.SettlesTo (skipTask k i) := by
  refine ⟨rfl, List.length_set, fun n x hx hn => ?_⟩
  have hne : k ≠ n := by
    rintro rfl
    have hget : i.tasks.getD k .complete = x := by rw [List.getD_eq_getElem?_getD, hn, Option.getD_some]
    rw [unstarted, hget] at hk
    rcases hx with rfl | rfl <;> cases hk
  exact (List.getElem?_set_ne hne).trans hn

theorem skipAll_settles (may : Inst → Nat → Bool) (n : Nat) (i : Inst) : i.SettlesTo (skipAll may n i) := by
  induction n generalizing i with
  | zero => exact .refl i
  | succ n ih =>
    unfold skipAll
    split
    case h_1 k hk =>
      have hstart : unstarted i k = true := by
        have := List.find?_some hk
        simp only [Bool.and_eq_true] at this
        exact this.1.1.1
      exact (skipTask_settles hstart).trans (ih _)
    case h_2 => exact .refl i

theorem readiness_settles (t : Nat) (i : Inst) :
    i.SettlesTo { i with tasks := ((List.range i.tasks.length).zip i.tasks).map fun x => readiness t i x.1 x.2 } := by
  refine ⟨rfl, by simp, fun k x hx hk => ?_⟩
  have hlt : k < i.tasks.length := (List.getElem?_eq_some_iff.1 hk).1
  have hzip : ((List.range i.tasks.length).zip i.tasks)[k]? = some (k, x) := by
    rw [List.getElem?_zip_eq_some]
    exact ⟨List.getElem?_range hlt, hk⟩
  simp only [List.getElem?_map, hzip, Option.map_some]
  rcases hx with rfl | rfl <;> rfl

theorem settleInst_settles (may : Inst → Nat → Bool) (t : Nat) (i : Inst) : i.SettlesTo (settleInst may t i) := by
  unfold settleInst
  split
  · exact .refl i
  · exact (skipAll_settles may _ i).trans (readiness_settles t _)

theorem instOf_settleTasks {set : Settings} {iid : Nat} {p : Pkg} {i : Inst} (h : instOf p iid = some i) :
    ∃ j, instOf (settleTasks set iid p) iid = some j ∧ i.SettlesTo j :=
  ⟨_, instOf_modInst h fun x => (settleInst_settles _ _ x).iid, settleInst_settles _ _ _⟩

theorem modInst_of_last {p : Pkg} {l : List Inst} {i : Inst} (hp : p.tasks.insts = l ++ [i])
    (hnew : ∀ j ∈ l, j.iid ≠ i.iid) (f : Inst → Inst) :
    modInst i.iid f p = { p with tasks := { p.tasks with insts := l ++ [f i] } } := by
  have hother : l.map (fun j => if j.iid == i.iid then f j else j) = l :=
    (List.map_congr_left fun j hj => by simp [hnew j hj]).trans (List.map_id _)
  rw [modInst, hp, List.map_append, hother, List.map_singleton, beq_self_eq_true, if_pos rfl]

/-- A new instance joins those that live, settled; nothing else changes but the next name. -/
theorem addInst_of_new (set : Settings) {i : Inst} {p : Pkg} (hnew : ∀ j ∈ p.tasks.insts, j.iid ≠ i.iid) :
    ∃ j, i.SettlesTo j ∧ addInst set i p = { p with tasks := { p.tasks with
      insts := p.tasks.insts ++ [j], nextIid := p.tasks.nextIid + 1 } } :=
  ⟨_, settleInst_settles _ _ _, modInst_of_last rfl hnew _⟩

/-! ### What follows a command -/

theorem checkInst_of_running (set : Settings) {iid n : Nat} {p : Pkg} {i : Inst} (hi : instOf p iid = some i)
    (hmore : i.noMore = false) (hn : i.tasks[n]? = some .running) : checkInst set iid p = p := by
  have hall : i.tasks.all (· == .complete) = false :=
    List.all_eq_false.2 ⟨.running, List.mem_of_getElem? hn, by decide⟩
  simp [checkInst, hi, hmore, hall]

theorem finish_quiet (set : Settings) {p : Pkg} (habort : p.step.abortDue = false)
    (hcommit : (p.step.commitHeld && p.step.state == .committing) = false) : finish set p = resumeJ1 set p := by
  simp only [finish, habort, retrySlots, hcommit, Bool.false_and, Bool.false_eq_true, if_false]

theorem runOf_resumeJ1 {set : Settings} {p : Pkg} {iid k : Nat} (h : runOf p iid k = none) :
    runOf (resumeJ1 set p) iid k = none := by
  simp only [runOf, resumeJ1, List.find?_eq_none, List.mem_map] at h ⊢
  rintro _ ⟨r, hr, rfl⟩
  split <;> exact h r hr

end Sys2Proof.Machine
end

section
/-! PROOFS. Task graphs load, run and unload (O35). -/

namespace Sys2Proof.Machine

section
variable {set : Settings} {w : Who} {b : List Byte} {p : Pkg}

section
variable (hpay : graphPayloadBad b = false)
include hpay

theorem submitGraph_of_load (hop : gOp b = 0) : submitGraph w b set p = finish set (loadGraph set w b p) := by
  simp [submitGraph, hpay, hop]

theorem submitGraph_of_run (hop : gOp b = 2) : submitGraph w b set p = finish set (runGraph set w b p) := by
  simp [submitGraph, hpay, hop]

theorem submitGraph_of_unload (hop : gOp b = 3) : submitGraph w b set p = unloadGraph w b p := by
  simp [submitGraph, hpay, hop]

end

theorem loadGraph_of_ok (hop : gOp b = 0) (htasks : readError set p (gArray b) (128 * gTasks b) = none)
    (htoks : readError set p (gTable b) (8 * gTokens b) = none) {tasks toks : List (List Byte)}
    (hts : chunksOf 128 (gTasks b) (readMem set p (gArray b) (128 * gTasks b)) = tasks)
    (hks : chunksOf 8 (gTokens b) (readMem set p (gTable b) (8 * gTokens b)) = toks)
    (hgood : graphBad (le b 3 1 == 1) tasks toks = none) (hnew : graphOf p (gId b) = none)
    (hroom : residentFull p tasks.length = false) :
    loadGraph set w b p = answer w stOk 0 0 { p with tasks := { p.tasks with
      graphs := p.tasks.graphs ++ [⟨gId b, le b 3 1 == 1, tasks, toks⟩] } } := by
  simp only [loadGraph, hop, htasks, htoks, hts, hks, hgood, hnew, hroom, Option.none_or, Option.isSome_none,
    Nat.reduceBEq, Bool.false_and, Bool.or_self, Bool.false_eq_true, if_false]

theorem unloadGraph_of_unused {g : Graph} (hg : graphOf p (gId b) = some g) (hlive : graphLive p (gId b) = false)
    (hfix : fixtureNames p (gId b) = false) :
    unloadGraph w b p = answer w stOk 0 0 { p with tasks := { p.tasks with
      graphs := p.tasks.graphs.filter fun x => x.id != gId b } } := by
  simp only [unloadGraph, hg, hlive, hfix, Option.isNone_some, Bool.or_self, Bool.false_eq_true, if_false]

/-- A RUN that is accepted at once starts its instance with the initial tokens (R79, R210). -/
theorem runGraph_of_room {g : Graph} (hg : graphOf p (gId b) = some g) (hnum : liveNumber p g.id (gInst b) = false)
    (hshut : stepShut p = false) (hroom : roomFor p g.id = true) :
    let step := if g.j1 then none else openStep p
    runGraph set w b p = addInst set
      (newInst p g (gInst b) (.packet w 0x0320 (seqOf w p)) step step.isSome (initTokens g.tokens)) p := by
  simp only [runGraph, hg, hnum, hshut, hroom, acceptRun, launchGraph, Bool.and_false, Bool.or_self, Bool.false_eq_true,
    if_false, if_true]

end

theorem not_committing_of_stepShut {p : Pkg} (h : stepShut p = false) : (p.step.state == .committing) = false := by
  simp only [stepShut, Bool.or_eq_false_iff] at h
  exact h.1.2

/-- Settles O35: each operation's equation, under what follows a command. -/
theorem graphsLoadRunAndUnload : Obligations.GraphsLoadRunAndUnload := by
  unfold Obligations.GraphsLoadRunAndUnload
  intro s q w b p h hpay
  refine ⟨fun hop htasks htoks hgood hnew hroom => ?_, fun hop ⟨g, hg⟩ hlive hfix => ?_,
    fun g hop hg hnum hshut hroom habort hiid => ?_⟩
  · exact onPacketP_of_eq (f := submitGraph) h
      ((submitGraph_of_load hpay hop).trans
        (congrArg (finish s.set) (loadGraph_of_ok hop htasks htoks rfl rfl hgood hnew hroom)))
  · exact onPacketP_of_eq (f := submitGraph) h
      ((submitGraph_of_unload hpay hop).trans (unloadGraph_of_unused hg hlive hfix))
  · obtain ⟨i, hi, hadd⟩ := addInst_of_new s.set
      (i := newInst p g (gInst b) (.packet w 0x0320 (seqOf w p)) (if g.j1 then none else openStep p)
        (if g.j1 then none else openStep p).isSome (initTokens g.tokens)) hiid
    have hrun := (runGraph_of_room (set := s.set) (w := w) hg hnum hshut hroom).trans hadd
    have hsubmit := (submitGraph_of_run (w := w) (set := s.set) (p := p) hpay hop).trans ((congrArg _ hrun).trans
      (finish_quiet s.set habort (by rw [not_committing_of_stepShut hshut, Bool.and_false])))
    obtain ⟨hrec, hlen, -⟩ := hi
    refine ⟨_, i, onPacketP_of_eq (f := submitGraph) h hsubmit, rfl, ?_⟩
    rw [hrec]
    exact ⟨rfl, rfl, rfl, rfl, rfl, rfl, hlen.trans (List.length_map _), rfl, rfl, rfl, rfl, rfl⟩

end Sys2Proof.Machine
end

section
/-! PROOFS. The end of a task (O41): with no write left it completes, and another running task keeps its instance alive; an
uncorrectable error that its accesses met makes it fail. -/

namespace Sys2Proof.Machine

/-! ### Corrected errors (R377, R378) -/

/-- `q` is `p` but for counters of memory errors. -/
def SameCells (p q : Pkg) : Prop :=
  q = { p with mem := q.mem } ∧ q.mem.cells = p.mem.cells ∧ q.mem.bad = p.mem.bad

theorem SameCells.trans {p q r : Pkg} (h1 : SameCells p q) (h2 : SameCells q r) : SameCells p r := by
  obtain ⟨hrec1, hcells1, hbad1⟩ := h1
  obtain ⟨hrec2, hcells2, hbad2⟩ := h2
  exact ⟨by rw [hrec2, hrec1], hcells2.trans hcells1, hbad2.trans hbad1⟩

namespace SameCells

section
variable {p q : Pkg} (h : SameCells p q)
include h

theorem host : q.host = p.host := by rw [h.1]
theorem step : q.step = p.step := by rw [h.1]
theorem tasks : q.tasks = p.tasks := by rw [h.1]
theorem instOf (iid : Nat) : instOf q iid = Machine.instOf p iid := by rw [Machine.instOf, h.tasks, Machine.instOf]
theorem runOf (iid k : Nat) : runOf q iid k = Machine.runOf p iid k := by rw [Machine.runOf, h.tasks, Machine.runOf]

end

end SameCells

theorem meetError_corrected {e : MemErr} (he : e.fatal = false) (p : Pkg) : SameCells p (meetError e p) := by
  simp only [meetError, foundError, he, Bool.false_eq_true, if_false]
  split
  · split
    · exact ⟨rfl, rfl, rfl⟩
    · exact ⟨rfl, rfl, rfl⟩
  · exact ⟨rfl, rfl, rfl⟩

theorem meetErrors_corrected {errs : List MemErr} (h : ∀ e ∈ errs, e.fatal = false) (p : Pkg) :
    SameCells p (meetErrors errs p) := by
  induction errs generalizing p with
  | nil => exact ⟨rfl, rfl, rfl⟩
  | cons e es ih =>
    exact (meetError_corrected (h e List.mem_cons_self) p).trans
      (ih (fun x hx => h x (List.mem_cons_of_mem e hx)) (meetError e p))

/-! ### What completion leaves alone -/

/-- `q` is `p` but for the tasks and the rings' versions. -/
def SameButTasks (p q : Pkg) : Prop := q = { p with tasks := q.tasks, rings := q.rings }

theorem SameButTasks.trans {p q r : Pkg} (h1 : SameButTasks p q) (h2 : SameButTasks q r) : SameButTasks p r := by
  unfold SameButTasks at *
  rw [h2, h1]

namespace SameButTasks

section
variable {p q : Pkg} (h : SameButTasks p q)
include h

theorem mem : q.mem = p.mem := (congrArg Pkg.mem h).trans rfl
theorem host : q.host = p.host := (congrArg Pkg.host h).trans rfl
theorem step : q.step = p.step := (congrArg Pkg.step h).trans rfl

end

end SameButTasks

/-- `j` has the tasks of `i`, in the states they have there, as many run, and no failure more. -/
def Inst.SameCourse (i j : Inst) : Prop := j.tasks = i.tasks ∧ j.ran = i.ran ∧ j.noMore = i.noMore

theorem writeSummary_frame (iid : Nat) (sm : Option (Nat × List W32)) (p : Pkg) :
    SameButTasks p (writeSummary iid sm p) := by
  unfold writeSummary
  split
  · rfl
  · dsimp only
    split
    · rfl
    · rfl

theorem instOf_writeSummary {iid : Nat} {p : Pkg} {i : Inst} (h : instOf p iid = some i)
    (sm : Option (Nat × List W32)) : ∃ j, instOf (writeSummary iid sm p) iid = some j ∧ i.SameCourse j := by
  unfold writeSummary
  split
  · exact ⟨i, h, rfl, rfl, rfl⟩
  · dsimp only
    split
    · exact ⟨_, instOf_modInst h, rfl, rfl, rfl⟩
    · exact ⟨i, h, rfl, rfl, rfl⟩

/-! ### The end of a task while another one runs (R92) -/

theorem lastPart_of_running {i : Inst} {k n : Nat} (hne : n ≠ k) (hn : i.tasks[n]? = some .running) :
    lastPart i k = false := by
  have hlt : n < i.tasks.length := (List.getElem?_eq_some_iff.1 hn).1
  have hall : ((List.range i.tasks.length).all fun x => x == k || i.tasks.getD x .complete == .complete) = false :=
    List.all_eq_false.2 ⟨n, List.mem_range.2 hlt, by simp [hn, hne]⟩
  rw [lastPart, hall, Bool.and_false]

/-- `q` is `p` once task `k` of instance `iid`, which was `i`, has completed (R92). -/
def TaskEnded (iid k : Nat) (i : Inst) (p q : Pkg) : Prop :=
  SameButTasks p q ∧ runOf q iid k = none ∧
    ∃ j, instOf q iid = some j ∧ j.tasks[k]? = some .complete ∧ j.ran = i.ran + 1

/-- An instance whose task `k`, with descriptor `d`, completes. -/
def withCompleted (d : List Byte) (k : Nat) (i : Inst) : Inst :=
  { i with toks := giveTokens d i.toks, tasks := i.tasks.set k .complete, ran := i.ran + 1 }

/-- An instance takes over what a run has counted, and the rows it leaves. -/
def withBytes (r : Run) (i : Inst) : Inst := { i with bytes := i.bytes + r.bytes }
def withRows (r : Run) (i : Inst) : Inst := { i with rows := i.rows ++ r.rows }

section
variable (set : Settings) {iid k n : Nat} {p : Pkg} {i : Inst} (hi : instOf p iid = some i)
include hi

theorem endTask_eq :
    endTask set iid k p = checkInst set iid (settleTasks set iid
      (modInst iid (withCompleted (i.desc k) k) (pruneRings (dropRun iid k p)))) := by
  simp only [endTask, hi]
  rfl

theorem finishRun_of_sound {r : Run} (hfate : r.fate = 0) (hlast : lastPart i k = false) :
    finishRun set iid k r p = endTask set iid k (writeSummary iid r.summary
      (modInst iid (withRows r) (modInst iid (withBytes r) (dropFetched iid k p)))) := by
  have hcount : instOf (modInst iid (fun i => { i with bytes := i.bytes + r.bytes }) (dropFetched iid k p)) iid =
      some (withBytes r i) := instOf_modInst (p := dropFetched iid k p) hi
  have hchain (q : Pkg) : endChain set (withBytes r i) k r q = (q, none) := by
    simp [endChain, show lastPart (withBytes r i) k = false from hlast]
  simp only [finishRun, hfate, bne_self_eq_false, Bool.false_eq_true, if_false, hcount, hchain]
  rfl

variable (hmore : i.noMore = false) (hne : n ≠ k) (hn : i.tasks[n]? = some .running) (hk : k < i.tasks.length)
include hmore hne hn hk

theorem endTask_of_running : TaskEnded iid k i p (endTask set iid k p) := by
  have hdone : instOf (modInst iid (withCompleted (i.desc k) k) (pruneRings (dropRun iid k p))) iid =
      some (withCompleted (i.desc k) k i) := instOf_modInst (p := pruneRings (dropRun iid k p)) hi
  obtain ⟨j, hj, hsettle⟩ := instOf_settleTasks (set := set) hdone
  have hrun : (withCompleted (i.desc k) k i).tasks[n]? = some .running := (List.getElem?_set_ne hne.symm).trans hn
  rw [endTask_eq set hi, checkInst_of_running set hj (hsettle.noMore.trans hmore) (hsettle.running hrun)]
  exact ⟨rfl, runOf_dropRun iid k p, j, hj, hsettle.complete (List.getElem?_set_self hk), hsettle.ran⟩

theorem finishRun_of_running {r : Run} (hfate : r.fate = 0) : TaskEnded iid k i p (finishRun set iid k r p) := by
  have hrows : instOf (modInst iid (withRows r) (modInst iid (withBytes r) (dropFetched iid k p))) iid =
      some (withRows r (withBytes r i)) := instOf_modInst (instOf_modInst (p := dropFetched iid k p) hi)
  obtain ⟨l, hl, htasks, hran, hno⟩ := instOf_writeSummary hrows r.summary
  obtain ⟨hframe, hgone, j, hj, hdone, hcount⟩ := endTask_of_running set hl (hno.trans hmore) hne
    ((congrArg (·[n]?) htasks).trans hn) (htasks ▸ hk)
  rw [finishRun_of_sound set hi hfate (lastPart_of_running hne hn)]
  exact ⟨.trans (q := modInst iid _ (modInst iid _ (dropFetched iid k p))) rfl ((writeSummary_frame _ _ _).trans hframe),
    hgone, j, hj, hdone, hcount.trans (congrArg (· + 1) hran)⟩

end

/-! ### The command (R115, R378) -/

/-- The package once a run without work has brought its writes up to date: nothing is added. -/
def withoutWork (iid k : Nat) (p : Pkg) : Pkg :=
  modRun iid k (fun r => { r with work := [] }) (modInst iid (fun i => { i with bytes := i.bytes + 0 }) p)

theorem withoutWork_frame (iid k : Nat) (p : Pkg) : SameButTasks p (withoutWork iid k p) := rfl

theorem instOf_withoutWork {iid : Nat} {p : Pkg} {i : Inst} (h : instOf p iid = some i) (k : Nat) :
    instOf (withoutWork iid k p) iid = some i := instOf_modInst h

section
variable {set : Settings} {iid k : Nat} {p : Pkg} {i : Inst} {r : Run} (hr : runOf p iid k = some r)
include hr

theorem runOf_withoutWork (hwork : r.work = []) : runOf (withoutWork iid k p) iid k = some r := by
  refine (runOf_modRun (p := modInst iid _ p) hr).trans ?_
  rw [← hwork]

theorem advance_of_done (upto : Nat → Bool) (hi : instOf p iid = some i) (hwork : r.work = []) :
    advance set upto iid k p = (withoutWork iid k p, true) := by
  simp only [advance, hi, hr, hwork, openWork, applyFront]
  rfl

theorem completeTask_of_fatal {errs : List MemErr} (hmay : mayEnd set p r = true) (hfatal : ∃ e ∈ errs, e.fatal = true) :
    completeTask iid k errs set p = failRun set iid k stMem (meetErrors errs p) := by
  simp only [completeTask, hr, hmay, List.any_eq_true.2 hfatal, Bool.not_true, Bool.false_eq_true, if_false, if_true]

theorem completeTask_of_done {errs : List MemErr} (hi : instOf p iid = some i) (hmay : mayEnd set p r = true)
    (herrs : ∀ e ∈ errs, e.fatal = false) (hwork : r.work = []) :
    completeTask iid k errs set p = finishRun set iid k r (withoutWork iid k (meetErrors errs p)) := by
  have hsound : errs.any (·.fatal) = false := by simpa using herrs
  have hcorr := meetErrors_corrected herrs p
  have hr' : runOf (meetErrors errs p) iid k = some r := (hcorr.runOf iid k).trans hr
  simp only [completeTask, hr, hmay, hsound, advance_of_done hr' _ ((hcorr.instOf iid).trans hi) hwork,
    runOf_withoutWork hr' hwork, hwork, Bool.not_true, Bool.false_eq_true, if_false, List.isEmpty_nil, if_true]

end

/-- Settles O41: the other running task keeps the instance alive, so the end of this one is all that happens. -/
theorem tasksComplete : Obligations.TasksComplete := by
  unfold Obligations.TasksComplete
  intro s iid k i r errs hi hr hmay
  refine ⟨fun hwork hfate hmore habort hheld hk ⟨n, hne, hn⟩ herrs => ?_, fun hfatal => ?_⟩
  · have hcorr := meetErrors_corrected herrs s.p
    have hframe0 := withoutWork_frame iid k (meetErrors errs s.p)
    obtain ⟨hframe, hgone, j, hj, hdone, hran⟩ := finishRun_of_running s.set
      (instOf_withoutWork ((hcorr.instOf iid).trans hi) k) hmore hne hn hk hfate
    rw [← completeTask_of_done hr hi hmay herrs hwork] at hframe hgone hj
    have hmem := (hframe0.trans hframe).mem
    have hhost := (hframe0.trans hframe).host.trans hcorr.host
    have hstep := (hframe0.trans hframe).step.trans hcorr.step
    have hfinish := finish_quiet s.set (p := completeTask iid k errs s.set s.p) (by rw [hstep, habort])
      (by rw [hstep, hheld, Bool.false_and])
    refine ⟨_, j, onP_of_eq (f := fun set p => finish set (completeTask iid k errs set p)) hfinish, hj,
      runOf_resumeJ1 hgone, ?_, hran, hmem, ?_, ?_, hhost, hstep⟩
    · rw [List.getD_eq_getElem?_getD, hdone, Option.getD_some]
    · exact (congrArg Mem.cells hmem).trans hcorr.2.1
    · exact (congrArg Mem.bad hmem).trans hcorr.2.2
  · exact onP_of_eq (f := fun set p => finish set (completeTask iid k errs set p))
      (by rw [completeTask_of_fatal hr hmay hfatal])

end Sys2Proof.Machine
end

section
/-! PROOFS. Memory reads what was written (R365, R379): the interleave puts every address of the stack region at a place of
its own, so a write changes its own bytes alone. For O34. -/

namespace Sys2Proof.Machine

theorem granShift_cases (set : Settings) : granShift set = 12 ∨ granShift set = 16 ∨ granShift set = 21 := by
  unfold granShift
  split
  · exact .inl rfl
  · exact .inr (.inl rfl)
  · exact .inr (.inr rfl)

theorem offsetOf_lt (set : Settings) {a : Nat} (ha : a < regionSize) : offsetOf set a < stackSize := by
  simp only [regionSize] at ha
  by_cases hs : set.spread == 0
  · rcases granShift_cases set with hg | hg | hg <;> simp only [offsetOf, hg, hs, if_true, stackSize] <;> omega
  · rcases granShift_cases set with hg | hg | hg <;>
      simp only [offsetOf, hg, hs, Bool.false_eq_true, if_false, stackSize, quarterSize] <;> omega

theorem eq_of_stackOf_offsetOf {set : Settings} {a b : Nat} (hstack : stackOf set a = stackOf set b)
    (hoff : offsetOf set a = offsetOf set b) : a = b := by
  by_cases hs : set.spread == 0
  · rcases granShift_cases set with hg | hg | hg <;> simp only [stackOf, offsetOf, hg, hs, if_true] at hstack hoff <;> omega
  · rcases granShift_cases set with hg | hg | hg <;>
      simp only [stackOf, offsetOf, hg, hs, Bool.false_eq_true, if_false, quarterSize] at hstack hoff <;> omega

theorem keyOf_injective (set : Settings) {a b : Nat} (ha : a < regionSize) (hb : b < regionSize)
    (h : keyOf set a = keyOf set b) : a = b := by
  have hoffA := offsetOf_lt set ha
  have hoffB := offsetOf_lt set hb
  simp only [keyOf, stackSize] at h hoffA hoffB
  exact eq_of_stackOf_offsetOf (set := set) (by omega) (by omega)

theorem cellGet_cellsWrite (set : Settings) {x : Nat} (hx : x < regionSize) (bs : List Byte) (a : Nat)
    {cells : List (Nat × Byte)} (hwf : Memory.wf cells = true) (ha : a + bs.length ≤ regionSize) :
    cellGet (cellsWrite set a bs cells) (keyOf set x) =
      if a ≤ x ∧ x < a + bs.length then bs.getD (x - a) 0 else cellGet cells (keyOf set x) := by
  induction bs generalizing a cells with
  | nil => rw [cellsWrite, List.length_nil, if_neg (by omega)]
  | cons b bs ih =>
    rw [List.length_cons] at ha
    rw [cellsWrite, ih (a + 1) (cellPut_wf _ b cells 0 (Nat.zero_le _) hwf) (by omega),
      cellGet_cellPut _ _ _ cells 0 hwf, List.length_cons]
    rcases Nat.lt_trichotomy x a with hlt | rfl | hgt
    · have hkey : keyOf set x ≠ keyOf set a := fun h => Nat.ne_of_lt hlt (keyOf_injective set hx (by omega) h)
      rw [if_neg (by omega), if_neg hkey, if_neg (by omega)]
    · rw [if_neg (by omega), if_pos rfl, if_pos (by omega), Nat.sub_self, List.getD_cons_zero]
    · have hkey : keyOf set x ≠ keyOf set a := fun h => Nat.ne_of_gt hgt (keyOf_injective set hx (by omega) h)
      rw [if_neg hkey]
      by_cases hin : x < a + (bs.length + 1)
      · rw [if_pos (by omega), if_pos (by omega), show x - a = x - (a + 1) + 1 by omega, List.getD_cons_succ]
      · rw [if_neg (by omega), if_neg (by omega)]

theorem readByte_writeMem (set : Settings) {p : Pkg} {a x : Nat} {bs : List Byte} (hwf : Memory.wf p.mem.cells = true)
    (ha : a + bs.length ≤ regionSize) (hx : x < regionSize) :
    readByte set (writeMem set a bs p) x = if a ≤ x ∧ x < a + bs.length then bs.getD (x - a) 0 else readByte set p x :=
  cellGet_cellsWrite set hx bs a hwf ha

@[simp] theorem memError_cells (set : Settings) (a : Nat) (p : Pkg) : (memError set a p).mem.cells = p.mem.cells := by
  simp [memError, memErrorKey, memErrorAt]

@[simp] theorem memError_upd (set : Settings) (a : Nat) (p : Pkg) : (memError set a p).upd = p.upd := by
  simp [memError, memErrorKey, memErrorAt]

end Sys2Proof.Machine
end

section
/-! PROOFS. Packets that configure the package (O34). -/

namespace Sys2Proof.Machine

section
variable {set : Settings} {w : Who} {b : List Byte} {p : Pkg}

/-! ### Branch tables, the J1 partition, hollows and rings (R102, R241, R260, R261, R369) -/

theorem loadBranch_of_ok (hok : branchTableBad b = false) :
    loadBranch w b p = answer w stOk 0 0 { p with tasks := { p.tasks with
      branches := b :: p.tasks.branches.filter fun t => le t 0 1 != le b 0 1 } } := by
  simp only [loadBranch, hok, Bool.false_eq_true, if_false]

theorem fillerConfig_of_free (hok : fillerFieldsBad b = false)
    (hfree : ∀ r ∈ fillerTaken set p, overlaps (le b 0 8) (le b 8 8) r.1 r.2 = false) (hbusy : stepBusy p = false)
    (hgraphs : ∀ g ∈ p.tasks.graphs, g.j1 = false) (hinsts : ∀ i ∈ p.tasks.insts, i.graph = none) :
    fillerConfig w b set p = answer w stOk 0 0 { p with mem := { p.mem with
      j1Base := le b 0 8, j1Size := le b 8 8 } } := by
  have hclear : ((fillerTaken set p).any fun r => overlaps (le b 0 8) (le b 8 8) r.1 r.2) = false := by
    simpa only [List.any_eq_false, Bool.not_eq_true] using hfree
  have hnoJ1 : p.tasks.graphs.any (·.j1) = false := by simpa only [List.any_eq_false, Bool.not_eq_true] using hgraphs
  have hnone : p.tasks.insts.any (fun i => i.graph.isSome) = false := by
    simpa only [List.any_eq_false, Bool.not_eq_true, Option.isSome_eq_false_iff, Option.isNone_iff_eq_none] using hinsts
  simp only [fillerConfig, hok, hclear, hbusy, hnoJ1, hnone, Bool.or_self, Bool.false_eq_true, if_false]

theorem hollowConfig_of_free (hok : hollowFieldsBad b = false) (hroom : hollowRoomBad p b = false)
    (hbusy : stepBusy p = false) (hsegs : (hollowAt p (le b 0 1)).segs = [])
    (hruns : stashRuns p (· == le b 0 1) = false) :
    hollowConfig w b p = answer w stOk 0 0 (modHollow (le b 0 1) (fun _ => if le b 1 1 = 1 then {} else
      { on := true, cache := le b 2 2, base := le b 8 8, size := le b 16 8, reserve := le b 24 8 }) p) := by
  simp only [hollowConfig, hok, hroom, hbusy, hsegs, hruns, bne_self_eq_false, Bool.or_self, Bool.false_eq_true, if_false,
    beq_iff_eq]

section
variable (hok : ringFieldsBad p b = false) (hbusy : stepBusy p = false)
include hok hbusy

theorem ringConfig_setup (hop : le b 2 1 = 0) (hnew : ringOf p (le b 0 2) = none) :
    ringConfig w b p = answer w stOk 0 0 { p with rings := { p.rings with rings := p.rings.rings ++ [ringFrom p b] } } := by
  simp [ringConfig, hok, hbusy, hop, hnew]

theorem ringConfig_release (hop : le b 2 1 = 1) (hfree : ringNeeded p (le b 0 2) = false) :
    ringConfig w b p = answer w stOk 0 0 { p with rings := { p.rings with
      rings := p.rings.rings.filter fun r => r.id != le b 0 2 } } := by
  simp [ringConfig, hok, hbusy, hop, hfree]

theorem ringConfig_version (hop : le b 2 1 = 2) (hnone : p.rings.rings = []) :
    ringConfig w b p = answer w stOk 0 0 { p with rings := { p.rings with version := le b 6 2 } } := by
  simp [ringConfig, hok, hbusy, hop, hnone]

end

/-! ### LINK_CONFIG (R391, R409, R410) -/

theorem linkConfig_without_table {s : State} (hok : linkFieldsBad s.set b = false)
    (htable : (cSetRoute b && cTableMode b) = false)
    (hfree : cSetRoute b = true → anyStage s.p = false ∧ anyGroup s.p = false ∧ s.p.reshard.active = false ∧
      stepBusy s.p = false) :
    linkConfig w b s = { s with
      set := if cSetPlan b then { s.set with nextPlan := le b 5 1 } else s.set
      p := answer w stOk 0 0 (if cSetRoute b then setRoute s.set b [] s.p else s.p) } := by
  have hbound : (cSetRoute b && (anyStage s.p || anyGroup s.p || s.p.reshard.active || stepBusy s.p)) = false := by
    cases hroute : cSetRoute b
    · rfl
    · obtain ⟨hstage, hgroup, hreshard, hbusy⟩ := hfree hroute
      rw [hstage, hgroup, hreshard, hbusy]
      rfl
  simp only [linkConfig, applyLink, hok, htable, hbound, List.any_nil, Bool.false_eq_true, if_false]

end

/-- `q` is `p` but for the frames that left and the lanes whose turn it is. -/
def SameButSent (p q : Pkg) : Prop :=
  q = { p with links := { p.links with ports := q.links.ports }, out := { p.out with frames := q.out.frames } } ∧
    ∀ i, portOf q i = { portOf p i with lane := (portOf q i).lane }

namespace SameButSent

theorem refl (p : Pkg) : SameButSent p p := ⟨rfl, fun _ => rfl⟩

theorem trans {p q r : Pkg} (h1 : SameButSent p q) (h2 : SameButSent q r) : SameButSent p r :=
  ⟨by rw [h2.1, h1.1], fun i => by rw [h2.2, h1.2]⟩

end SameButSent

theorem portOf_modPort (i j : Nat) (f : Port → Port) (p : Pkg) :
    portOf (modPort i f p) j = if i = j ∧ j < p.links.ports.length then f (portOf p j) else portOf p j :=
  modAt_getD p.links.ports i j f {}

theorem putFrame_frame (set : Settings) (i : Nat) (bs : List Byte) (p : Pkg) : SameButSent p (putFrame set i bs p) := by
  refine ⟨rfl, fun j => ?_⟩
  simp only [putFrame, portOf_modPort]
  split
  · rfl
  · rfl

theorem portOf_putFrame_ne (set : Settings) {i j : Nat} (h : i ≠ j) (bs : List Byte) (p : Pkg) :
    portOf (putFrame set i bs p) j = portOf p j := by
  simp only [putFrame, portOf_modPort, h, false_and, if_false]
  rfl

/-- The HELLO frame of port `i` (R391), with its port and lane. -/
def helloFrame (set : Settings) (p : Pkg) (i : Nat) : Nat × Nat × List Byte :=
  (i, (portOf p i).lane % laneCount set.lanes,
    frameBytes 2 0 (ackOf (portOf p i)) 0xFFFFFFFF 0 (List.replicate 16 0)
      ⟨0, 0, true, true, 0xFFFFFFFF, p.links.addr, 0, helloBytes (helloOf set p i)⟩)

theorem helloFrame_congr {set : Settings} {p q : Pkg} {i : Nat} (hport : portOf q i = portOf p i)
    (haddr : q.links.addr = p.links.addr) : helloFrame set q i = helloFrame set p i := by
  simp only [helloFrame, helloOf, hport, haddr]

theorem sendHello_frames (set : Settings) (i : Nat) (p : Pkg) :
    (sendHello set i p).out.frames = p.out.frames ++ [helloFrame set p i] := rfl

/-- The HELLOs of distinct ports leave in order; each is what the port would send alone. -/
theorem foldl_sendHello (set : Settings) {is : List Nat} (hdis : is.Nodup) (p : Pkg) :
    SameButSent p (is.foldl (fun q i => sendHello set i q) p) ∧
      (is.foldl (fun q i => sendHello set i q) p).out.frames = p.out.frames ++ is.map (helloFrame set p) := by
  induction is generalizing p with
  | nil => exact ⟨.refl p, (List.append_nil _).symm⟩
  | cons i is ih =>
    obtain ⟨hi, his⟩ := List.nodup_cons.1 hdis
    obtain ⟨hframe, hframes⟩ := ih his (sendHello set i p)
    have hfirst : SameButSent p (sendHello set i p) := putFrame_frame _ _ _ _
    have hlater : is.map (helloFrame set (sendHello set i p)) = is.map (helloFrame set p) :=
      List.map_congr_left fun j hj =>
        helloFrame_congr (portOf_putFrame_ne set (fun h : i = j => hi (h ▸ hj)) _ p) (by rw [hfirst.1])
    exact ⟨hfirst.trans hframe, by
      rw [List.foldl_cons, hframes, sendHello_frames, hlater, List.append_assoc, List.map_cons, List.singleton_append]⟩

theorem nodup_upPorts (p : Pkg) : (upPorts p).Nodup := List.nodup_range.filter _

/-- SET_ROUTE with dimensions (R410): the address is told on every UP port when it changes (R391). -/
theorem setRoute_of_dims (set : Settings) {b : List Byte} (htable : cTableMode b = false) (p : Pkg) :
    let q : Pkg := { p with links := { p.links with addr := cAddr b, tableMode := false, dims := cDims b, route := [] } }
    SameButSent q (setRoute set b [] p) ∧
      (cAddr b = p.links.addr → setRoute set b [] p = q) ∧
      (cAddr b ≠ p.links.addr →
        (setRoute set b [] p).out.frames = p.out.frames ++ (upPorts p).map (helloFrame set q)) := by
  intro q
  have hset : setRoute set b [] p =
      if cAddr b != p.links.addr then (upPorts p).foldl (fun q i => sendHello set i q) q else q := by
    simp only [setRoute, htable, Bool.false_eq_true, if_false]
    rfl
  obtain ⟨hframe, hframes⟩ := foldl_sendHello set (nodup_upPorts p) q
  rw [hset]
  by_cases h : cAddr b = p.links.addr
  · have hsame : (cAddr b != p.links.addr) = false := by simpa using h
    rw [hsame]
    exact ⟨.refl q, fun _ => rfl, fun hne => absurd h hne⟩
  · have hnew : (cAddr b != p.links.addr) = true := by simpa using h
    rw [hnew]
    exact ⟨hframe, fun heq => absurd heq h, fun _ => hframes⟩

/-! ### UPDATE_CONFIG (R223 to R226) -/

/-- The accumulators of one layer are set to +0.0 (R226). -/
def clearGrad (set : Settings) (e : List Byte) (p : Pkg) : Pkg :=
  writeMem set (lGrad e) (List.replicate (4 * lCount e) 0)
    (match writeError set p (lGrad e) (4 * lCount e) with | some x => memError set x p | none => p)

/-- The accumulators of `e` hold the byte at `x`. -/
def inGrad (e : List Byte) (x : Nat) : Prop := lGrad e ≤ x ∧ x < lGrad e + 4 * lCount e

theorem clearGrads_eq (set : Settings) (p : Pkg) :
    clearGrads set p = p.upd.layers.foldl (fun q e => clearGrad set e q) p := rfl

theorem clearGrad_upd (set : Settings) (e : List Byte) (p : Pkg) : (clearGrad set e p).upd = p.upd := by
  unfold clearGrad
  split
  · exact memError_upd set _ p
  · rfl

section
variable {set : Settings} {e : List Byte} {p : Pkg} (hwf : Memory.wf p.mem.cells = true)
include hwf

theorem clearGrad_wf : Memory.wf (clearGrad set e p).mem.cells = true := by
  refine writeMem_wf set _ _ _ ?_
  split
  · rw [memError_cells]
    exact hwf
  · exact hwf

theorem readByte_clearGrad (he : lGrad e + 4 * lCount e ≤ regionSize) {x : Nat} (hx : x < regionSize) :
    (inGrad e x → readByte set (clearGrad set e p) x = 0) ∧
      (¬inGrad e x → readByte set (clearGrad set e p) x = readByte set p x) := by
  have hlen : (List.replicate (4 * lCount e) (0 : Byte)).length = 4 * lCount e := List.length_replicate
  have hread {q : Pkg} (hq : q.mem.cells = p.mem.cells) :=
    readByte_writeMem set (p := q) (a := lGrad e) (x := x) (hq ▸ hwf) (hlen.symm ▸ he) hx
  have hold {q : Pkg} (hq : q.mem.cells = p.mem.cells) : readByte set q x = readByte set p x := by
    rw [readByte, hq, readByte]
  have hcells : (match writeError set p (lGrad e) (4 * lCount e) with
      | some x => memError set x p | none => p).mem.cells = p.mem.cells := by
    split
    · exact memError_cells set _ p
    · rfl
  rw [clearGrad, hread hcells, hlen, hold hcells]
  refine ⟨fun hin => ?_, fun hout => if_neg hout⟩
  obtain ⟨hlo, hhi⟩ := hin
  have hat : x - lGrad e < 4 * lCount e := by omega
  rw [if_pos ⟨hlo, hhi⟩, List.getD_eq_getElem?_getD, List.getElem?_replicate_of_lt hat, Option.getD_some]

end

/-- Clearing the accumulators of layers: their bytes read 0, and every other byte as before. -/
theorem readByte_clearLayers (set : Settings) {layers : List (List Byte)}
    (hroom : ∀ e ∈ layers, lGrad e + 4 * lCount e ≤ regionSize) {p : Pkg} (hwf : Memory.wf p.mem.cells = true) {x : Nat}
    (hx : x < regionSize) :
    ((∃ e ∈ layers, inGrad e x) → readByte set (layers.foldl (fun q e => clearGrad set e q) p) x = 0) ∧
      ((∀ e ∈ layers, ¬inGrad e x) →
        readByte set (layers.foldl (fun q e => clearGrad set e q) p) x = readByte set p x) := by
  induction layers generalizing p with
  | nil => exact ⟨fun ⟨_, he, _⟩ => absurd he List.not_mem_nil, fun _ => rfl⟩
  | cons e layers ih =>
    obtain ⟨hin, hout⟩ := readByte_clearGrad hwf (set := set) (hroom e List.mem_cons_self) hx
    obtain ⟨hzero, hkeep⟩ := ih (fun l hl => hroom l (List.mem_cons_of_mem e hl)) (clearGrad_wf hwf (set := set) (e := e))
    rw [List.foldl_cons]
    refine ⟨fun ⟨l, hl, hlx⟩ => ?_, fun h =>
      (hkeep fun l hl => h l (List.mem_cons_of_mem e hl)).trans (hout (h e List.mem_cons_self))⟩
    by_cases hls : ∃ l ∈ layers, inGrad l x
    · exact hzero hls
    · rcases List.mem_cons.1 hl with rfl | hl
      · exact (hkeep fun m hm hmx => hls ⟨m, hm, hmx⟩).trans (hin hlx)
      · exact absurd ⟨l, hl, hlx⟩ hls

theorem applyConfig_upd (set : Settings) (b : List Byte) (layers : List (List Byte)) (p : Pkg) :
    (applyConfig set b layers p).upd.cfg = some b ∧ (applyConfig set b layers p).upd.layers = layers ∧
      (applyConfig set b layers p).upd.updates = le b 72 8 ∧
      (applyConfig set b layers p).upd.good = (if uRestore b then le b 82 2 else 0) := by
  let q : Pkg := { p with upd := { p.upd with cfg := some b, layers := layers } }
  have hupd : (clearGrads set q).upd = q.upd := foldl_view Pkg.upd (fun r e => clearGrad_upd set e r) _ q
  exact ⟨congrArg Upd.cfg hupd, congrArg Upd.layers hupd, rfl, rfl⟩

theorem readByte_applyConfig (set : Settings) (b : List Byte) {layers : List (List Byte)}
    (hroom : ∀ e ∈ layers, lGrad e + 4 * lCount e ≤ regionSize) {p : Pkg} (hwf : Memory.wf p.mem.cells = true) {x : Nat}
    (hx : x < regionSize) :
    ((∃ e ∈ layers, inGrad e x) → readByte set (applyConfig set b layers p) x = 0) ∧
      ((∀ e ∈ layers, ¬inGrad e x) → readByte set (applyConfig set b layers p) x = readByte set p x) :=
  readByte_clearLayers set hroom (p := { p with upd := { p.upd with cfg := some b, layers := layers } }) hwf hx

section
variable {set : Settings} {w : Who} {b : List Byte} {p : Pkg}

theorem updateConfig_of_ok (hok : updatePayloadBad b = false)
    (hread : readError set p (uTable b) (64 * uLayers b) = none) {layers : List (List Byte)}
    (hlayers : chunksOf 64 (uLayers b) (readMem set p (uTable b) (64 * uLayers b)) = layers)
    (hgood : ∀ k, k < uLayers b → layerBad set.lean (uAdam b) (layers.getD k []) = false)
    (hreshard : p.reshard.active = false) :
    updateConfig w b set p =
      if stepBusy p then { p with upd := { p.upd with waits := p.upd.waits ++ [(⟨w, b⟩, layers)] } }
      else answer w stOk 0 0 (applyConfig set b layers p) := by
  have hnone : (List.range (uLayers b)).find? (fun k => layerBad set.lean (uAdam b) (layers.getD k [])) = none :=
    List.find?_eq_none.2 fun k hk => by
      rw [hgood k (List.mem_range.1 hk)]
      exact Bool.false_ne_true
  simp only [updateConfig, hok, hread, hlayers, hnone, hreshard, Bool.false_eq_true, if_false, takeConfig]

end

/-- Settles O34: the equation of each packet's meaning; for SET_ROUTE what the HELLOs leave, and for UPDATE_CONFIG what
clearing the accumulators leaves. -/
theorem configurationPackets : Obligations.ConfigurationPackets := by
  unfold Obligations.ConfigurationPackets
  refine ⟨fun s q w b p => ⟨fun h hok => ?_, fun h hok hfree hbusy hgraphs hinsts => ?_,
    fun h hok hroom hbusy hsegs hruns => ?_, fun h hok hbusy => ?_, fun h hok hroute => ?_,
    fun h hok hroute htable hstage hgroup hreshard hbusy => ?_, fun h hok hread hgood hreshard => ?_⟩,
    fun set b layers p hwf hroom => ?_⟩
  · exact onPacketP_of_eq (f := fun w b _ p => loadBranch w b p) h (loadBranch_of_ok hok)
  · exact onPacketP_of_eq h (fillerConfig_of_free hok hfree hbusy hgraphs hinsts)
  · exact onPacketP_of_eq (f := fun w b _ p => hollowConfig w b p) h (hollowConfig_of_free hok hroom hbusy hsegs hruns)
  · have hring {r : Pkg} (heq : ringConfig w b p = r) : exec (.ringConfig q) s = .next { s with p := r } :=
      onPacketP_of_eq (f := fun w b _ p => ringConfig w b p) h heq
    exact ⟨fun hop hnew => hring (ringConfig_setup hok hbusy hop hnew),
      fun hop hfree => hring (ringConfig_release hok hbusy hop hfree),
      fun hop hnone => hring (ringConfig_version hok hbusy hop hnone)⟩
  · have hlink := linkConfig_without_table (w := w) (s := { s with p := p }) hok (by rw [hroute]; rfl)
      (fun hset => by rw [hroute] at hset; cases hset)
    rw [hroute] at hlink
    exact (onPacket_takes linkConfig h).trans (congrArg _ hlink)
  · have hlink := linkConfig_without_table (w := w) (s := { s with p := p }) hok (by rw [htable, Bool.and_false])
      (fun _ => ⟨hstage, hgroup, hreshard, hbusy⟩)
    rw [hroute] at hlink
    obtain ⟨⟨hrec, hports⟩, hsame, hnew⟩ := setRoute_of_dims s.set htable p
    have hlinks := congrArg Pkg.links hrec
    refine ⟨setRoute s.set b [] p, (onPacket_takes linkConfig h).trans (congrArg _ hlink), hlinks, hports, ?_,
      fun heq => ?_, hnew⟩
    · rw [hlinks]
      exact hrec
    · rw [hsame heq]
      exact ⟨rfl, rfl⟩
  · have hupdate := updateConfig_of_ok (set := s.set) (w := w) hok hread rfl hgood hreshard
    refine ⟨fun hbusy => ?_, fun hbusy => ?_⟩
    · exact onPacketP_of_eq (f := updateConfig) h (hupdate.trans (by rw [hbusy]; rfl))
    · exact onPacketP_of_eq (f := updateConfig) h (hupdate.trans (by rw [hbusy]; rfl))
  · obtain ⟨hcfg, hlayers, hupdates, hgood⟩ := applyConfig_upd set b layers p
    refine ⟨hcfg, hlayers, hupdates, hgood, fun e he x hlo hhi => ?_, fun x hx hout => ?_⟩
    · exact (readByte_applyConfig set b hroom hwf (Nat.lt_of_lt_of_le hhi (hroom e he))).1 ⟨e, he, hlo, hhi⟩
    · exact (readByte_applyConfig set b hroom hwf hx).2 fun e he hin => by
        have := hout e he
        obtain ⟨hlo, hhi⟩ := hin
        omega

end Sys2Proof.Machine
end

section
/-! PROOFS. Commands of one task (O36): a descriptor that passes becomes an instance; its parts need no token and no
subgraph, so they stay ready. -/

namespace Sys2Proof.Machine

/-! ### Instances whose tasks are all ready (R93, R106) -/

theorem mayBeReady_of_free {i : Inst} {k : Nat} (hin : tIns (i.desc k) = []) (hout : tOuts (i.desc k) = [])
    (hsub : tSub (i.desc k) = 0) : mayBeReady i k = true := by
  simp [mayBeReady, edgesHold, subDecided, skipped, hin, hout, hsub]

theorem nextSkip_of_mayBeReady {i : Inst} (hmay : ∀ k, k < i.tasks.length → mayBeReady i k = true)
    (may : Inst → Nat → Bool) : nextSkip may i = none := by
  refine List.find?_eq_none.2 fun k hk => ?_
  have hready := hmay k (List.mem_range.1 hk)
  simp only [mayBeReady, Bool.and_eq_true, Bool.not_eq_true'] at hready
  simp [hready.2]

theorem readiness_of_mayBeReady {i : Inst} {k : Nat} {x : TaskState} (hmay : mayBeReady i k = true)
    (hx : x ≠ .waiting) (t : Nat) : readiness t i k x = x := by
  cases x with
  | waiting => exact absurd rfl hx
  | ready since => simp [readiness, hmay]
  | _ => rfl

/-- Settling changes nothing in an instance that waits for nothing. -/
theorem settleInst_of_mayBeReady {i : Inst} (hmay : ∀ k, k < i.tasks.length → mayBeReady i k = true)
    (hwait : .waiting ∉ i.tasks) (may : Inst → Nat → Bool) (t : Nat) : settleInst may t i = i := by
  have hskip (n : Nat) : skipAll may n i = i := by
    cases n with
    | zero => rfl
    | succ n => rw [skipAll, nextSkip_of_mayBeReady hmay]
  have htasks : ((List.range i.tasks.length).zip i.tasks).map (fun x => readiness t i x.1 x.2) = i.tasks := by
    calc ((List.range i.tasks.length).zip i.tasks).map (fun x => readiness t i x.1 x.2)
        = ((List.range i.tasks.length).zip i.tasks).map Prod.snd := List.map_congr_left fun x hx => by
          obtain ⟨hk, hstate⟩ := List.of_mem_zip hx
          exact readiness_of_mayBeReady (hmay _ (List.mem_range.1 hk)) (fun h => hwait (h ▸ hstate)) t
      _ = i.tasks := List.map_snd_zip (by simp)
  simp only [settleInst, hskip, htasks, ite_self]

/-! ### The newest instance -/

/-- The tasks once instance `i` has joined those that live. -/
def Tasks.withNew (t : Tasks) (i : Inst) : Tasks := { t with insts := t.insts ++ [i], nextIid := t.nextIid + 1 }

/-- The tasks once instance `iid`, the newest, has ended before any part of it ran. -/
def Tasks.withEnded (t : Tasks) (iid : Nat) : Tasks :=
  { t with nextIid := t.nextIid + 1, fetched := t.fetched.filter fun f => f.iid != iid }

theorem instOf_withNew {p : Pkg} {i : Inst} (hnew : ∀ j ∈ p.tasks.insts, j.iid ≠ i.iid) :
    instOf { p with tasks := p.tasks.withNew i } i.iid = some i := by
  have hnone : p.tasks.insts.find? (fun j => j.iid == i.iid) = none :=
    List.find?_eq_none.2 fun j hj => by simp [hnew j hj]
  simp [instOf, Tasks.withNew, List.find?_append, hnone]

theorem checkInst_of_unfinished (set : Settings) {iid : Nat} {p : Pkg} {i : Inst} (hi : instOf p iid = some i)
    (hmore : i.noMore = false) (hall : i.tasks.all (· == .complete) = false) : checkInst set iid p = p := by
  simp [checkInst, hi, hmore, hall]

theorem checkInst_of_done (set : Settings) {iid : Nat} {p : Pkg} {i : Inst} (hi : instOf p iid = some i)
    (hall : i.tasks.all (· == .complete) = true) : checkInst set iid p = endInst set iid (instStatus i) p := by
  simp only [checkInst, hi, hall, Bool.or_true, if_true]

theorem startHeld_of_none (set : Settings) {p : Pkg} (h : p.tasks.held = []) : startHeld set p = p := by
  rw [startHeld, h, List.foldl_nil]

/-- An answer neither reads nor changes the tasks. -/
theorem answer_with_tasks (w : Who) (st d c : Nat) (t : Tasks) (p : Pkg) :
    answer w st d c { p with tasks := t } = { answer w st d c p with tasks := t } := by
  cases w with
  | nobody => rfl
  | mctp via => rfl
  | queue q num =>
    have hfind : findPacket { p with tasks := t } q num = findPacket p q num := rfl
    simp only [answer, hfind]
    split <;> rfl

/-- The newest instance ends, where no run is held: the packet that launched it is answered. -/
theorem endInst_withNew (set : Settings) {p : Pkg} {i : Inst} {w : Who} {op seq : Nat}
    (hnew : ∀ j ∈ p.tasks.insts, j.iid ≠ i.iid) (horigin : i.origin = .packet w op seq)
    (hheld : p.tasks.held = []) (status : Nat) :
    endInst set i.iid status { p with tasks := p.tasks.withNew i } =
      { answer w status (instDetail i op) (instCounter i op) p with tasks := p.tasks.withEnded i.iid } := by
  have hgone : (p.tasks.withNew i).insts.filter (fun j => j.iid != i.iid) = p.tasks.insts := by
    rw [Tasks.withNew, List.filter_append, List.filter_eq_self.2 fun j hj => bne_iff_ne.2 (hnew j hj)]
    simp
  simp only [endInst, instOf_withNew hnew, horigin, hgone, answer_with_tasks]
  exact startHeld_of_none set hheld

/-! ### What a command leaves (R135, R194) -/

theorem isSome_openStep (p : Pkg) : (openStep p).isSome = (p.step.state == .opened) := by
  unfold openStep
  split <;> simp_all

section
variable {w : Who} {op : Nat} {d : List Byte} {parts : List Part} {p : Pkg}

theorem desc_commandInst (h : parts ≠ []) (k : Nat) : (commandInst w op d parts p).desc k = d := by
  simp [Inst.desc, commandInst, h]

theorem instCounter_commandInst : instCounter (commandInst w op d parts p) op = 0 := by
  simp only [instCounter, commandInst, ite_self]

section
variable (hin : tIns d = []) (hout : tOuts d = []) (hsub : tSub d = 0)
include hin hout hsub

theorem settleInst_commandInst (may : Inst → Nat → Bool) (t : Nat) :
    settleInst may t (commandInst w op d parts p) = commandInst w op d parts p := by
  refine settleInst_of_mayBeReady (fun k hk => ?_) (by simp [commandInst]) may t
  have hparts : parts ≠ [] := by
    rintro rfl
    exact Nat.not_lt_zero k hk
  have hdesc := desc_commandInst (w := w) (op := op) (d := d) (p := p) hparts k
  exact mayBeReady_of_free (by rw [hdesc, hin]) (by rw [hdesc, hout]) (by rw [hdesc, hsub])

variable (hnew : ∀ i ∈ p.tasks.insts, i.iid ≠ p.tasks.nextIid)
include hnew

theorem addInst_commandInst (set : Settings) :
    addInst set (commandInst w op d parts p) p =
      { p with tasks := p.tasks.withNew (commandInst w op d parts p) } := by
  refine (modInst_of_last rfl hnew _).trans ?_
  rw [settleInst_commandInst hin hout hsub]
  rfl

variable (habort : p.step.abortDue = false) (hcommit : p.step.commitHeld = false)
include habort hcommit

/-- A command with parts leaves its instance, with every part ready. -/
theorem startCommand_of_parts (set : Settings) (h : parts ≠ []) :
    startCommand set w op d parts p =
      resumeJ1 set { p with tasks := p.tasks.withNew (commandInst w op d parts p) } := by
  obtain ⟨x, rest, rfl⟩ := List.exists_cons_of_ne_nil h
  have hcheck := checkInst_of_unfinished set (instOf_withNew (i := commandInst w op d (x :: rest) p) hnew) rfl rfl
  rw [startCommand, addInst_commandInst hin hout hsub hnew]
  exact (congrArg (finish set) hcheck).trans (finish_quiet set habort (by simp [hcommit]))

/-- A command without parts has done its work: its instance has ended again and it is answered OK. -/
theorem startCommand_of_no_parts (set : Settings) (hheld : p.tasks.held = []) :
    startCommand set w op d [] p =
      resumeJ1 set { answer w stOk 0 0 p with tasks := p.tasks.withEnded p.tasks.nextIid } := by
  let i := commandInst w op d [] p
  have hend : endInst set i.iid stOk { p with tasks := p.tasks.withNew i } =
      { answer w stOk 0 0 p with tasks := p.tasks.withEnded i.iid } := by
    rw [endInst_withNew set hnew rfl hheld, instCounter_commandInst]
    rfl
  have hcheck := (checkInst_of_done set (instOf_withNew (i := i) hnew) rfl).trans hend
  rw [startCommand, addInst_commandInst hin hout hsub hnew]
  exact (congrArg (finish set) hcheck).trans (finish_quiet set (by simpa using habort) (by simp [hcommit]))

end

/-! ### Descriptors that pass (R134, R193, R376) -/

section
variable {set : Settings} (hshut : stepShut p = false)
include hshut

theorem copyCommand_of_ok (hok : commandBad (· == 0x50) d = false) :
    copyCommand w d set p = startCommand set w 0x0201 d [.whole] p := by
  simp only [copyCommand, hok, hshut, Bool.false_eq_true, if_false]

variable (henv : set.envAct ≠ 3)
include henv

theorem matrixCommand_of_placed {type : Nat} (htype : (if op == 0x0301 then 0x01 else 0x02) = type)
    (hok : commandBad (· == type) d = false)
    {ps : Option (List Byte) × List (Nat × Nat × List Tensor)} {gs : List (Nat × Nat × List Tensor)}
    {holds : List (Nat × Nat)} (hread : readProducts set p (commandInst w op d [.whole] p) d = .ok ps)
    (hplace : placeProducts set p (commandInst w op d [.whole] p) d .whole ps = .ok (gs, holds)) :
    matrixCommand op w d set p = startCommand set w op d (matrixParts set p d gs) p := by
  rw [matrixCommand, htype, hok]
  simp [hshut, henv, hread, hplace, bind, Except.bind]

theorem chainCommand_of_placed (hok : commandBad (· == 0x10) d = false) {tn : List Tensor} {holds : List (Nat × Nat)}
    (hprep : prepare set p (commandInst w 0x0310 d [.whole] p) d (chainOuts (parseChain (tBody d))) = .go tn holds)
    (hfit : chainTensorsBad (parseChain (tBody d)) (fun k => tn.getD k noTensor)
      (tn.getD (parseChain (tBody d)).iter noTensor).ext false = false) :
    chainCommand w d set p = startCommand set w 0x0310 d (chainParts p d tn) p := by
  simp only [chainCommand, hok, hshut, beq_eq_false_iff_ne.2 henv, hprep, hfit, Bool.or_self,
    Bool.false_eq_true, if_false]

end

end

/-- Settles O36: the equation of each command's meaning, and what `startCommand` leaves with parts and without. -/
theorem taskCommandsStart : Obligations.TaskCommandsStart := by
  unfold Obligations.TaskCommandsStart
  refine ⟨fun s q w b p hshut => ⟨fun h hok => ?_, fun henv => ⟨fun ps gs holds h hok hread hplace => ?_,
    fun ps gs holds h hok hread hplace => ?_, fun tn holds h hok hprep hfit => ?_⟩⟩,
    fun set w op d parts p habort hcommit hnew hin hout hsub => ⟨fun hparts => ?_, ?_⟩⟩
  · exact onPacketP_of_eq (f := copyCommand) h (copyCommand_of_ok hshut hok)
  · refine onPacketP_of_eq (f := matrixCommand 0x0301) h ?_
    exact matrixCommand_of_placed (type := 1) hshut henv rfl hok hread hplace
  · refine onPacketP_of_eq (f := matrixCommand 0x0302) h ?_
    exact matrixCommand_of_placed (type := 2) hshut henv rfl hok hread hplace
  · exact onPacketP_of_eq (f := chainCommand) h (chainCommand_of_placed hshut henv hok hprep hfit)
  · rw [startCommand_of_parts hin hout hsub hnew habort hcommit set hparts]
    exact ⟨commandInst w op d parts p, rfl, rfl, rfl, rfl, rfl, rfl, rfl, isSome_openStep p, rfl,
      rfl, rfl, rfl, rfl, rfl⟩
  · rintro rfl hheld
    rw [startCommand_of_no_parts hin hout hsub hnew habort hcommit set hheld]
    exact ⟨rfl, rfl, answer_mem w stOk 0 0 p⟩

end Sys2Proof.Machine
end

section
/-! PROOFS. STEP_OPEN (O30), and what the records, events and answers of a step leave alone. -/

namespace Sys2Proof.Machine

/-! ### Records, events, answers and messages touch no work -/

/-- `q` is `p` but for the host interface, memory, the records of events and what leaves the package. -/
def SameWork (p q : Pkg) : Prop :=
  q = { p with
    host := q.host, out := q.out, ic := q.ic, mem := q.mem, links := q.links, dies := q.dies, integ := q.integ
    mgt := q.mgt }

namespace SameWork

theorem refl (p : Pkg) : SameWork p p := rfl

theorem trans {p q r : Pkg} (h1 : SameWork p q) (h2 : SameWork q r) : SameWork p r := by
  unfold SameWork at *
  rw [h2, h1]

section
variable {p q : Pkg} (h : SameWork p q)
include h

theorem step : q.step = p.step := (congrArg Pkg.step h).trans rfl
theorem tasks : q.tasks = p.tasks := (congrArg Pkg.tasks h).trans rfl
theorem upd : q.upd = p.upd := (congrArg Pkg.upd h).trans rfl
theorem hollow : q.hollow = p.hollow := (congrArg Pkg.hollow h).trans rfl
theorem rings : q.rings = p.rings := (congrArg Pkg.rings h).trans rfl
theorem pipe : q.pipe = p.pipe := (congrArg Pkg.pipe h).trans rfl
theorem colls : q.colls = p.colls := (congrArg Pkg.colls h).trans rfl
theorem reshard : q.reshard = p.reshard := (congrArg Pkg.reshard h).trans rfl

end

theorem foldl {α : Type} {f : Pkg → α → Pkg} (hf : ∀ p a, SameWork p (f p a)) (l : List α) (p : Pkg) :
    SameWork p (l.foldl f p) :=
  List.foldlRecOn (motive := SameWork p) l f (.refl p) fun q hq a _ => hq.trans (hf q a)

end SameWork

theorem SameIc.work {p q : Pkg} (h : SameIc p q) : SameWork p q := by
  rw [SameWork, h.1]

theorem SameLog.work {p q : Pkg} (h : SameLog p q) : SameWork p q := by
  rw [SameWork, h.1]

theorem memError_work (set : Settings) (a : Nat) (p : Pkg) : SameWork p (memError set a p) :=
  .trans (q := detect 0 { p with mem := { p.mem with
    stackUe := modAt p.mem.stackUe (stackOf set a) fun v => satAdd 0xFFFF v 1, ueKind := 0, ueUnit := stackOf set a
    ueLoc := offsetOf set a } }) rfl (log_frame ..).work

theorem memError_host (set : Settings) (a : Nat) (p : Pkg) : (memError set a p).host = p.host := by
  simp [memError, memErrorKey, memErrorAt]

theorem writeBlock_work (set : Settings) (a : Nat) (bs : List Byte) (p : Pkg) : SameWork p (writeBlock set a bs p) := by
  unfold writeBlock
  split
  · exact memError_work _ _ _
  · rfl

theorem writeBlock_host (set : Settings) (a : Nat) (bs : List Byte) (p : Pkg) :
    (writeBlock set a bs p).host = p.host := by
  unfold writeBlock
  split
  · exact memError_host _ _ _
  · rfl

theorem answer_work (w : Who) (st d c : Nat) (p : Pkg) : SameWork p (answer w st d c p) := by
  rw [SameWork, answer_frame w st d c p]

/-! ### The state of the step (R457) -/

theorem setStepState_of_ne {st : StepState} {p : Pkg} (h : p.step.state ≠ st) :
    setStepState st p = raise 328 (modStep (fun s => { s with state := st }) p) := by
  simp [setStepState, h]

/-- The step takes the state, whether or not it had it before. -/
theorem setStepState_work (st : StepState) (p : Pkg) :
    SameWork (modStep (fun s => { s with state := st }) p) (setStepState st p) := by
  by_cases h : p.step.state = st
  · subst h
    simp [setStepState, SameWork, modStep]
  · rw [setStepState_of_ne h]
    exact (raise_frame _ _).work

theorem setStepState_host (st : StepState) (p : Pkg) : (setStepState st p).host = p.host := by
  unfold setStepState
  split
  · rfl
  · simp

/-! ### STEP_OPEN (R207 to R209) -/

theorem length_constBlock (p : Pkg) : (constBlock p).length = 64 := by
  simp [constBlock, length_leBytes]

/-- The constants go to memory where no stack of their block has failed. -/
theorem writeConsts_of_sound {set : Settings} {p : Pkg} (h : failedIn set p (uConst (cfgOf p)) 64 = none) :
    writeConsts set p = writeMem set (uConst (cfgOf p)) (constBlock p) p := by
  simp [writeConsts, writeBlock, length_constBlock, h]

theorem tryOpen_of_ok {set : Settings} {w : Who} {b : List Byte} {p : Pkg} (hb : openFieldsBad b = false)
    (hcfg : p.upd.cfg ≠ none) (henv : set.envAct ≠ 3)
    (hstate : p.step.state = .none ∨ p.step.state = .committed ∨ p.step.state = .aborted)
    (hround : p.reshard.round = none) (hheld : p.reshard.held = []) (hactive : p.reshard.active = false)
    (hepoch : oEpoch b = 0xFFFF ∨ oEpoch b = p.reshard.epoch)
    (hnext : oBase b = true ∨
      (p.step.torn = false ∧ ∃ n, p.step.committedNum = some n ∧ oStep b = (n + 1) % 2 ^ 64)) :
    tryOpen set ⟨w, b⟩ p = answer w stOk 0 0 (openNow set b p) := by
  have hbusy : stepBusy p = false ∧ (p.step.state == .opened) = false := by
    rcases hstate with h | h | h <;> simp [stepBusy, h]
  have hep : (oEpoch b != 0xFFFF && oEpoch b != p.reshard.epoch) = false := by
    rcases hepoch with h | h <;> simp [h]
  have hstep : (!oBase b && stepNotNext p b) = false ∧ (!oBase b && p.step.torn) = false := by
    rcases hnext with h | ⟨htorn, n, hn, hb⟩
    · simp [h]
    · simp [htorn, stepNotNext, hn, hb]
  simp [tryOpen, hb, hcfg, henv, hbusy, hround, hheld, hactive, hep, hstep]

/-- The package with the fields of the step that STEP_OPEN opens (R208), before its state changes and the constants
block is written. -/
def withFreshStep (set : Settings) (b : List Byte) (p : Pkg) : Pkg :=
  { p with
    tasks := { p.tasks with health := p.tasks.health.filter fun h => 6144 ≤ h.slot, summ := [] }
    colls := { p.colls with
      past := [], groups := p.colls.groups.map fun c => { c with done := c.done.filter fun d => d.2.isNone } }
    step := {
      state := p.step.state, num := oStep b, torn := p.step.torn && !oBase b, opens := p.step.opens
      committedNum := if oBase b then none else p.step.committedNum
      base := if oBase b then oStep b else p.step.base
      epoch := p.reshard.epoch, lr := f32At b 12, tokens := le b 16 4, record := oRecord b, tOpen := now p
      openAt := p.ft.count
      modeWord := pkgMode set, cursorOpen := cursors p, expOpen := p.upd.exp, goodOpen := p.upd.good } }

theorem openNow_eq (set : Settings) (b : List Byte) (p : Pkg) :
    openNow set b p = writeConsts set (setStepState .opened (withFreshStep set b p)) := rfl

theorem openNow_of_ok {set : Settings} {b : List Byte} {p : Pkg} (hstate : p.step.state ≠ .opened)
    (hsound : failedIn set p (uConst (cfgOf p)) 64 = none) :
    let q := raise 328 (modStep (fun s => { s with state := .opened }) (withFreshStep set b p))
    openNow set b p = writeMem set (uConst (cfgOf q)) (constBlock q) q := by
  intro q
  have hcfg : cfgOf q = cfgOf p := by simp [q, cfgOf, withFreshStep]
  have hmem : q.mem = p.mem := by simp [q, withFreshStep]
  have hfail : failedIn set q (uConst (cfgOf q)) 64 = none := by
    rw [← hsound, hcfg, failedIn, hmem, failedIn]
  have hstep : setStepState .opened (withFreshStep set b p) = q := setStepState_of_ne hstate
  rw [openNow_eq, hstep, writeConsts_of_sound hfail]

/-- Settles O30: no check refuses the packet, and what it leaves is the fresh step, but for the constants block and
source 328. -/
theorem stepOpens : Obligations.StepOpens := by
  unfold Obligations.StepOpens
  intro s q w b p h hb hcfg henv hstate hround hheld hactive hepoch hnext hsound
  have hne : p.step.state ≠ .opened := by
    rcases hstate with h | h | h <;> simp [h]
  refine ⟨openNow s.set b p,
    onPacketP_of_eq (f := fun w b set p => tryOpen set ⟨w, b⟩ p) h
      (tryOpen_of_ok hb hcfg henv hstate hround hheld hactive hepoch hnext), ?_⟩
  rw [openNow_of_ok hne hsound, writeMem_frame]
  simp [withFreshStep, now, f32At]

end Sys2Proof.Machine
end

section
/-! PROOFS. The abort of a step begins (R235, R304): of the step's work nothing is left, and what ends with it starts none
again, so no failure of it reaches the step. For O31 and O32. -/

namespace Sys2Proof.Machine

/-! ### Messages and the ends of fixtures leave the work of the step -/

theorem dropFrame_work (f : Frame) (p : Pkg) : SameWork p (dropFrame f p) :=
  .trans (q := { p with links := { p.links with drop := satAdd 0xFFFFFFFF p.links.drop 1 } }) rfl (log_frame ..).work

theorem modPort_work (i : Nat) (f : Port → Port) (p : Pkg) : SameWork p (modPort i f p) := rfl

theorem queueOwn_work (f : Frame) (p : Pkg) : SameWork p (queueOwn f p) := by
  unfold queueOwn
  split
  · exact dropFrame_work f p
  · split
    · split
      · exact modPort_work _ _ p
      · exact dropFrame_work f p
    · exact dropFrame_work f p

theorem sendMessage_work (vc dst : Nat) (bs : List Byte) (p : Pkg) : SameWork p (sendMessage vc dst bs p) := by
  unfold sendMessage
  split
  · rfl
  · exact .foldl (fun q f => queueOwn_work f q) _ _

theorem sendCredit_work (n : Nat) (grad : Bool) (slot : Nat) (p : Pkg) : SameWork p (sendCredit n grad slot p) := by
  unfold sendCredit sendStage
  dsimp only
  split
  · rfl
  · exact sendMessage_work _ _ _ _

theorem notify_work (f : Fixture) (status : Nat) (p : Pkg) : SameWork p (notify f status p) := by
  unfold notify
  split <;> rfl

theorem retractStep_step (p : Pkg) : (retractStep p).step = p.step := by
  refine foldl_view Pkg.step (fun q x => ?_) _ p
  unfold sendRetract
  dsimp only
  split
  · rfl
  · exact (sendMessage_work _ _ _ _).step

/-- The instances of the step's work. -/
def stepInsts (p : Pkg) : List Nat := (p.tasks.insts.filter fun i => i.inStep).map (·.iid)

/-- No run of the step's work is held. -/
def NoneHeld (p : Pkg) : Prop := ∀ h ∈ p.tasks.held, h.inStep = false

/-- From `p` to `q` the step and the collectives stand, and no work of the step comes up. -/
structure Unwinds (p q : Pkg) : Prop where
  step : q.step = p.step
  colls : q.colls = p.colls
  insts : stepInsts q ⊆ stepInsts p
  held : q.tasks.held ⊆ p.tasks.held

namespace Unwinds

theorem of_tasks {p q : Pkg} (hstep : q.step = p.step) (hcolls : q.colls = p.colls) (htasks : q.tasks = p.tasks) :
    Unwinds p q :=
  ⟨hstep, hcolls, by rw [stepInsts, htasks]; exact List.Subset.refl _, htasks ▸ List.Subset.refl _⟩

theorem refl (p : Pkg) : Unwinds p p := of_tasks rfl rfl rfl

theorem trans {p q r : Pkg} (h1 : Unwinds p q) (h2 : Unwinds q r) : Unwinds p r :=
  ⟨h2.step.trans h1.step, h2.colls.trans h1.colls, List.Subset.trans h2.insts h1.insts,
    List.Subset.trans h2.held h1.held⟩

theorem noneHeld {p q : Pkg} (h : Unwinds p q) (hp : NoneHeld p) : NoneHeld q := fun x hx => hp x (h.held hx)

theorem noInsts {p q : Pkg} (h : Unwinds p q) (hp : stepInsts p = []) : stepInsts q = [] :=
  List.subset_nil.1 (hp ▸ h.insts)

/-- A fold whose every step, from where the fold is then, brings up no work. -/
theorem foldl {α : Type} {f : Pkg → α → Pkg} {l : List α} {p : Pkg}
    (hf : ∀ q, Unwinds p q → ∀ a ∈ l, Unwinds q (f q a)) : Unwinds p (l.foldl f p) :=
  List.foldlRecOn (motive := Unwinds p) l f (.refl p) fun q hq a ha => hq.trans (hf q hq a ha)

end Unwinds

theorem SameWork.unwinds {p q : Pkg} (h : SameWork p q) : Unwinds p q := .of_tasks h.step h.colls h.tasks

theorem mem_stepInsts {p : Pkg} {iid : Nat} :
    iid ∈ stepInsts p ↔ ∃ i ∈ p.tasks.insts, i.inStep = true ∧ i.iid = iid := by
  simp [stepInsts, and_assoc]

theorem modInst_unwinds (iid : Nat) (f : Inst → Inst) (p : Pkg)
    (hf : ∀ x, (f x).iid = x.iid ∧ (f x).inStep = x.inStep := by exact fun _ => ⟨rfl, rfl⟩) :
    Unwinds p (modInst iid f p) := by
  refine ⟨rfl, rfl, fun x hx => ?_, List.Subset.refl _⟩
  obtain ⟨j, hj, hin, rfl⟩ := mem_stepInsts.1 hx
  obtain ⟨i, hi, rfl⟩ := List.mem_map.1 hj
  have hsame : (if i.iid == iid then f i else i).iid = i.iid ∧ (if i.iid == iid then f i else i).inStep = i.inStep := by
    split
    · exact hf i
    · exact ⟨rfl, rfl⟩
  exact mem_stepInsts.2 ⟨i, hi, hsame.2 ▸ hin, hsame.1.symm⟩

theorem settleTasks_unwinds (set : Settings) (iid : Nat) (p : Pkg) : Unwinds p (settleTasks set iid p) :=
  modInst_unwinds iid _ p fun x => by
    rw [(settleInst_settles _ _ x).1]
    exact ⟨rfl, rfl⟩

/-! ### Instances that start and end (R77, R80, R112, R296) -/

theorem addInst_unwinds (set : Settings) {i : Inst} (hi : i.inStep = false) (p : Pkg) : Unwinds p (addInst set i p) := by
  let q : Pkg := { p with tasks := { p.tasks with insts := p.tasks.insts ++ [i], nextIid := p.tasks.nextIid + 1 } }
  refine .trans (q := q) ⟨rfl, rfl, fun x hx => ?_, List.Subset.refl _⟩ (settleTasks_unwinds set i.iid q)
  obtain ⟨j, hj, hin, rfl⟩ := mem_stepInsts.1 hx
  rcases List.mem_append.1 hj with hj | hj
  · exact mem_stepInsts.2 ⟨j, hj, hin, rfl⟩
  · rw [List.mem_singleton.1 hj, hi] at hin
    cases hin

theorem launchGraph_unwinds (set : Settings) (g : Graph) (num : Nat) (origin : Origin) (step : Option Nat) (p : Pkg) :
    Unwinds p (launchGraph set g num origin step false p) := by
  refine .trans (.of_tasks ?_ ?_ ?_) (addInst_unwinds set rfl _)
  all_goals
    split
    · split <;> rfl
    · rfl

theorem startHeld_unwinds (set : Settings) {p : Pkg} (hp : NoneHeld p) : Unwinds p (startHeld set p) := by
  refine .foldl fun q _ h hh => ?_
  dsimp only
  split
  · exact .refl q
  · split
    · let r : Pkg := { q with tasks := { q.tasks with held := q.tasks.held.filter fun x => x != h } }
      have hdrop : Unwinds q r := ⟨rfl, rfl, List.Subset.refl _, fun _ hx => (List.mem_filter.1 hx).1⟩
      rw [hp h hh]
      exact hdrop.trans (launchGraph_unwinds ..)
    · exact .refl q

theorem endFixture_unwinds (set : Settings) (iid stage entry status : Nat) (p : Pkg) :
    Unwinds p (endFixture set iid stage entry status p) := by
  have hslots (q : Pkg) : Unwinds q (freeSlots iid stage q) :=
    .trans (q := modStage stage _ q) (.of_tasks rfl rfl rfl)
      (SameWork.foldl (fun q m => sendCredit_work _ _ _ q) _ _).unwinds
  unfold endFixture
  split
  · exact hslots p
  · dsimp only
    refine .trans (.trans (.trans ?_ (hslots _)) (notify_work _ _ _).unwinds) (.of_tasks rfl rfl rfl)
    split
    · exact .refl p
    · exact (writeBlock_work _ _ _ _).unwinds

/-- The package without an instance. -/
def withoutInst (iid : Nat) (p : Pkg) : Pkg :=
  { p with tasks := { p.tasks with
    insts := p.tasks.insts.filter fun j => j.iid != iid, fetched := p.tasks.fetched.filter fun f => f.iid != iid } }

theorem mem_stepInsts_withoutInst {iid x : Nat} {p : Pkg} :
    x ∈ stepInsts (withoutInst iid p) ↔ x ∈ stepInsts p ∧ x ≠ iid := by
  simp only [mem_stepInsts, withoutInst, List.mem_filter, bne_iff_ne]
  constructor
  · rintro ⟨i, ⟨hi, hne⟩, hin, rfl⟩
    exact ⟨⟨i, hi, hin, rfl⟩, hne⟩
  · rintro ⟨⟨i, hi, hin, rfl⟩, hne⟩
    exact ⟨i, ⟨hi, hne⟩, hin, rfl⟩

theorem withoutInst_unwinds (iid : Nat) (p : Pkg) : Unwinds p (withoutInst iid p) :=
  ⟨rfl, rfl, fun _ hx => (mem_stepInsts_withoutInst.1 hx).1, List.Subset.refl _⟩

/-- An instance ends, where no run of the step's work is held: what is left brings up no work of the step. -/
theorem endInst_unwinds (set : Settings) (iid status : Nat) {p : Pkg} (hp : NoneHeld p) :
    Unwinds (withoutInst iid p) (endInst set iid status p) := by
  unfold endInst
  split
  case h_1 hnone =>
    refine ⟨rfl, rfl, fun x hx => mem_stepInsts_withoutInst.2 ⟨hx, ?_⟩, List.Subset.refl _⟩
    obtain ⟨i, hi, -, rfl⟩ := mem_stepInsts.1 hx
    simpa using List.find?_eq_none.1 hnone i hi
  case h_2 i _ =>
    have hanswered : Unwinds (withoutInst iid p) (match i.origin with
        | .packet w op _ => answer w status (instDetail i op) (instCounter i op) (withoutInst iid p)
        | .fixture stage entry => endFixture set iid stage entry status (withoutInst iid p)) := by
      split
      · exact (answer_work _ _ _ _ _).unwinds
      · exact endFixture_unwinds ..
    exact hanswered.trans (startHeld_unwinds set (hanswered.noneHeld hp))

theorem checkInst_unwinds (set : Settings) (iid : Nat) {p : Pkg} (hp : NoneHeld p) : Unwinds p (checkInst set iid p) := by
  unfold checkInst
  split
  · exact .refl p
  · split
    · exact (withoutInst_unwinds iid p).trans (endInst_unwinds set iid _ hp)
    · exact .refl p

/-- An instance that changes goes on, or ends. -/
theorem goOn_unwinds (set : Settings) (iid : Nat) (f : Inst → Inst) {p : Pkg} (hp : NoneHeld p)
    (hf : ∀ x, (f x).iid = x.iid ∧ (f x).inStep = x.inStep := by exact fun _ => ⟨rfl, rfl⟩) :
    Unwinds p (checkInst set iid (settleTasks set iid (modInst iid f p))) := by
  have hsettled := (modInst_unwinds iid f p hf).trans (settleTasks_unwinds set iid _)
  exact hsettled.trans (checkInst_unwinds set iid (hsettled.noneHeld hp))

/-! ### The instances of the step end (R235) -/

theorem abortInst_unwinds (set : Settings) (iid : Nat) {p : Pkg} (hp : NoneHeld p) :
    Unwinds p (abortInst set iid p) ∧ iid ∉ stepInsts (abortInst set iid p) := by
  let q : Pkg := { p with tasks := { p.tasks with runs := p.tasks.runs.filter fun r => r.iid != iid } }
  have hstop : Unwinds p (modInst iid (fun i => { i with noMore := true }) q) :=
    .trans (q := q) ⟨rfl, rfl, List.Subset.refl _, List.Subset.refl _⟩ (modInst_unwinds iid _ q)
  have hend := endInst_unwinds set iid stAborted (hstop.noneHeld hp)
  exact ⟨hstop.trans ((withoutInst_unwinds iid _).trans hend),
    fun hx => (mem_stepInsts_withoutInst.1 (hend.insts hx)).2 rfl⟩

theorem foldl_abortInst_unwinds (set : Settings) (l : List Nat) {p : Pkg} (hp : NoneHeld p) :
    Unwinds p (l.foldl (fun q iid => abortInst set iid q) p) ∧
      ∀ iid ∈ l, iid ∉ stepInsts (l.foldl (fun q iid => abortInst set iid q) p) := by
  induction l generalizing p with
  | nil => exact ⟨.refl p, fun _ h => absurd h List.not_mem_nil⟩
  | cons x l ih =>
    obtain ⟨hfirst, hgone⟩ := abortInst_unwinds set x hp
    obtain ⟨hrest, hout⟩ := ih (hfirst.noneHeld hp)
    refine ⟨hfirst.trans hrest, fun iid hiid hin => ?_⟩
    rcases List.mem_cons.1 hiid with rfl | hl
    · exact hgone (hrest.insts hin)
    · exact hout iid hl hin

/-- Once every instance of the step's work has ended, none is left. -/
theorem abortInsts_unwinds (set : Settings) {p : Pkg} (hp : NoneHeld p) :
    let q := (stepInsts p).foldl (fun q iid => abortInst set iid q) p
    Unwinds p q ∧ stepInsts q = [] := by
  obtain ⟨hunwinds, hgone⟩ := foldl_abortInst_unwinds set (stepInsts p) hp
  exact ⟨hunwinds, List.eq_nil_iff_forall_not_mem.2 fun x hx => hgone x (hunwinds.insts hx) hx⟩

/-! ### Collectives of the step feed what is left (R590) -/

section
variable (set : Settings) {p : Pkg} (hp : NoneHeld p) (hnone : stepInsts p = [])
include hp hnone

/-- A task of an instance outside the step fails: the step does not. -/
theorem failTask_unwinds (iid k status unit : Nat) : Unwinds p (failTask set iid k status unit p) := by
  have hnote : Unwinds p (noteFailure iid k status unit p) := by
    unfold noteFailure
    split
    · exact .refl p
    case h_2 i hi =>
      have hout : i.inStep = false := Bool.eq_false_iff.2 fun hin => by
        have hmem := mem_stepInsts.2 ⟨i, List.mem_of_find?_eq_some hi, hin, rfl⟩
        rw [hnone] at hmem
        exact List.not_mem_nil hmem
      simp only [hout, Bool.not_false, Bool.or_true, if_true]
      exact modInst_unwinds iid _ p
  exact hnote.trans (checkInst_unwinds set iid (hnote.noneHeld hp))

theorem feedInst_unwinds (g rid status iid : Nat) : Unwinds p (feedInst set g rid status p iid) := by
  unfold feedInst
  split
  · exact .refl p
  · dsimp only
    split
    · exact .refl p
    · split
      · exact failTask_unwinds set hp hnone _ _ _ _
      · split
        · exact failTask_unwinds set hp hnone _ _ _ _
        · exact goOn_unwinds set iid _ hp

theorem feed_unwinds (g rid status : Nat) : Unwinds p (feed set g rid status p) :=
  .foldl fun _ hq iid _ => feedInst_unwinds set (hq.noneHeld hp) (hq.noInsts hnone) g rid status iid

/-- Collectives that end feed what is left, one after the other. -/
theorem foldl_feed_unwinds (status : Nat) (l : List Coll) :
    Unwinds p (l.foldl (fun q c => feed set c.group c.rid status q) p) :=
  .foldl fun _ hq c _ => feed_unwinds set (hq.noneHeld hp) (hq.noInsts hnone) c.group c.rid status

end

/-! ### The reductions of the step and the groups (R304, R336) -/

/-- Every configured group waits for a RESYNC (R304). -/
def GroupsWait (p : Pkg) : Prop := ∀ g ∈ p.colls.groups, g.on = true → g.resync = true

theorem mem_or_eq_of_mem_modAt {α : Type} {l : List α} {i : Nat} {f : α → α} {x : α} (h : x ∈ modAt l i f) :
    x ∈ l ∨ ∃ y ∈ l, x = f y := by
  unfold modAt at h
  split at h
  case h_1 y hy =>
    rcases List.mem_or_eq_of_mem_set h with h | rfl
    · exact .inl h
    · exact .inr ⟨y, List.mem_of_getElem? hy, rfl⟩
  · exact .inl h

theorem haltGroups_wait (p : Pkg) : GroupsWait (haltGroups p) := by
  intro g hg hon
  obtain ⟨c, -, rfl⟩ := List.mem_map.1 hg
  split
  · rfl
  case isFalse hoff =>
    rw [if_neg hoff] at hon
    exact absurd hon hoff

/-- `q` has the step, the held runs and the groups of `p`, and of its collectives those that `keep` allows. -/
structure Retires (keep : Coll → Prop) (p q : Pkg) : Prop where
  step : q.step = p.step
  held : q.tasks.held = p.tasks.held
  wait : GroupsWait p → GroupsWait q
  running : ∀ c ∈ q.colls.running, c ∈ p.colls.running ∧ keep c

theorem retireColl_retires (c : Coll) (stats : Option (W32 × W32)) (p : Pkg) :
    Retires (fun d => d.iid = c.iid → d.task ≠ c.task) p (retireColl c stats p) := by
  have hcolls : (retireColl c stats p).colls.groups =
        modAt p.colls.groups c.group (fun g => { g with done := (c.rid, c.step) :: g.done }) ∧
      (retireColl c stats p).colls.running =
        p.colls.running.filter fun d => !(d.iid == c.iid && d.task == c.task) := by
    unfold retireColl
    dsimp only
    split <;> exact ⟨rfl, rfl⟩
  have hrest : (retireColl c stats p).step = p.step ∧ (retireColl c stats p).tasks.held = p.tasks.held := by
    unfold retireColl
    dsimp only
    split <;> exact ⟨rfl, rfl⟩
  refine ⟨hrest.1, hrest.2, fun hwait g hg hon => ?_, fun d hd => ?_⟩
  · rcases mem_or_eq_of_mem_modAt (hcolls.1 ▸ hg) with hg | ⟨y, hy, rfl⟩
    · exact hwait g hg hon
    · exact hwait y hy hon
  · rw [hcolls.2] at hd
    obtain ⟨hmem, hother⟩ := List.mem_filter.1 hd
    exact ⟨hmem, fun hiid htask => by
      rw [hiid, htask, beq_self_eq_true, beq_self_eq_true] at hother
      cases hother⟩

theorem foldl_retireColl_retires (l : List Coll) (p : Pkg) :
    Retires (· ∉ l) p (l.foldl (fun q c => retireColl c none q) p) := by
  induction l generalizing p with
  | nil => exact ⟨rfl, rfl, id, fun c hc => ⟨hc, List.not_mem_nil⟩⟩
  | cons x l ih =>
    have hfirst := retireColl_retires x none p
    have hrest := ih (retireColl x none p)
    refine ⟨hrest.step.trans hfirst.step, hrest.held.trans hfirst.held, hrest.wait ∘ hfirst.wait, fun c hc => ?_⟩
    obtain ⟨hmem, hout⟩ := hrest.running c hc
    obtain ⟨hin, hother⟩ := hfirst.running c hmem
    exact ⟨hin, List.not_mem_cons_of_ne_of_not_mem (fun h => hother (h ▸ rfl) (h ▸ rfl)) hout⟩

/-! ### The abort begins (R235) -/

theorem abortHeld_unwinds (set : Settings) (p : Pkg) :
    (abortHeld set p).step = p.step ∧ (abortHeld set p).colls = p.colls ∧ NoneHeld (abortHeld set p) := by
  let q : Pkg := { p with tasks := { p.tasks with held := p.tasks.held.filter fun h => !h.inStep } }
  have hunwinds : Unwinds q (abortHeld set p) := by
    refine .foldl fun r _ h _ => ?_
    split
    · exact (answer_work _ _ _ _ _).unwinds
    · exact endFixture_unwinds ..
  exact ⟨hunwinds.step, hunwinds.colls, hunwinds.noneHeld fun h hh => by simpa using (List.mem_filter.1 hh).2⟩

/-- The abort of a step that was `s` has begun. -/
structure AbortBegun (s : Step) (q : Pkg) : Prop where
  step : q.step = { s with abortDue := false, aborting := true }
  running : ∀ c ∈ q.colls.running, c.step ≠ some s.num
  wait : GroupsWait q

/-- The collectives of the step. -/
def stepColls (p : Pkg) : List Coll := p.colls.running.filter fun c => c.step == some p.step.num

/-- What an abort that begins ends, once the groups wait: held runs, reductions, instances, and what the reductions
feed. -/
def endStepWork (set : Settings) (p : Pkg) : Pkg :=
  let q := abortHeld set p
  let r := (stepColls q).foldl (fun r c => retireColl c none r) q
  (stepColls q).foldl (fun r c => feed set c.group c.rid stAborted r)
    ((stepInsts r).foldl (fun r iid => abortInst set iid r) r)

/-- PUSH tasks that wait and run no more leave their place (R246). -/
def dropPushes (p : Pkg) : Pkg :=
  pruneRings { p with hollow := { p.hollow with
    pushWait := p.hollow.pushWait.filter fun x => p.tasks.runs.any fun r => r.iid == x.1 && r.task == x.2 } }

theorem beginAbort_eq (set : Settings) (p : Pkg) :
    beginAbort set p = dropPushes (endStepWork set (haltGroups (retractStep
      (modStep (fun s => { s with abortDue := false, aborting := true }) p)))) := rfl

theorem endStepWork_begun (set : Settings) {s : Step} {p : Pkg}
    (hstep : p.step = { s with abortDue := false, aborting := true }) (hwait : GroupsWait p) :
    AbortBegun s (endStepWork set p) := by
  obtain ⟨hstep2, hcolls2, hheld2⟩ := abortHeld_unwinds set p
  rw [endStepWork]
  generalize abortHeld set p = q at *
  have hretires : Retires (· ∉ stepColls q) q _ := foldl_retireColl_retires (stepColls q) q
  generalize (stepColls q).foldl (fun r c => retireColl c none r) q = r at *
  have hheld : NoneHeld r := fun h hh => hheld2 h (hretires.held ▸ hh)
  obtain ⟨hinsts, hnone⟩ := abortInsts_unwinds set hheld
  have hunwinds := hinsts.trans (foldl_feed_unwinds set (hinsts.noneHeld hheld) hnone stAborted (stepColls q))
  refine ⟨hunwinds.step.trans (hretires.step.trans (hstep2.trans hstep)), fun c hc hnum => ?_, ?_⟩
  · rw [hunwinds.colls] at hc
    obtain ⟨hin, hout⟩ := hretires.running c hc
    exact hout (List.mem_filter.2 ⟨hin, by rw [hnum, hstep2, hstep]; exact beq_self_eq_true _⟩)
  · rw [GroupsWait, hunwinds.colls]
    refine hretires.wait ?_
    rw [GroupsWait, hcolls2]
    exact hwait

theorem beginAbort_begun (set : Settings) (p : Pkg) : AbortBegun p.step (beginAbort set p) := by
  have hstep := retractStep_step (modStep (fun s => { s with abortDue := false, aborting := true }) p)
  rw [beginAbort_eq]
  generalize retractStep (modStep _ p) = q at *
  have hbegun := endStepWork_begun set (p := haltGroups q) hstep (haltGroups_wait q)
  generalize endStepWork set (haltGroups q) = r at *
  exact ⟨hbegun.step, hbegun.running, hbegun.wait⟩

/-- What ends a command begins an abort that is due. -/
theorem finish_begun (set : Settings) {p : Pkg} (hdue : p.step.abortDue = true) (hnot : p.step.aborting = false) :
    AbortBegun p.step (finish set p) := by
  have hfinish : finish set p = resumeJ1 set (retrySlots (beginAbort set p)) := by
    rw [finish, hdue, hnot]
    rfl
  have hbegun := beginAbort_begun set p
  rw [hfinish]
  generalize beginAbort set p = q at hbegun
  have hretry : retrySlots q = q := by simp [retrySlots, hbegun.step]
  rw [hretry]
  exact ⟨hbegun.step, hbegun.running, hbegun.wait⟩

end Sys2Proof.Machine
end

section
/-! PROOFS. STEP_SEAL, STEP_COMMIT and STEP_ABORT where they apply (O31). -/

namespace Sys2Proof.Machine

/-! ### STEP_SEAL (R212, R214, R295) -/

/-- The package whose step STEP_SEAL makes SEALING. -/
def withSealing (w : Who) (b : List Byte) (p : Pkg) : Pkg :=
  setStepState .sealing (modStep (fun s => { s with tSeal := now p, sealWho := w, sealMs := le b 0 4, swept := false }) p)

/-- A fixture of the step in course has not launched (R295). -/
def lacksLaunch (p : Pkg) : Bool := p.pipe.fixtures.any fun f => !f.launched && ofStep p f

/-- The same, with the failure of R295 where a fixture has not launched. -/
def sealChecked (w : Who) (b : List Byte) (p : Pkg) : Pkg :=
  if lacksLaunch p then failStep 0 stBadState (withSealing w b p) else withSealing w b p

theorem setBit_ne_zero (v i : Nat) : setBit v i ≠ 0 := fun h => by
  have hbit := bit_setBit v i i
  rw [h] at hbit
  simp [bit] at hbit

section
variable {w : Who} {b : List Byte} {set : Settings} {p : Pkg} (hstate : p.step.state = .opened)
include hstate

theorem withSealing_eq :
    withSealing w b p = raise 328 (modStep (fun s => { s with
      state := .sealing, tSeal := now p, sealWho := w, sealMs := le b 0 4, swept := false }) p) :=
  setStepState_of_ne (by simp [hstate])

theorem withSealing_step :
    (withSealing w b p).step = { p.step with
      state := .sealing, tSeal := now p, sealWho := w, sealMs := le b 0 4, swept := false } := by
  rw [withSealing_eq hstate, raise_step]
  rfl

theorem lacksLaunch_withSealing : lacksLaunch (withSealing w b p) = lacksLaunch p := by
  simp only [lacksLaunch, withSealing_eq hstate, raise_pipe, modStep_pipe, ofStep, raise_step, modStep_step]

variable (hb : zeros b 4 60 = true) (habort : p.step.aborting = false)
include hb habort

theorem stepSeal_of_opened :
    stepSeal w b set p = finish set (if (sealChecked w b p).step.failMask != 0 then
      modStep (fun s => { s with abortDue := true }) (sealChecked w b p) else sealChecked w b p) := by
  have hchecked : sealChecked w b p =
      if lacksLaunch (withSealing w b p) then failStep 0 stBadState (withSealing w b p) else withSealing w b p := by
    rw [lacksLaunch_withSealing hstate, sealChecked]
  rw [hchecked]
  simp only [stepSeal, hb, hstate, habort, Bool.not_true, bne_self_eq_false, Bool.or_self, Bool.false_eq_true, if_false]
  rfl

/-- A step that nothing has failed is SEALING. -/
theorem stepSeal_of_sound (hmask : p.step.failMask = 0) (hdue : p.step.abortDue = false)
    (hlaunched : lacksLaunch p = false) : stepSeal w b set p = resumeJ1 set (withSealing w b p) := by
  have hstep := withSealing_step (w := w) (b := b) hstate
  have hchecked : sealChecked w b p = withSealing w b p := by simp [sealChecked, hlaunched]
  have hmask' : (withSealing w b p).step.failMask = 0 := by rw [hstep, hmask]
  rw [stepSeal_of_opened hstate hb habort, hchecked, hmask', bne_self_eq_false, if_neg Bool.false_ne_true]
  exact finish_quiet set (by rw [hstep, hdue]) (by rw [hstep]; exact Bool.and_false _)

/-- A step that something has failed begins its abort at once, and remembers who sealed it. -/
theorem stepSeal_of_failed (hmask : p.step.failMask ≠ 0) :
    (stepSeal w b set p).step.aborting = true ∧ (stepSeal w b set p).step.sealWho = w := by
  have hstep := withSealing_step (w := w) (b := b) hstate
  obtain ⟨hfail, hnot, hwho⟩ : (sealChecked w b p).step.failMask ≠ 0 ∧ (sealChecked w b p).step.aborting = false ∧
      (sealChecked w b p).step.sealWho = w := by
    unfold sealChecked
    split
    · simp only [failStep, modStep_step, hstep]
      exact ⟨setBit_ne_zero _ _, habort, trivial⟩
    · rw [hstep]
      exact ⟨hmask, habort, rfl⟩
  have hbegun := finish_begun set (p := modStep (fun s => { s with abortDue := true }) (sealChecked w b p)) rfl hnot
  rw [stepSeal_of_opened hstate hb habort, if_pos (bne_iff_ne.2 hfail), hbegun.step]
  exact ⟨rfl, hwho⟩

end

/-! ### STEP_COMMIT (R227, R263) -/

/-- `q` is `p` but for the slots that rings have chosen, the versions they hold, and what a log entry touches. -/
def SameButSlots (p q : Pkg) : Prop :=
  q = { p with
    step := { p.step with chosen := q.step.chosen, commitHeld := q.step.commitHeld }
    rings := { p.rings with rings := q.rings.rings, forced := q.rings.forced }
    ic := q.ic, out := q.out, dies := q.dies, mgt := q.mgt }

theorem SameButSlots.trans {p q r : Pkg} (h1 : SameButSlots p q) (h2 : SameButSlots q r) : SameButSlots p r := by
  unfold SameButSlots at *
  rw [h2, h1]

theorem SameLog.slots {p q : Pkg} (h : SameLog p q) : SameButSlots p q := by
  rw [SameButSlots, h.1]

theorem forceOut_frame (r : Ring) (v : Version) (p : Pkg) : SameButSlots p (forceOut r v p) :=
  .trans (q := { p with rings := { p.rings with
    forced := satAdd 0xFFFFFFFF p.rings.forced 1
    rings := p.rings.rings.map fun x =>
      if x.id == r.id then { x with versions := x.versions.filter fun y => y.num != v.num } else x } })
    rfl (log_frame ..).slots

theorem takeSlot_frame (id n : Nat) (p : Pkg) : SameButSlots p (takeSlot id n p) := by
  induction n generalizing p with
  | zero =>
    unfold takeSlot
    split
    · rfl
    · split
      · rfl
      · contradiction
      · rfl
  | succ n ih =>
    unfold takeSlot
    split
    · rfl
    · split
      · rfl
      case h_2 v m _ _ hm =>
        cases hm
        exact (forceOut_frame ..).trans (ih _)
      · rfl

theorem chooseSlots_frame (p : Pkg) : SameButSlots p (chooseSlots p) := by
  refine List.foldlRecOn (motive := SameButSlots p) _ _ rfl fun q hq id _ => hq.trans ?_
  unfold chooseSlot
  split
  · rfl
  · exact takeSlot_frame _ _ _

theorem stepCommit_of_sealed {w : Who} {b : List Byte} {set : Settings} {p : Pkg} (hb : stepNumBad p b = false)
    (hstate : p.step.state = .sealed) (habort : p.step.aborting = false) (henv : set.envAct ≠ 3)
    (hrings : ∀ e ∈ p.upd.layers, ringMismatch p e = false) :
    stepCommit w b set p = chooseSlots (raise 328 (modStep (fun s => { s with
      state := .committing, commitWho := w, swept := false, tear := none, chosen := [] }) p)) := by
  have hmatch : p.upd.layers.any (ringMismatch p) = false := by
    simpa only [List.any_eq_false, Bool.not_eq_true] using hrings
  simp only [stepCommit, hb, hstate, habort, hmatch, bne_self_eq_false, beq_eq_false_iff_ne.2 henv, Bool.or_self,
    Bool.false_eq_true, if_false]
  rw [setStepState_of_ne (by simp [hstate])]
  rfl

/-! ### STEP_ABORT (R235) -/

theorem stepAbort_of_live {w : Who} {b : List Byte} {set : Settings} {p : Pkg} (hb : stepNumBad p b = false)
    (hstate : p.step.state = .opened ∨ p.step.state = .sealing ∨ p.step.state = .sealed) :
    stepAbort w b set p =
      finish set (modStep (fun s => { s with abortDue := true, abortWho := s.abortWho ++ [w] }) p) := by
  have hlive : (p.step.state != .opened && p.step.state != .sealing && p.step.state != .sealed) = false := by
    rcases hstate with h | h | h <;> rw [h] <;> rfl
  simp only [stepAbort, hb, hlive, Bool.false_eq_true, if_false]

/-- Settles O31: a seal of a sound step and a commit set the state of the step; a seal of a failed step and an abort
begin the abort, of which `finish_begun` says what it leaves. -/
theorem stepPacketsInTurn : Obligations.StepPacketsInTurn := by
  unfold Obligations.StepPacketsInTurn
  intro s q w b p habort
  refine ⟨fun h hb hstate hmask hdue hfix => ?_, fun h hb hstate hmask => ?_, fun h hb hstate henv hrings => ?_,
    fun h hb hstate => ?_⟩
  · have hlaunched : lacksLaunch p = false := List.any_eq_false.2 fun f hf => by
      rcases hfix f hf with h | h <;> simp [h]
    refine ⟨_, onPacketP_of_eq h (stepSeal_of_sound hstate hb habort hmask hdue hlaunched), ?_⟩
    have hwith := withSealing_eq (w := w) (b := b) hstate
    simp [resumeJ1, hwith, hmask, habort, now]
  · exact ⟨_, onPacketP_of_eq h rfl, stepSeal_of_failed hstate hb habort hmask⟩
  · refine ⟨_, onPacketP_of_eq h (stepCommit_of_sealed hb hstate habort henv hrings), ?_⟩
    rw [chooseSlots_frame]
    simp
  · refine ⟨_, onPacketP_of_eq h (stepAbort_of_live hb hstate), ?_⟩
    have hbegun := finish_begun s.set
      (p := modStep (fun s => { s with abortDue := true, abortWho := s.abortWho ++ [w] }) p) rfl habort
    rw [hbegun.step]
    exact ⟨rfl, rfl, rfl, rfl, hbegun.running, hbegun.wait⟩

end Sys2Proof.Machine
end

section
/-! PROOFS. How a seal and an abort end (O32): what the end of an abort leaves, that the step boundary with nothing waiting
keeps it, and that an engine without collectives does. -/

namespace Sys2Proof.Machine

/-! ### The end of a seal (R213 to R215, R221, R503) -/

/-- The package whose step is SEALED and recorded, before the reply (R214). -/
def sealedPkg (set : Settings) (p : Pkg) : Pkg :=
  writeRecord set .sealed stOk (setStepState .sealed (modStep (fun s => { s with
    spike := isSpike p, noise := (List.range 4).map (noiseOf p) }) p))

theorem becomeSealed_eq (set : Settings) (p : Pkg) :
    becomeSealed set p = answer (sealedPkg set p).step.sealWho stOk (sealedPkg set p).step.failMask
      (stepFlags (sealedPkg set p).step) (sealedPkg set p) := rfl

theorem sealedPkg_work (set : Settings) (p : Pkg) :
    SameWork (modStep (fun s => { s with
        state := .sealed, spike := isSpike p, noise := (List.range 4).map (noiseOf p) }) p) (sealedPkg set p) :=
  (setStepState_work _ _).trans (writeBlock_work _ _ _ _)

theorem sealedPkg_host (set : Settings) (p : Pkg) : (sealedPkg set p).host = p.host := by
  rw [sealedPkg, writeRecord, writeBlock_host, setStepState_host]
  rfl

section
variable {set : Settings} {p : Pkg} (hstate : p.step.state = .sealing) (habort : p.step.aborting = false)
include hstate habort

/-- A check that fails in a step that is SEALING begins its abort (R214). -/
theorem finish_failStep (b status : Nat) :
    (finish set (failStep b status p)).step.aborting = true ∧
      bit (finish set (failStep b status p)).step.failMask b = true := by
  have hbegun := finish_begun set (p := failStep b status p) (by simp [failStep, hstate]) habort
  rw [hbegun.step]
  exact ⟨rfl, by simp [failStep, bit_setBit]⟩

theorem sealTimeout_of_late (hms : p.step.sealMs ≠ 0)
    (hlate : p.step.tSeal + p.step.sealMs * 1000000 ≤ p.ft.count / 65536) :
    sealTimeout set p = finish set (failStep 6 stHung p) := by
  simp [sealTimeout, hstate, habort, hms, now, Nat.not_lt.2 hlate]

variable (hwork : workDone p = true)
include hwork

theorem closingSweep_of_sound (hswept : p.step.swept = false) (hdue : p.step.abortDue = false) :
    closingSweep [] set p = resumeJ1 set (modStep (fun s => { s with swept := true })
      { p with integ := { p.integ with rounds := (p.integ.rounds + 1) % 65536 } }) := by
  simp only [closingSweep, hstate, habort, hswept, hwork, beq_self_eq_true, Bool.and_self, Bool.true_or, Bool.not_true,
    Bool.or_self, Bool.false_eq_true, if_false, List.foldl_nil]
  exact finish_quiet set hdue (by rw [modStep_step, hstate]; exact Bool.and_false _)

variable (hswept : p.step.swept = true)
include hswept

theorem sealComplete_of_finite (hfinite : nonfiniteStep p = false) : sealComplete set p = becomeSealed set p := by
  simp [sealComplete, hstate, habort, hwork, hswept, hfinite]

theorem sealComplete_of_nonfinite (hnonfin : nonfiniteStep p = true) :
    sealComplete set p = finish set (failStep 5 stNonfinite p) := by
  simp [sealComplete, hstate, habort, hwork, hswept, hnonfin]

end

/-! ### The end of an abort (R204, R220, R235, R250, R273) -/

theorem clearGrads_work (set : Settings) (p : Pkg) : SameWork p (clearGrads set p) := by
  rw [clearGrads_eq]
  refine .foldl (fun q e => ?_) _ p
  unfold clearGrad
  split
  · exact (memError_work _ _ _).trans rfl
  · rfl

/-- The work of a step that has been aborted is gone from `q`, which was `p`: every fixture left has launched, every
configured stage waits for a RESYNC, and no version has been published. -/
structure AbortEnded (p q : Pkg) : Prop where
  step : q.step = { p.step with
    state := .aborted, aborting := false, abortDue := false, abortWho := [], lsFloor := q.step.lsFloor
    tEnd := q.step.tEnd }
  upd : q.upd = { p.upd with exp := q.upd.exp, good := q.upd.good }
  version : q.rings.version = p.rings.version
  launched : ∀ f ∈ q.pipe.fixtures, f.launched = true
  resync : ∀ st ∈ q.pipe.stages, st.on = true → st.resync = true
  colls : q.colls = p.colls
  reshard : q.reshard = p.reshard

/-- The package once the scratch state of the step is gone. -/
def withoutScratch (set : Settings) (p : Pkg) : Pkg := haltStages (emptyHollows set (clearGrads set p))

theorem emptyHollows_of_noPush {set : Settings} {p : Pkg} (h : p.hollow.pushWait = []) :
    emptyHollows set p = pruneRings { p with
      hollow := { p.hollow with stages := p.hollow.stages.map fun h => { h with segs := [] } }
      rings := { p.rings with stamps := [] } } := by
  simp [emptyHollows, pushWaiting, pruneRings, h]

theorem withoutScratch_fields {set : Settings} {p : Pkg} (h : p.hollow.pushWait = []) :
    let q := withoutScratch set p
    q.step = p.step ∧ q.upd = p.upd ∧ q.rings.version = p.rings.version ∧ q.colls = p.colls ∧ q.reshard = p.reshard ∧
      q.tasks = p.tasks := by
  have hwork := clearGrads_work set p
  have hpush : (clearGrads set p).hollow.pushWait = [] := by rw [hwork.hollow, h]
  have hempty := emptyHollows_of_noPush (set := set) hpush
  simp only [withoutScratch, hempty, haltStages, removeFixtures, pruneRings, hwork.step, hwork.upd, hwork.rings,
    hwork.colls, hwork.reshard, hwork.tasks, and_self]

theorem haltStages_launched {p : Pkg} : ∀ f ∈ (haltStages p).pipe.fixtures, f.launched = true := fun f hf => by
  simpa using (List.mem_filter.1 hf).2

theorem haltStages_resync {p : Pkg} : ∀ st ∈ (haltStages p).pipe.stages, st.on = true → st.resync = true := by
  intro st hst hon
  obtain ⟨s, -, rfl⟩ := List.mem_map.1 hst
  split
  · rfl
  case isFalse hoff =>
    rw [if_neg hoff] at hon
    exact absurd hon hoff

theorem haltQueue_frame (w : Who) (p : Pkg) : haltQueue w p = { p with host := (haltQueue w p).host } := by
  unfold haltQueue
  split
  · split <;> rfl
  · rfl

/-- The policy of R220 touches the sealing queue, the loss scale and its flag alone. -/
theorem nonfinPolicy_frame (p : Pkg) :
    let q := nonfinPolicy p
    q = { p with
      host := q.host, step := { p.step with lsFloor := q.step.lsFloor }
      upd := { p.upd with exp := q.upd.exp, good := q.upd.good } } := by
  unfold nonfinPolicy
  dsimp only
  split
  · rfl
  · split
    · rw [haltQueue_frame]
    · split
      · rfl
      · split
        · rfl
        · rw [haltQueue_frame]
          rfl

/-- The package once the policy of R220 has acted on it without its scratch state. -/
def afterPolicy (set : Settings) (p : Pkg) : Pkg := nonfinPolicy (withoutScratch set p)

theorem afterPolicy_fields {set : Settings} {p : Pkg} (hpush : p.hollow.pushWait = []) :
    let q := afterPolicy set p
    q.step = { p.step with lsFloor := q.step.lsFloor } ∧ q.upd = { p.upd with exp := q.upd.exp, good := q.upd.good } ∧
      q.rings.version = p.rings.version ∧ q.pipe = (withoutScratch set p).pipe ∧ q.colls = p.colls ∧
      q.reshard = p.reshard ∧ q.tasks = p.tasks := by
  intro q
  obtain ⟨hstep, hupd, hversion, hcolls, hreshard, htasks⟩ := withoutScratch_fields (set := set) hpush
  have hpolicy : q = _ := nonfinPolicy_frame (withoutScratch set p)
  refine ⟨(congrArg Pkg.step hpolicy).trans ?_, (congrArg Pkg.upd hpolicy).trans ?_,
    (congrArg (·.rings.version) hpolicy).trans hversion, (congrArg Pkg.pipe hpolicy).trans rfl,
    (congrArg Pkg.colls hpolicy).trans hcolls, (congrArg Pkg.reshard hpolicy).trans hreshard,
    (congrArg Pkg.tasks hpolicy).trans htasks⟩
  · rw [hstep]
    rfl
  · rw [hupd]
    rfl

/-- A package whose step becomes ABORTED, before the record and the answers. -/
def withAborted (p : Pkg) : Pkg :=
  setStepState .aborted (modStep (fun s => { s with aborting := false, abortDue := false, tEnd := now p }) p)

theorem withAborted_work (p : Pkg) :
    SameWork (modStep (fun s => { s with state := .aborted, aborting := false, abortDue := false, tEnd := now p }) p)
      (withAborted p) :=
  setStepState_work .aborted _

/-- The record and the answers leave the work as it is; then nobody waits for the abort any more. -/
theorem finishAbort_eq (set : Settings) (p : Pkg) :
    ∃ q, SameWork (withAborted (afterPolicy set p)) q ∧
      finishAbort set p = modStep (fun s => { s with abortWho := [] }) q := by
  have hite {c : Prop} [Decidable c] {w : Who} {st d n : Nat} {q : Pkg} :
      SameWork q (if c then answer w st d n q else q) := by
    split
    · exact answer_work _ _ _ _ _
    · exact .refl q
  have hanswers (l : List Who) (q : Pkg) : SameWork q (l.foldl (fun q w => answer w stOk 0 0 q) q) :=
    .foldl (fun q w => answer_work w _ _ _ q) l q
  exact ⟨_, ((writeBlock_work _ _ _ _).trans hite).trans (hite.trans (hanswers _ _)), rfl⟩

/-- Nothing scratch is left once an abort has ended; the tasks are those that its beginning left. -/
theorem finishAbort_ended {set : Settings} {p : Pkg} (hpush : p.hollow.pushWait = []) :
    AbortEnded p (finishAbort set p) ∧ (finishAbort set p).tasks = p.tasks := by
  obtain ⟨q, hq, hfinish⟩ := finishAbort_eq set p
  obtain ⟨hstep, hupd, hversion, hpipe, hcolls, hreshard, htasks⟩ := afterPolicy_fields (set := set) hpush
  have hwork := (withAborted_work _).trans hq
  have hlaunched := haltStages_launched (p := emptyHollows set (clearGrads set p))
  have hresync := haltStages_resync (p := emptyHollows set (clearGrads set p))
  rw [hfinish]
  rw [withoutScratch] at hpipe
  generalize haltStages (emptyHollows set (clearGrads set p)) = h at hpipe hlaunched hresync
  generalize afterPolicy set p = r at *
  have hpipe' : q.pipe = h.pipe := hwork.pipe.trans hpipe
  refine ⟨⟨?_, hwork.upd ▸ hupd, (congrArg Rings.version hwork.rings).trans hversion, hpipe' ▸ hlaunched,
    hpipe' ▸ hresync, hwork.colls.trans hcolls, hwork.reshard.trans hreshard⟩, hwork.tasks.trans htasks⟩
  rw [modStep_step, hwork.step]
  simp only [modStep_step]
  rw [hstep]

/-! ### The step boundary with nothing waiting but the mode (R31, R33, R100) -/

/-- `q` is `p` but for the tasks, the free values, and what records, events and answers touch. -/
def SameOutside (p q : Pkg) : Prop := SameWork { p with tasks := q.tasks, free := q.free } q

namespace SameOutside

theorem trans {p q r : Pkg} (h1 : SameOutside p q) (h2 : SameOutside q r) : SameOutside p r := by
  unfold SameOutside SameWork at *
  rw [h2, h1]

end SameOutside

theorem SameWork.outside {p q : Pkg} (h : SameWork p q) : SameOutside p q := by
  unfold SameOutside SameWork at *
  rw [h]

theorem AbortEnded.of_same {p q r : Pkg} (h : AbortEnded p q) (hs : SameOutside q r) : AbortEnded p r := by
  obtain ⟨hstep, hupd, hversion, hlaunched, hresync, hcolls, hreshard⟩ := h
  have hs' : SameWork _ r := hs
  exact ⟨hs'.step ▸ hstep, hs'.upd ▸ hupd, hs'.rings ▸ hversion, hs'.pipe ▸ hlaunched, hs'.pipe ▸ hresync,
    hs'.colls ▸ hcolls, hs'.reshard ▸ hreshard⟩

theorem convertMasters_work (set : Settings) (toLean : Bool) (p : Pkg) : SameWork p (convertMasters set toLean p) := by
  refine .foldl (fun q e => ?_) _ p
  unfold convertLayer
  dsimp only
  split
  · exact memError_work _ _ _
  · rfl

theorem spillJ1_outside (set : Settings) (p : Pkg) : SameOutside p (spillJ1 set p) := by
  unfold spillJ1
  split
  · rfl
  · exact .trans (q := { p with free := p.free + 1 }) rfl
      (SameWork.foldl (fun q c => writeBlock_work _ _ _ q) _ _).outside

/-- A change of FILLER touches memory alone, unless shares of running J1 tasks are read back. -/
theorem moveFiller_outside {set : Settings} {on : Bool} {p : Pkg}
    (h : on = true → set.filler = true ∨ j1Runs p = []) : SameOutside p (moveFiller set on p) := by
  unfold moveFiller
  split
  · rfl
  · split
    case isTrue hne hon =>
      rcases h hon with hf | hj
      · simp [hon, hf] at hne
      · simp [restoreJ1, hj, SameOutside, SameWork]
    case isFalse => exact spillJ1_outside _ _

theorem setEnvAct_outside (e : Nat) (s : State) : SameOutside s.p (setEnvAct e s).p := by
  unfold setEnvAct
  dsimp only
  split <;> rfl

/-- No share of a running J1 task is read back when the mode that waits takes effect. -/
def NoReadBack (set : Settings) (p : Pkg) : Prop :=
  j1Runs p = [] ∨ set.filler = true ∨ ∀ m, set.pend = some m → m.filler ≠ some true

theorem applyPend_outside {s : State} (h : NoReadBack s.set s.p) : SameOutside s.p (applyPend s).p := by
  unfold applyPend
  split
  · rfl
  case h_2 m hm =>
    refine .trans ?_ (setEnvAct_outside _ _)
    refine .trans ?_ (raise_frame 329 _).work.outside
    have hconvert : SameWork s.p (if m.lean.getD s.set.lean != s.set.lean then
        convertMasters s.set (m.lean.getD s.set.lean) s.p else s.p) := by
      split
      · exact convertMasters_work _ _ _
      · exact .refl _
    refine hconvert.outside.trans (moveFiller_outside fun hon => ?_)
    rw [j1Runs, hconvert.tasks]
    rcases h with hj | hf | hpend
    · exact .inr hj
    · exact .inl hf
    · cases hfill : m.filler with
      | none => exact .inl (by rwa [hfill] at hon)
      | some on =>
        cases on with
        | true => exact absurd hfill (hpend m hm)
        | false => rw [hfill] at hon; cases hon

theorem applyPend_pend (s : State) : (applyPend s).set.pend = none := by
  cases h : s.set.pend with
  | none => simp [applyPend, h]
  | some m =>
    obtain ⟨w, p, he, -⟩ := applyPend_some h
    rw [he]
    rfl

/-- Nothing waits for a step boundary behind the mode. -/
structure NothingWaits (p : Pkg) : Prop where
  busy : stepBusy p = false
  opens : p.step.opens = []
  waits : p.upd.waits = []
  held : p.reshard.held = []

theorem atBoundary_of_nothing {p : Pkg} (h : NothingWaits p) (set : Settings) : atBoundary set p = p := by
  obtain ⟨hbusy, hopens, hwaits, hheld⟩ := h
  have hupd : { p.upd with waits := [] } = p.upd := by rw [← hwaits]
  have hstep : { p.step with opens := [] } = p.step := by rw [← hopens]
  simp only [atBoundary, hbusy, hwaits, hupd, startRounds, hheld, retryOpens, hopens, modStep, hstep, List.foldl_nil,
    Bool.false_eq_true, if_false]

/-- At a boundary behind which nothing waits, the mode that waits takes effect, and that is all. -/
theorem boundary_of_nothing {s : State} (h : NothingWaits (applyPend s).p) (hbusy : stepBusy s.p = false) :
    boundary s = applyPend s := by
  simp only [boundary, hbusy, atBoundary_of_nothing h, Bool.false_eq_true, if_false]

/-! ### The collective engine without collectives (R336) -/

theorem firstSome_none {α β : Type} {f : α → Option β} {l : List α} (h : ∀ a ∈ l, f a = none) :
    firstSome f l = none := by
  induction l with
  | nil => rfl
  | cons a l ih =>
    rw [firstSome, h a List.mem_cons_self, Option.none_or, ih fun b hb => h b (List.mem_cons_of_mem a hb)]

theorem nextStalled_of_none {p : Pkg} (hstall : ∀ g ∈ p.colls.groups, g.stalled = []) (set : Settings) :
    nextStalled set p = none := firstSome_none fun g _ => by
  have hquiet : (groupOf p g).stalled = [] := by
    rw [groupOf, List.getD_eq_getElem?_getD]
    cases h : p.colls.groups[g]? with
    | none => rfl
    | some c => exact hstall c (List.mem_of_getElem? h)
  rw [hquiet]

section
variable {p : Pkg} (hrun : p.colls.running = [])
include hrun

theorem nextWaiting_of_none : nextWaiting p = none := firstSome_none fun g _ => by
  rw [hrun]
  split <;> rfl

theorem nextEarly_of_none : nextEarly p = none := firstSome_none fun _ _ => firstSome_none fun _ _ => by
  rw [hrun]
  rfl

variable (hstall : ∀ g ∈ p.colls.groups, g.stalled = [])
include hstall

theorem engineAct_of_none (set : Settings) : engineAct set p = none := by
  rw [engineAct, nextWaiting_of_none hrun, nextEarly_of_none hrun, nextStalled_of_none hstall, hrun]
  rfl

theorem pump_of_none (set : Settings) (n : Nat) : pump set n p = p := by
  cases n with
  | zero => rfl
  | succ n => rw [pump, engineAct_of_none hrun hstall]

/-- The engine acts on nothing: J1 may resume and withheld credit return, and a boundary has nothing to do. -/
theorem runEngine_of_none (set : Settings) (hdue : p.step.abortDue = false) (h : NothingWaits p) :
    SameOutside p (runEngine set p) := by
  have hcommit : (p.step.state == .committing) = false := by
    have hbusy := h.busy
    simp only [stepBusy, Bool.or_eq_false_iff] at hbusy
    exact hbusy.2
  have hfinish := finish_quiet set hdue (by rw [hcommit, Bool.and_false])
  have hnothing : NothingWaits (releaseCredit (resumeJ1 set p)) := ⟨h.busy, h.opens, h.waits, h.held⟩
  rw [runEngine, pump_of_none hrun hstall, hfinish, atBoundary_of_nothing hnothing]
  rfl

end

/-! ### ABORT_COMPLETE (R235, R336) -/

theorem abortComplete_of_free {set : Settings} {p : Pkg} (habort : p.step.aborting = true)
    (hrung : p.integ.episode = none) (hstash : stashRuns p (fun _ => true) = false) :
    abortComplete set p = finishAbort set p := by
  simp [abortComplete, habort, hrung, hstash]

/-- An abort that nothing holds up ends, and the boundary and the engine follow. -/
theorem exec_abortComplete_of_free {s : State} (habort : s.p.step.aborting = true) (hrung : s.p.integ.episode = none)
    (hstash : stashRuns s.p (fun _ => true) = false) :
    let u := boundary { s with p := finishAbort s.set s.p }
    exec .abortComplete s = .next { u with p := runEngine u.set u.p } := by
  simp only [exec, execAbortComplete, abortComplete_of_free habort hrung hstash]

theorem AbortEnded.facts {p q : Pkg} (h : AbortEnded p q) :
    q.step.state = .aborted ∧ q.step.aborting = false ∧ q.step.abortDue = false ∧ q.step.abortWho = [] ∧
      q.step.committedNum = p.step.committedNum ∧ q.upd.updates = p.upd.updates := by
  rw [h.step, h.upd]
  exact ⟨rfl, rfl, rfl, rfl, rfl, rfl⟩

theorem AbortEnded.nothingWaits {p q : Pkg} (h : AbortEnded p q) (hopens : p.step.opens = []) (hwaits : p.upd.waits = [])
    (hheld : p.reshard.held = []) : NothingWaits q :=
  ⟨by rw [stepBusy, h.facts.1]; rfl, by rw [h.step]; exact hopens, by rw [h.upd]; exact hwaits, h.reshard ▸ hheld⟩

/-- The boundary after an abort has ended keeps its end, and no mode waits any more. -/
theorem boundary_abortEnded {s : State} {p : Pkg} (h : AbortEnded p s.p) (hread : NoReadBack s.set s.p)
    (hopens : p.step.opens = []) (hwaits : p.upd.waits = []) (hheld : p.reshard.held = []) :
    AbortEnded p (boundary s).p ∧ (boundary s).set.pend = none := by
  have happlied : AbortEnded p (applyPend s).p := h.of_same (applyPend_outside hread)
  rw [boundary_of_nothing (happlied.nothingWaits hopens hwaits hheld) (h.nothingWaits hopens hwaits hheld).busy]
  exact ⟨happlied, applyPend_pend s⟩

/-- Settles O32: a seal ends by the equation of its case, an abort by `finishAbort_ended`, which the boundary and an engine
without collectives keep. -/
theorem sealsAndAbortsEnd : Obligations.SealsAndAbortsEnd := by
  unfold Obligations.SealsAndAbortsEnd
  refine ⟨fun s hstate habort => ⟨fun hwork hswept hfinite => ?_, fun hwork hswept hnonfin => ?_, fun hms hlate => ?_,
    fun hwork hswept hdue => ?_⟩, fun s habort hrung hstash hopens hwaits hheld hpush hread => ?_⟩
  · have hsame := sealedPkg_work s.set s.p
    refine ⟨_, sealedPkg s.set s.p, onP_of_eq (sealComplete_of_finite hstate habort hwork hswept hfinite), ?_⟩
    simp [becomeSealed_eq, sealedPkg_host, hsame.step, hsame.tasks, hsame.upd, hsame.rings]
  · exact ⟨_, onP_of_eq (sealComplete_of_nonfinite hstate habort hwork hswept hnonfin),
      finish_failStep hstate habort _ _⟩
  · exact ⟨_, onP_of_eq (sealTimeout_of_late hstate habort hms hlate), finish_failStep hstate habort _ _⟩
  · exact ⟨_, onP_of_eq (f := fun set p => closingSweep [] set p)
      (closingSweep_of_sound hstate habort hwork hswept hdue), rfl, rfl, rfl, rfl⟩
  · intro ends
    obtain ⟨hended, htasks⟩ := finishAbort_ended (set := s.set) hpush
    have hends {t : State} (h : AbortEnded s.p t.p) (hpend : t.set.pend = none) : ends t := by
      obtain ⟨hstate, hnot, -, hwho, hnum, hupdates⟩ := h.facts
      exact ⟨hstate, hnot, hwho, h.version, h.launched, h.resync, hnum, hpend, hupdates, h.colls ▸ id⟩
    have hexec := exec_abortComplete_of_free habort hrung hstash
    obtain ⟨hu, hpend⟩ := boundary_abortEnded (s := { s with p := finishAbort s.set s.p }) hended
      (by rw [NoReadBack, j1Runs, htasks]; exact hread) hopens hwaits hheld
    generalize boundary { s with p := finishAbort s.set s.p } = u at hexec hu hpend
    refine ⟨⟨u, hexec, hends hu hpend⟩, fun hrun hstall => ⟨_, hexec, hends (hu.of_same ?_) hpend⟩⟩
    obtain ⟨-, -, hdue, -⟩ := hu.facts
    exact runEngine_of_none (hu.colls ▸ hrun) (hu.colls ▸ hstall) _ hdue (hu.nothingWaits hopens hwaits hheld)

end Sys2Proof.Machine
end

section
/-! PROOFS. A PUSH that is placed (O40): its free units, the frames of the hollow under what the top cache holds, and the
placing. -/

namespace Sys2Proof.Machine

/-! ### The free units of a hollow (R240, R252) -/

theorem mem_freeUnits {h : Hollow} {n x : Nat} (hx : x ∈ freeUnits h n) : x < h.size / hollowUnit ∧ x ∉ usedUnits h := by
  have hfree := List.mem_of_mem_take hx
  simpa only [List.mem_filter, List.mem_range, Bool.not_eq_true', List.elem_eq_mem, decide_eq_false_iff_not] using hfree

/-- At most as many units are taken as frames hold, so the rest are free. -/
theorem length_freeUnits {h : Hollow} {n : Nat} (hn : n ≤ h.size / hollowUnit - (usedUnits h).length) :
    (freeUnits h n).length = n := by
  let taken (u : Nat) : Bool := (usedUnits h).elem u
  let units : List Nat := List.range (h.size / hollowUnit)
  have htaken : (units.filter taken).length ≤ (usedUnits h).length :=
    List.Nodup.length_le_of_subset (List.nodup_range.filter _) fun u hu => List.elem_iff.1 (List.mem_filter.1 hu).2
  have hsplit : h.size / hollowUnit = (units.filter taken).length + (units.filter fun u => !taken u).length := by
    have hcount := List.length_eq_countP_add_countP taken (l := units)
    simpa only [units, List.length_range, List.countP_eq_length_filter, Bool.not_eq_true, Bool.decide_eq_false]
      using hcount
  have hfree : n ≤ (units.filter fun u => !taken u).length := by omega
  exact List.length_take.trans (Nat.min_eq_left hfree)

/-- A frame that is stored takes the lowest free units, and as many are free. -/
theorem placeFrame_stored {h : Hollow} {checkpoint : Bool} {size : Nat} {us : List Nat}
    (hplace : placeFrame h checkpoint size = .stored us) :
    us = freeUnits h (ceilDiv size hollowUnit) ∧
      ceilDiv size hollowUnit ≤ h.size / hollowUnit - (usedUnits h).length := by
  unfold placeFrame at hplace
  dsimp only at hplace
  split at hplace <;> split at hplace <;> cases hplace
  · exact ⟨rfl, ‹_›⟩
  · exact ⟨rfl, Nat.le_trans (Nat.le_add_left ..) ‹_›⟩

/-! ### Frames without what the cache holds (R254) -/

/-- A frame as it stands outside the top cache. -/
def Kept.bare (f : Kept) : Kept := { f with cached := none }

/-- A hollow with nothing in the top cache. -/
def Hollow.bare (h : Hollow) : Hollow := mapFrames Kept.bare h

theorem mapFrames_mapFrames (g g' : Kept → Kept) (h : Hollow) : mapFrames g (mapFrames g' h) = mapFrames (g ∘ g') h := by
  simp only [mapFrames, List.map_map, Function.comp_def]

theorem bare_setCached (order : Nat) (bs : Option (List Byte)) (h : Hollow) : (setCached order bs h).bare = h.bare := by
  rw [Hollow.bare, setCached, mapFrames_mapFrames, Hollow.bare]
  congr 1
  funext f
  dsimp only [Function.comp]
  split <;> rfl

theorem segmentOf_mapFrames (g : Kept → Kept) (h : Hollow) (mb : Nat) :
    segmentOf (mapFrames g h) mb = (segmentOf h mb).map fun s => { s with frames := s.frames.map g } :=
  List.find?_map

/-- The segment of a micro-batch with a frame on top; another is as it was. -/
def Segment.push (mb : Nat) (f : Kept) (s : Segment) : Segment :=
  if s.mb == mb then { s with frames := f :: s.frames } else s

/-- A frame of no weight adds nothing to a sum over the frames of the segments. -/
theorem sum_frames_push {weight : Kept → Nat} {mb : Nat} {f : Kept} (hf : weight f = 0) (segs : List Segment) :
    (((segs.map (Segment.push mb f)).flatMap (·.frames)).map weight).sum =
      ((segs.flatMap (·.frames)).map weight).sum := by
  have hone (s : Segment) : ((s.push mb f).frames.map weight).sum = (s.frames.map weight).sum := by
    unfold Segment.push
    split
    · rw [List.map_cons, List.sum_cons, hf, Nat.zero_add]
    · rfl
  induction segs with
  | nil => rfl
  | cons s segs ih =>
    rw [List.map_cons, List.flatMap_cons, List.flatMap_cons, List.map_append, List.map_append, List.sum_append,
      List.sum_append, hone, ih]

section
variable {mb : Nat} {h : Hollow} {seg : Segment} (hseg : segmentOf h mb = some seg)
include hseg

theorem putSegment_of_open (f : Kept) :
    putSegment mb f h = { h with pushes := h.pushes + 1, segs := h.segs.map (Segment.push mb f) } := by
  have hopen : segmentOf { h with pushes := h.pushes + 1 } mb = some seg := hseg
  rw [putSegment]
  simp only [hopen]
  rfl

theorem segmentOf_putSegment (f : Kept) :
    segmentOf (putSegment mb f h) mb = some { seg with frames := f :: seg.frames } := by
  have hmb : (seg.mb == mb) = true := List.find?_some (p := fun s : Segment => s.mb == mb) hseg
  have hkey (s : Segment) : (s.push mb f).mb = s.mb := by unfold Segment.push; split <;> rfl
  rw [putSegment_of_open hseg, segmentOf, List.find?_map]
  simp only [Function.comp_def, hkey]
  rw [show h.segs.find? (fun s => s.mb == mb) = some seg from hseg, Option.map_some, Segment.push, if_pos hmb]

theorem cacheShare_putSegment (f : Kept) : cacheShare (putSegment mb f h) = cacheShare h := by
  rw [putSegment_of_open hseg]
  rfl

/-- A frame comes to its segment outside the cache: it takes nothing of the share. -/
theorem cacheUsed_putSegment {f : Kept} (hf : f.cached = none) : cacheUsed (putSegment mb f h) = cacheUsed h := by
  rw [putSegment_of_open hseg]
  exact sum_frames_push (by rw [hf]; rfl) h.segs

end

/-! ### The hollow of a stage in the package -/

theorem hollowAt_modHollow_self {p : Pkg} {n : Nat} (g : Hollow → Hollow) (hn : n < p.hollow.stages.length) :
    hollowAt (modHollow n g p) n = g (hollowAt p n) :=
  getD_modAt_self _ _ _ _ hn

/-- `q` is `p` as far as the frames of stage `n` and the count of dropped frames go: what the top cache holds may
differ. -/
structure SameFrames (n : Nat) (p q : Pkg) : Prop where
  frames : (hollowAt q n).bare = (hollowAt p n).bare
  drops : q.hollow.drops = p.hollow.drops

namespace SameFrames
variable {n : Nat}

theorem refl (p : Pkg) : SameFrames n p p := ⟨rfl, rfl⟩

theorem trans {p q r : Pkg} (h1 : SameFrames n p q) (h2 : SameFrames n q r) : SameFrames n p r :=
  ⟨h2.frames.trans h1.frames, h2.drops.trans h1.drops⟩

theorem setCached (order : Nat) (bs : Option (List Byte)) (p : Pkg) :
    SameFrames n p (modHollow n (setCached order bs) p) := by
  refine ⟨?_, rfl⟩
  unfold hollowAt
  rw [modHollow_hollow, modAt_getD]
  split
  · exact bare_setCached _ _ _
  · rfl

end SameFrames

theorem SameWork.sameFrames {p q : Pkg} (h : SameWork p q) (n : Nat) : SameFrames n p q := by
  constructor
  · rw [hollowAt, h.hollow]
    rfl
  · rw [h.hollow]

theorem moveOut_sameFrames (set : Settings) (n : Nat) (f : Kept) (p : Pkg) : SameFrames n p (moveOut set n f p) := by
  refine (SameFrames.setCached f.order none p).trans (SameWork.sameFrames (.foldl (fun q w => ?_) _ _) n)
  split
  · split
    · exact memError_work _ _ _
    · rfl
  · rfl

theorem makeRoom_sameFrames (set : Settings) (n need k : Nat) (p : Pkg) : SameFrames n p (makeRoom set n need k p) := by
  induction k generalizing p with
  | zero => exact .refl p
  | succ k ih =>
    unfold makeRoom
    dsimp only
    split
    · exact .refl p
    · split
      · exact (moveOut_sameFrames set n _ p).trans (ih _)
      · exact .refl p

theorem intoCache_sameFrames (set : Settings) (n : Nat) (f : Kept) (bs : List Byte) (p : Pkg) :
    SameFrames n p (intoCache set n f bs p) := by
  unfold intoCache
  split
  · exact .refl p
  · have hroom := makeRoom_sameFrames set n f.size ((hollowAt p n).segs.flatMap (·.frames)).length p
    dsimp only
    split
    · exact hroom.trans (.setCached _ _ _)
    · exact hroom

theorem intoCache_of_larger (set : Settings) {n : Nat} {f : Kept} (bs : List Byte) {p : Pkg}
    (h : cacheShare (hollowAt p n) < f.size) : intoCache set n f bs p = p := by
  simp only [intoCache, h, decide_true, Bool.true_or, if_true]

theorem makeRoom_of_room (set : Settings) {n need : Nat} {p : Pkg} (k : Nat)
    (h : cacheUsed (hollowAt p n) + need ≤ cacheShare (hollowAt p n)) : makeRoom set n need k p = p := by
  cases k with
  | zero => rfl
  | succ k => rw [makeRoom, if_pos h]

/-- A frame for which there is room goes in, and no frame leaves. -/
theorem intoCache_of_room (set : Settings) {n : Nat} {f : Kept} (bs : List Byte) {p : Pkg} (hf : f.dropped = false)
    (h : cacheUsed (hollowAt p n) + f.size ≤ cacheShare (hollowAt p n)) :
    intoCache set n f bs p = modHollow n (setCached f.order (some bs)) p := by
  have hfits : ¬ cacheShare (hollowAt p n) < f.size := by omega
  simp only [intoCache, hf, hfits, decide_false, Bool.or_self, Bool.false_eq_true, if_false, makeRoom_of_room set _ h, h,
    if_true]

/-! ### A frame on top of its segment (R252, R254) -/

/-- Under a hollow that has the frames of another, a segment has the frames it has there. -/
theorem segmentOf_of_bare {h h' : Hollow} {mb : Nat} {f : Kept} {fs : List Kept} {m : Nat} (hbare : h'.bare = h.bare)
    (hseg : segmentOf h mb = some ⟨m, f :: fs⟩) :
    ∃ t g rest, segmentOf h' mb = some t ∧ t.frames = g :: rest ∧ g.bare = f.bare ∧
      rest.map Kept.bare = fs.map Kept.bare := by
  have hmap := congrArg (segmentOf · mb) hbare
  simp only [Hollow.bare, segmentOf_mapFrames, hseg, Option.map_some] at hmap
  obtain ⟨t, ht, hframes⟩ := Option.map_eq_some_iff.1 hmap
  obtain ⟨g, rest, hcons, hg, hrest⟩ := List.map_eq_cons_iff.1 (congrArg Segment.frames hframes)
  exact ⟨t, g, rest, ht, hcons, hg, hrest⟩

/-- The frame that goes into the cache holds its bytes there. -/
theorem segmentOf_setCached_top {h : Hollow} {mb m : Nat} {f : Kept} {fs : List Kept} (bs : List Byte)
    (hseg : segmentOf h mb = some ⟨m, f :: fs⟩) :
    ∃ rest, segmentOf (setCached f.order (some bs) h) mb = some ⟨m, { f with cached := some bs } :: rest⟩ := by
  rw [setCached, segmentOf_mapFrames, hseg, Option.map_some, List.map_cons, if_pos (beq_self_eq_true _)]
  exact ⟨_, rfl⟩

section
variable {set : Settings} {p c : Pkg} {n mb : Nat} {f : Kept} {bs : List Byte} {seg : Segment}
  (hn : n < p.hollow.stages.length) (hseg : segmentOf (hollowAt p n) mb = some seg)
  (hc : intoCache set n f bs (modHollow n (putSegment mb f) p) = c)
include hn hseg hc

theorem stored_frames : c.hollow.drops = p.hollow.drops ∧ ∃ t g rest, segmentOf (hollowAt c n) mb = some t ∧
    t.frames = g :: rest ∧ g.bare = f.bare ∧ rest.map Kept.bare = seg.frames.map Kept.bare := by
  have hsame := intoCache_sameFrames set n f bs (modHollow n (putSegment mb f) p)
  rw [hc] at hsame
  refine ⟨hsame.drops, segmentOf_of_bare (m := seg.mb) hsame.frames ?_⟩
  rw [hollowAt_modHollow_self _ hn]
  exact segmentOf_putSegment hseg f

/-- A frame larger than the share stays in the stacks, and the cache does not change. -/
theorem stored_of_larger (hlarge : cacheShare (hollowAt p n) < f.size) :
    segmentOf (hollowAt c n) mb = some ⟨seg.mb, f :: seg.frames⟩ ∧ c.mem = p.mem := by
  have hput := hollowAt_modHollow_self (putSegment mb f) hn
  rw [← hc, intoCache_of_larger set bs (by rw [hput, cacheShare_putSegment hseg]; exact hlarge), hput]
  exact ⟨segmentOf_putSegment hseg f, rfl⟩

/-- A frame that the free part of the share takes lies in the cache, and none leaves it. -/
theorem stored_of_room (hf : f.cached = none) (hd : f.dropped = false)
    (hroom : cacheUsed (hollowAt p n) + f.size ≤ cacheShare (hollowAt p n)) :
    (∃ rest, segmentOf (hollowAt c n) mb = some ⟨seg.mb, { f with cached := some bs } :: rest⟩) ∧ c.mem = p.mem := by
  have hput := hollowAt_modHollow_self (putSegment mb f) hn
  have hin := intoCache_of_room set bs (n := n) (f := f) (p := modHollow n (putSegment mb f) p) hd
    (by rw [hput, cacheShare_putSegment hseg, cacheUsed_putSegment hseg hf]; exact hroom)
  rw [← hc, hin, hollowAt_modHollow_self _ (by rw [modHollow_hollow, length_modAt]; exact hn), hput]
  exact ⟨segmentOf_setCached_top bs (segmentOf_putSegment hseg f), rfl⟩

end

/-! ### A PUSH that is placed (R246, R252) -/

section
variable {set : Settings} {p : Pkg} {i : Inst} {k : Nat} {r : Run} {seg : Segment} {n : Nat} {h : Hollow} {f : Kept}
  (hrun : runOf p i.iid k = some r) (hn : le (tBody (i.desc k)) 0 1 = n) (hh : hollowAt p n = h)
  (hf : { newFrame (tBody (i.desc k)) r.tensors with order := h.pushes } = f)
  (hseg : segmentOf h i.num = some seg) (hlen : seg.frames.length < 256)
include hrun hn hh hf hseg hlen

/-- A frame that is stored goes to its segment and then, where it can, into the cache; beyond that the run alone changes. -/
theorem placePush_of_stored {us : List Nat}
    (hplace : placeFrame h (le (tBody (i.desc k)) 1 1 == 1) f.size = .stored us)
    (herr : pushError set p (tBody (i.desc k)) r.tensors = none) :
    ∃ work : Run → Run, placePush set i k p = modRun i.iid k work
      (intoCache set n { f with units := us } (frameData set p (tBody (i.desc k)) r.tensors)
        (modHollow n (putSegment i.num { f with units := us }) (modRun i.iid k (fun r => { r with waits := false }) p))) := by
  subst hn hh hf
  apply Exists.intro
  unfold placePush
  simp only [hrun, hseg, Nat.not_le.mpr hlen, decide_false, Bool.false_eq_true, if_false, hplace]
  rw [show pushError set (modRun i.iid k (fun r => { r with waits := false }) p) (tBody (i.desc k)) r.tensors = none
    from herr]
  rfl

/-- A frame that is dropped is marked and counted. -/
theorem placePush_of_dropped (hplace : placeFrame h (le (tBody (i.desc k)) 1 1 == 1) f.size = .dropped) :
    (placePush set i k p).mem = p.mem ∧ (placePush set i k p).hollow = { p.hollow with
      stages := modAt p.hollow.stages n (putSegment i.num { f with dropped := true })
      drops := satAdd 0xFFFFFFFF p.hollow.drops 1 } := by
  subst hn hh hf
  unfold placePush
  simp only [hrun, hseg, Nat.not_le.mpr hlen, decide_false, Bool.false_eq_true, if_false, hplace]
  split <;> exact ⟨rfl, rfl⟩

end

/-- Settles O40: a stored frame lies on top of its segment, and the cache takes it, leaves it out or makes room for it
without changing a frame; a dropped one lies there and is counted. -/
theorem pushPlacesFrames : Obligations.PushPlacesFrames := by
  unfold Obligations.PushPlacesFrames
  intro set p i k r seg _ hrun b n h f q bare hn hseg hlen
  refine ⟨fun us hplace herr => ?_, fun hplace => ?_⟩
  · obtain ⟨rfl, hfree⟩ := placeFrame_stored hplace
    refine ⟨length_freeUnits hfree, fun _ => mem_freeUnits, ?_⟩
    obtain ⟨work, hq⟩ := placePush_of_stored hrun rfl rfl rfl hseg hlen hplace herr
    generalize hc : intoCache set _ _ _ _ = c at hq
    have hhollow : q.hollow = c.hollow := (congrArg Pkg.hollow hq).trans (modRun_hollow ..)
    have hmem : q.mem = c.mem := (congrArg Pkg.mem hq).trans (modRun_mem ..)
    have hat : hollowAt q n = hollowAt c n := by rw [hollowAt, hhollow]; rfl
    rw [hat, hhollow, hmem]
    obtain ⟨hdrops, t, g, rest, ht, hframes, hg, hrest⟩ := stored_frames (p := modRun i.iid k _ p) hn hseg hc
    refine ⟨t, g, rest, ht, hframes, hg, hrest, hdrops, fun hlarge => ?_, fun hroom => ?_⟩
    · obtain ⟨htop, hkept⟩ := stored_of_larger (p := modRun i.iid k _ p) hn hseg hc hlarge
      cases ht.symm.trans htop
      cases hframes
      exact ⟨rfl, rfl, hkept⟩
    · obtain ⟨⟨_, htop⟩, hkept⟩ := stored_of_room (p := modRun i.iid k _ p) hn hseg hc rfl rfl hroom
      cases ht.symm.trans htop
      cases hframes
      exact ⟨rfl, hkept⟩
  · obtain ⟨hmem, hhollow⟩ := placePush_of_dropped (set := set) hrun rfl rfl rfl hseg hlen hplace
    have hput : hollowAt q n = putSegment i.num { f with dropped := true } h := by
      rw [hollowAt, hhollow]
      exact getD_modAt_self _ _ _ _ hn
    exact ⟨_, hput ▸ segmentOf_putSegment hseg _, rfl, congrArg Hollows.drops hhollow, hmem⟩

end Sys2Proof.Machine
end

section
/-! PROOFS. The stage links (O42, O47): what a change of a hosted stage makes of it, a SEND that leaves, and what each
message of a link does where the manual takes it. -/

namespace Sys2Proof.Machine

/-! ### Hosted stages -/

theorem stageAt_modStage_self {n : Nat} {p : Pkg} (f : Stage → Stage) (hn : n < p.pipe.stages.length) :
    stageAt (modStage n f p) n = f (stageAt p n) := getD_modAt_self _ _ _ _ hn

theorem stageAt_modStage_ne {n m : Nat} (f : Stage → Stage) (p : Pkg) (h : m ≠ n) :
    stageAt (modStage n f p) m = stageAt p m := getD_modAt_ne _ _ _ _ _ h.symm

theorem stageAt_of_pipe {p q : Pkg} (h : q.pipe = p.pipe) (n : Nat) : stageAt q n = stageAt p n := by
  rw [stageAt, h, stageAt]

/-- A stage outside the table is not configured. -/
theorem lt_of_stageAt_on {p : Pkg} {n : Nat} (h : (stageAt p n).on = true) : n < p.pipe.stages.length := by
  refine Nat.lt_of_not_le fun hn => ?_
  rw [stageAt, List.getD_eq_getElem?_getD, List.getElem?_eq_none hn] at h
  cases h

theorem lt_of_stageOfJob {p : Pkg} {job n : Nat} (h : stageOfJob p job = some n) : n < p.pipe.stages.length := by
  have hfound := List.find?_some h
  simp only [Bool.and_eq_true] at hfound
  exact lt_of_stageAt_on hfound.1

/-! ### A SEND leaves (R278, R283) -/

section
variable {set : Settings} {p : Pkg} {iid k n : Nat} {i : Inst} {r : Run} {st : Stage} {up : Bool}
  (hi : instOf p iid = some i) (hr : runOf p iid k = some r) (hn : le (tBody (i.desc k)) 0 1 = n)
  (hst : stageAt p n = st)
include hi hr hn hst

/-- In RESYNC_WAIT nothing leaves. -/
theorem transmitSend_of_resync (hresync : st.resync = true) : transmitSend iid k set p = p := by
  simp only [transmitSend, hi, hr, hn, hst, hresync, Bool.or_true, Bool.true_or, if_true]

theorem transmitSend_of_free (htype : tType (i.desc k) = 0x30) (hwaits : r.waits = true)
    (hup : (le (tBody (i.desc k)) 1 1 == 1) = up) (hresync : st.resync = false) {slot : Nat}
    (hslot : i.num % (viewOf st up).depth = slot) (hfree : slot ∈ (viewOf st up).free) {t : Tensor}
    (ht : r.tensors.getD (le (tBody (i.desc k)) 2 1) noTensor = t) (hread : tensorReadError set p t = none) :
    transmitSend iid k set p = endTask set iid k (sendStage (st.peer up)
      { kind := b2n up, depth := 0, dstStage := st.neighbour up, srcStage := st.job, gen := st.gen, step := p.step.num
        mb := i.num, epoch := p.reshard.epoch, length := messageBytes t } (messageData set p t)
      (modView n up (fun v => { v with free := v.free.filter (· != slot) }) p)) := by
  have helem : (viewOf st up).free.elem slot = true := List.elem_eq_true_of_mem hfree
  simp only [transmitSend, hi, hr, hn, hst, htype, hwaits, hup, hresync, hslot, helem, ht, hread, bne_self_eq_false,
    Bool.not_true, Bool.or_self, Bool.false_eq_true, if_false]
  rfl

end

/-- Settles O42: the SEND's slot is free and its data can be read, so it leaves; in RESYNC_WAIT it does not. -/
theorem sendsTransmit : Obligations.SendsTransmit := by
  unfold Obligations.SendsTransmit
  intro s iid k i r hi hr htype hwaits b st up t slot
  refine ⟨fun hresync hfree hread => ?_, fun hresync => ?_⟩
  all_goals refine onP_of_eq (f := fun set p => finish set (transmitSend iid k set p)) (congrArg (finish s.set) ?_)
  · exact transmitSend_of_free hi hr rfl rfl htype hwaits rfl hresync rfl hfree rfl hread
  · exact transmitSend_of_resync hi hr rfl rfl hresync

/-! ### Messages of the stage links (R277 to R280) -/

/-- A stage with one message more. -/
def Stage.withMsg (m : Held) (s : Stage) : Stage := { s with msgs := s.msgs ++ [m] }

/-- An ACT or GRAD of the stage's generation, from the neighbour on its side, is written into its free slot and waits
there. -/
theorem storeMsg_of_free {set : Settings} {n : Nat} {h : StageHdr} {data : List Byte} {p : Pkg} {st : Stage}
    {grad : Bool} {slot a : Nat} (hst : stageAt p n = st) (hgrad : (h.kind == 1) = grad)
    (hslot : h.mb % st.depth grad = slot) (ha : st.base grad + slot * st.slotSize grad = a)
    (hresync : st.resync = false) (hgen : h.gen = st.gen) (hsrc : h.srcStage = st.neighbour (!grad))
    (hpeer : h.srcStage ≠ 0xFFFF) (hfit : h.length ≤ st.slotSize grad)
    (hfree : ∀ m ∈ st.msgs, m.grad ≠ grad ∨ m.slot ≠ slot) (hstep : stepDone p h.step = false)
    (hwrite : writeError set p a data.length = none) :
    storeMsg set n h data p = modStage n
      (Stage.withMsg { grad, slot, mb := h.mb, step := h.step, epoch := h.epoch, at_ := p.ft.count })
      (writeMem set a data p) := by
  have hnb : (st.neighbour (!grad) == 0xFFFF) = false := beq_eq_false_iff_ne.2 (hsrc ▸ hpeer)
  have hempty : (st.msgs.any fun m => m.grad == grad && m.slot == slot) = false := List.any_eq_false.2 fun m hm => by
    rcases hfree m hm with h | h <;> simp [h]
  simp only [storeMsg, hst, hgrad, hslot, ha, hresync, hgen, hsrc, hnb, Nat.not_lt.2 hfit, hempty, hstep, hwrite,
    bne_self_eq_false, Bool.or_self, Bool.false_eq_true, if_false]
  rfl

theorem stageMessage_of_stage {set : Settings} {n : Nat} {h : StageHdr} {data : List Byte} {p : Pkg}
    (hn : stageOfJob p h.dstStage = some n) (hkind : h.kind ≤ 1) (hlen : data.length = h.length) :
    stageMessage h data set p = storeMsg set n h data p := by
  simp only [stageMessage, hn, Nat.not_lt.2 hkind, hlen, bne_self_eq_false, decide_false, Bool.or_self,
    Bool.false_eq_true, if_false]

section
variable {h : StageHdr} {n : Nat} {p : Pkg} {up : Bool} (hn : stageOfJob p h.dstStage = some n)
  (hlink : linkOf (stageAt p n) h.srcStage = some up)
include hn hlink

theorem takeCredit_of_taken (hkind : h.kind = 2) (hresync : (stageAt p n).resync = false)
    (hgen : h.gen = (stageAt p n).gen) (hmb : h.mb < (viewOf (stageAt p n) up).depth) (htaken : h.mb ∉ (viewOf (stageAt p n) up).free) :
    takeCredit h p = modView n up (fun v => { v with free := v.free ++ [h.mb] }) p := by
  have helem : (viewOf (stageAt p n) up).free.elem h.mb = false := Bool.eq_false_iff.2 fun he =>
    htaken (List.mem_of_elem_eq_true he)
  simp only [takeCredit, hn, hlink, hkind, hresync, hgen, Nat.not_le.2 hmb, helem, bne_self_eq_false, decide_false,
    Bool.or_self, Bool.false_eq_true, if_false]

theorem takeReset_of_reset (hkind : h.kind = 3) :
    takeReset h p = if h.gen = (stageAt p n).gen then
        modView n up (fun v => { v with depth := h.depth, free := List.range h.depth }) p
      else modView n up (fun v => { v with kept := some (h.gen, h.depth) }) p := by
  simp only [takeReset, hn, hlink, hkind, bne_self_eq_false, Bool.false_eq_true, if_false, beq_iff_eq]

end

/-- Settles O47: the equation of each message; after an ACT or GRAD nothing else happens but that a J1 task goes on. -/
theorem stageMessages : Obligations.StageMessages := by
  unfold Obligations.StageMessages
  intro s h n hn st
  refine ⟨?_, fun up hlink hkind hresync hgen hmb htaken => ?_, fun up hlink hkind => ?_⟩
  · intro data hkind hlen hresync hgen grad slot a hsrc hpeer hfit hfree hstep hwrite habort hheld
    have hstore := (stageMessage_of_stage (set := s.set) hn hkind hlen).trans
      (storeMsg_of_free rfl rfl rfl rfl hresync hgen hsrc hpeer hfit hfree hstep hwrite)
    have hkeep : (stageMessage h data s.set s.p).step = s.p.step := by rw [hstore]; rfl
    have hquiet := finish_quiet s.set (p := stageMessage h data s.set s.p) (by rw [hkeep, habort])
      (by rw [hkeep, hheld, Bool.false_and])
    refine ⟨_, onP_of_eq (f := fun set p => finish set (stageMessage h data set p)) hquiet, ?_⟩
    rw [hstore]
    have hstage := stageAt_modStage_self (p := writeMem s.set a data s.p)
      (Stage.withMsg { grad, slot, mb := h.mb, step := h.step, epoch := h.epoch, at_ := s.p.ft.count })
      (lt_of_stageOfJob hn)
    exact ⟨rfl, rfl, rfl, (congrArg Stage.msgs hstage :), (congrArg Stage.discard hstage :)⟩
  · exact onP_of_eq (f := fun _ p => takeCredit h p) (takeCredit_of_taken hn hlink hkind hresync hgen hmb htaken)
  · exact onP_of_eq (f := fun _ p => takeReset h p) (takeReset_of_reset hn hlink hkind)

end Sys2Proof.Machine
end

section
/-! PROOFS. Stages and fixture tables (O45): STAGE_CONFIG without work that waits, and what FIXTURE_LOAD puts into the
table and takes out of it. -/

namespace Sys2Proof.Machine

/-! ### Messages leave memory alone -/

theorem queueOwn_mem (f : Frame) (p : Pkg) : (queueOwn f p).mem = p.mem := by
  have hdrop : (dropFrame f p).mem = p.mem := log_mem ..
  unfold queueOwn
  split
  · exact hdrop
  · split
    · split
      · rfl
      · exact hdrop
    · exact hdrop

theorem sendMessage_mem (vc dst : Nat) (bs : List Byte) (p : Pkg) : (sendMessage vc dst bs p).mem = p.mem := by
  unfold sendMessage
  split
  · rfl
  · exact foldl_view Pkg.mem (fun q f => queueOwn_mem f q) _ p

theorem sendStage_keeps (peer : Nat) (h : StageHdr) (data : List Byte) (p : Pkg) :
    SameWork p (sendStage peer h data p) ∧ (sendStage peer h data p).mem = p.mem := by
  unfold sendStage
  split
  · exact ⟨rfl, rfl⟩
  · exact ⟨sendMessage_work _ _ _ p, sendMessage_mem _ _ _ p⟩

theorem sendReset_keeps (n : Nat) (up : Bool) (p : Pkg) :
    SameWork p (sendReset n up p) ∧ (sendReset n up p).mem = p.mem := by
  unfold sendReset
  dsimp only
  split
  · exact ⟨rfl, rfl⟩
  · exact sendStage_keeps _ _ _ p

/-! ### STAGE_CONFIG (R271, R272) -/

theorem failSends_of_noRuns {p : Pkg} (h : p.tasks.runs = []) (set : Settings) (n : Nat) : failSends set n p = p := by
  simp [failSends, failRuns, h]

section
variable {w : Who} {b : List Byte} {set : Settings} {p : Pkg} (hfields : stageFieldsBad p.links b = false)
  (hbusy : stepBusy p = false) (hused : stageUsed p (le b 0 1) = false) (hruns : p.tasks.runs = [])
include hfields hbusy hused hruns

/-- CONFIGURE sets up the stage and sends each neighbour a RESET. -/
theorem stageConfig_of_configure (hop : le b 1 1 = 0) (hroom : stageRoomBad p b = false) :
    stageConfig w b set p = answer w stOk 0 0 (sendReset (le b 0 1) false (sendReset (le b 0 1) true
      (modStage (le b 0 1) (configuredStage b) p))) := by
  simp [stageConfig, hfields, hroom, hbusy, hused, hop, failSends_of_noRuns hruns]

/-- REMOVE leaves the entry of a stage that is not there. -/
theorem stageConfig_of_remove (hop : le b 1 1 = 1) :
    stageConfig w b set p = answer w stOk 0 0 (modStage (le b 0 1) (fun _ => {}) p) := by
  have hroom : stageRoomBad p b = false := by simp [stageRoomBad, hop]
  simp [stageConfig, hfields, hroom, hbusy, hused, hop, failSends_of_noRuns hruns]

end

/-! ### FIXTURE_LOAD: LOAD (R286, R287) -/

/-- `q` is `p` with the fixtures of `es` at the end of its table, none of them launched. -/
structure PlacedAfter (es : List (List Byte)) (p q : Pkg) : Prop where
  frame : q = { p with pipe := { p.pipe with fixtures := q.pipe.fixtures, nextFix := q.pipe.nextFix } }
  placed : ∃ fs : List Fixture, q.pipe.fixtures = p.pipe.fixtures ++ fs ∧ fs.map (·.entry) = es ∧
    ∀ f ∈ fs, f.launched = false ∧ f.hung = false

theorem placeFixture_placed (w : Who) (p : Pkg) (e : List Byte) : PlacedAfter [e] p (placeFixture w p e) :=
  ⟨rfl, _, rfl, rfl, fun f hf => by rw [List.mem_singleton.1 hf]; exact ⟨rfl, rfl⟩⟩

theorem foldl_placeFixture_placed (w : Who) (es : List (List Byte)) (p : Pkg) :
    PlacedAfter es p (es.foldl (placeFixture w) p) := by
  induction es generalizing p with
  | nil => exact ⟨rfl, [], (List.append_nil _).symm, rfl, fun f hf => absurd hf List.not_mem_nil⟩
  | cons e es ih =>
    obtain ⟨hframe1, fs1, hfs1, hmap1, hnew1⟩ := placeFixture_placed w p e
    obtain ⟨hframe2, fs2, hfs2, hmap2, hnew2⟩ := ih (placeFixture w p e)
    refine ⟨by rw [List.foldl_cons, hframe2, hframe1], fs1 ++ fs2, ?_, ?_, fun f hf => ?_⟩
    · rw [List.foldl_cons, hfs2, hfs1, List.append_assoc]
    · rw [List.map_append, hmap1, hmap2, List.singleton_append]
    · exact (List.mem_append.1 hf).elim (hnew1 f) (hnew2 f)

theorem fixturePacket_of_load {w : Who} {b : List Byte} {set : Settings} {p : Pkg} (hop : le b 0 1 = 0)
    (hres : le b 1 1 = 0) (hmin : 1 ≤ le b 2 2) (hmax : le b 2 2 ≤ 4096) (hzero : zeros b 4 4 = true)
    (hrest : zeros b 16 48 = true) (haddr : addrOk (le b 8 8) 32 (32 * le b 2 2) = true)
    (hread : readError set p (le b 8 8) (32 * le b 2 2) = none) {es : List (List Byte)}
    (hes : chunksOf 32 (le b 2 2) (readMem set p (le b 8 8) (32 * le b 2 2)) = es) (hgood : fixtureError p es = none)
    (hstep : ∀ e ∈ es, stepPast p e = false) (hroom : le b 2 2 ≤ freeFixtures p) :
    fixturePacket w b set p = answer w stOk 0 0 (es.foldl (placeFixture w) p) := by
  have hcount : (le b 2 2 == 0) = false := beq_eq_false_iff_ne.2 (by omega)
  have hnone : es.any (stepPast p) = false := List.any_eq_false.2 fun e he => by simp [hstep e he]
  simp only [fixturePacket, fixtureLoad, hop, hres, hcount, Nat.not_lt.2 hmax, haddr, hzero, hrest, hread, hes, hgood,
    hnone, Nat.not_lt.2 hroom, beq_self_eq_true, bne_self_eq_false, decide_false, Bool.not_true, Bool.or_self,
    Bool.false_eq_true, if_false, if_true]

/-! ### FIXTURE_LOAD: CLEAR (R288) -/

theorem zeros_add (b : List Byte) (o n m : Nat) : zeros b o (n + m) = (zeros b o n && zeros b (o + n) m) := by
  rw [zeros, List.take_add, List.all_append, List.drop_drop, zeros, zeros]

/-- The package with the slip of some stages at 0. -/
def withoutSlips (ns : List Nat) (p : Pkg) : Pkg :=
  ns.foldl (fun q k => modStage k (fun s => { s with slip := 0 }) q) p

theorem withoutSlips_frame (ns : List Nat) (p : Pkg) :
    withoutSlips ns p = { p with pipe := (withoutSlips ns p).pipe } ∧
      (withoutSlips ns p).pipe.fixtures = p.pipe.fixtures := by
  induction ns generalizing p with
  | nil => exact ⟨rfl, rfl⟩
  | cons n ns ih => exact ih (modStage n _ p)

/-- A CLEAR of every stage takes out the unlaunched fixtures and puts the slips at 0. -/
theorem fixturePacket_of_clearAll {w : Who} {b : List Byte} {set : Settings} {p : Pkg} (hop : le b 0 1 = 1)
    (hall : le b 1 1 = 0xFF) (hzero : zeros b 2 6 = true) (hrest : zeros b 8 56 = true)
    (hstate : p.step.state = .none ∨ p.step.state = .opened ∨ p.step.state = .committed ∨ p.step.state = .aborted) :
    let q := removeFixtures (fun _ => true) p
    fixturePacket w b set p =
      answer w stOk 0 (p.pipe.fixtures.length - q.pipe.fixtures.length) (withoutSlips (List.range 8) q) := by
  have hshut : (p.step.state == .sealing || p.step.state == .sealed || p.step.state == .committing) = false := by
    rcases hstate with h | h | h | h <;> rw [h] <;> rfl
  obtain ⟨hzero2, hzero4⟩ := Bool.and_eq_true_iff.1 ((zeros_add b 2 2 4).symm.trans hzero)
  obtain ⟨hzero8, hzero16⟩ := Bool.and_eq_true_iff.1 ((zeros_add b 8 8 48).symm.trans hrest)
  simp only [fixturePacket, fixtureClear, hop, hall, hzero2, hzero4, hzero8, hzero16, hshut]
  rfl

/-- Settles O45: the equation of each packet, and what the RESETs, the entries one by one and the slips leave alone. -/
theorem stagesAndFixtureTables : Obligations.StagesAndFixtureTables := by
  unfold Obligations.StagesAndFixtureTables
  intro s q w b p
  refine ⟨fun h hfields hroom hbusy hused hruns hop hn => ?_, fun h hfields hbusy hused hruns hop => ?_, ?_,
    fun h hop hall hzero hrest hstate => ?_⟩
  · refine ⟨_, onPacketP_of_eq (f := stageConfig) h
      (stageConfig_of_configure hfields hbusy hused hruns hop hroom), ?_⟩
    obtain ⟨hwork1, hmem1⟩ := sendReset_keeps (le b 0 1) true (modStage (le b 0 1) (configuredStage b) p)
    obtain ⟨hwork2, hmem2⟩ := sendReset_keeps (le b 0 1) false
      (sendReset (le b 0 1) true (modStage (le b 0 1) (configuredStage b) p))
    have hwork := hwork1.trans hwork2
    have hself := (stageAt_of_pipe hwork.pipe (le b 0 1)).trans (stageAt_modStage_self (configuredStage b) hn)
    rw [hself]
    exact ⟨rfl, rfl, rfl, rfl, rfl, rfl,
      fun n hne => (stageAt_of_pipe hwork.pipe n).trans (stageAt_modStage_ne (configuredStage b) p hne),
      hmem2.trans hmem1, hwork.tasks, hwork.step⟩
  · exact onPacketP_of_eq (f := stageConfig) h (stageConfig_of_remove hfields hbusy hused hruns hop)
  · intro h hop hres hmin hmax hzero hrest haddr hread es hgood hstep hroom
    obtain ⟨hframe, fs, hfs, hmap, hnew⟩ := foldl_placeFixture_placed w es p
    refine ⟨_, onPacketP_of_eq (f := fixturePacket) h
      (fixturePacket_of_load hop hres hmin hmax hzero hrest haddr hread rfl hgood hstep hroom), ?_, ?_, hframe⟩
    · rw [hfs, List.map_append, hmap]
    · rw [hfs, List.drop_left]
      exact hnew
  · have hslips := withoutSlips_frame (List.range 8) (removeFixtures (fun _ => true) p)
    refine ⟨_, _, onPacketP_of_eq (f := fixturePacket) h (fixturePacket_of_clearAll hop hall hzero hrest hstate),
      fun f => ?_, by rw [hslips.2], hslips.1⟩
    rw [hslips.2]
    simp [removeFixtures]

end Sys2Proof.Machine
end

section
/-! PROOFS. The launch and the watch of fixtures (O46): a fixture whose instant has come takes its place in its stage and
starts its graph; one whose watch has ended is marked. -/

namespace Sys2Proof.Machine

/-! ### A fixture takes its place in its stage (R290 to R293) -/

/-- An entry of the table, with the launch under `r` noted when it is `f`. -/
def Fixture.note (f : Fixture) (r : Launch) (flags k : Nat) (x : Fixture) : Fixture :=
  if x.id == f.id then { x with launched := true, l := r.l, a := r.a, slip := r.slip, flags, k } else x

/-- The flags of the record of a launch (R296). -/
def Launch.flags (r : Launch) (near event : Bool) : Nat :=
  b2n r.late + 2 * b2n near + 4 * b2n r.early + 8 * b2n event + 16 * b2n r.held

theorem Launch.bit_flags (r : Launch) (near event : Bool) :
    bit (r.flags near event) 0 = r.late ∧ bit (r.flags near event) 2 = r.early ∧
      bit (r.flags near event) 4 = r.held := by
  unfold Launch.flags
  generalize r.late = late, r.early = early, r.held = held
  revert late early held near event
  decide

/-- A stage of which `f` launches. -/
def Stage.afterLaunch (f : Fixture) (r : Launch) (tail : Nat) (event : Bool) (s : Stage) : Stage :=
  { s with
    slip := r.slip, prev := some r.l, tail := some tail, launched := s.launched + 1
    slips := satAdd 0xFFFF s.slips (b2n event)
    cursor := if bit (fFlags f.entry) 1 then s.cursor else (s.cursor + 1) % 2 ^ 32 }

section
variable {f : Fixture} {n : Nat} {p : Pkg} (hstage : fStage f.entry = n)
include hstage

theorem noteLaunch_eq (r : Launch) (near event : Bool) :
    noteLaunch f r near event p = { p with pipe := { p.pipe with
      fixtures := p.pipe.fixtures.map (f.note r (r.flags near event) (stageAt p n).launched)
      stages := modAt p.pipe.stages n (Stage.afterLaunch f r (nextT p f.entry) event) } } := by
  subst hstage
  rfl

theorem stageAt_noteLaunch (hn : n < p.pipe.stages.length) (r : Launch) (near event : Bool) :
    stageAt (noteLaunch f r near event p) n = (stageAt p n).afterLaunch f r (nextT p f.entry) event := by
  rw [noteLaunch_eq hstage]
  exact getD_modAt_self _ _ _ _ hn

end

theorem noteLaunch_fixture {f : Fixture} {p : Pkg} (hf : f ∈ p.pipe.fixtures) (r : Launch) (near event : Bool) :
    ∃ x ∈ (noteLaunch f r near event p).pipe.fixtures, x.id = f.id ∧ x.launched = true ∧ x.l = r.l ∧ x.a = r.a ∧
      x.slip = r.slip ∧ x.flags = r.flags near event := by
  rw [noteLaunch_eq rfl]
  refine ⟨_, List.mem_map_of_mem hf, ?_⟩
  simp [Fixture.note]

theorem nextFixture_spec {p : Pkg} {n : Nat} {f : Fixture} (h : nextFixture p n = some f) :
    f ∈ p.pipe.fixtures ∧ fStage f.entry = n := by
  have hfound := List.find?_some h
  simp only [Bool.and_eq_true, beq_iff_eq] at hfound
  exact ⟨List.mem_of_find?_eq_some h, hfound.2⟩

/-- The log and source 320 + n of a launch that makes a slip event (R293). -/
def reportSlip (event near : Bool) (n mb slip : Nat) (p : Pkg) : Pkg :=
  if event then raise (320 + n) (logAt near 0x0501 stSlip 0xFFFF [d2 n, d2 mb, d8 (slip / 65536)] p) else p

theorem reportSlip_frame (event near : Bool) (n mb slip : Nat) (p : Pkg) :
    SameLog p (reportSlip event near n mb slip p) := by
  unfold reportSlip
  split
  · exact (logAt_frame ..).trans (raise_frame _ _).log
  · exact (SameIc.refl p).log

/-! ### Its graph starts (R291) -/

/-- When the last of the messages that a fixture needs arrived. -/
def lastArrival (ms : List Held) : Option Nat :=
  (ms.map (·.at_)).foldl (fun (m : Option Nat) x => some (max (m.getD 0) x)) none

theorem roomFor_of_tasks {p q : Pkg} (h : q.tasks = p.tasks) (g : Nat) : roomFor q g = roomFor p g := by
  rw [roomFor, liveOf, h, roomFor, liveOf]

/-- Neither the note of a launch nor its report refuses the micro-batch (R280, R291). -/
theorem notRefused_of_noteLaunch {f : Fixture} {r : Launch} {near event : Bool} {p q : Pkg} {g num : Nat}
    {ms : List Held}
    (hq : SameLog (noteLaunch f r near event p) q) (hlive : liveNumber p g num = false)
    (hepoch : ∀ m ∈ ms, m.epoch = p.reshard.epoch) :
    (liveNumber q g num || ms.any fun m => m.epoch != q.reshard.epoch) = false := by
  have htasks : q.tasks = p.tasks := hq.work.tasks
  have hreshard : q.reshard = p.reshard := hq.work.reshard
  have hlive' : liveNumber q g num = false := by rw [← hlive, liveNumber, htasks, liveNumber]
  rw [hlive', hreshard, Bool.false_or]
  exact List.any_eq_false.2 fun m hm => by simp [hepoch m hm]

/-- The fixture is next and its messages are there, its stage and its step are open, its instant has come, and its
micro-batch is free under the layout in force: it takes its place and its graph is accepted. -/
theorem fixtureLaunch_of_due {set : Settings} {p : Pkg} {n : Nat} {f : Fixture} {g : Graph} {ms : List Held}
    {r : Launch} (hnext : nextFixture p n = some f)
    (hms : neededMsgs p f.entry = some ms) (hg : graphOf p (fGraph f.entry) = some g)
    (hr : launchRule (stageAt p n) f.entry (lastArrival ms) p.step.openAt = r) (hon : (stageAt p n).on = true)
    (hresync : (stageAt p n).resync = false) (hopen : fixtureOpen p f.entry = true) (hdue : r.l ≤ p.ft.count)
    (hlive : liveNumber p g.id (fMb f.entry) = false) (hepoch : ∀ m ∈ ms, m.epoch = p.reshard.epoch) :
    ∃ near event q, SameLog (noteLaunch f r near event p) q ∧
      fixtureLaunch n set p = acceptRun set g (fMb f.entry) (.fixture n f.id) q := by
  subst hr
  have hgo : (!(stageAt p n).on || (stageAt p n).resync || !fixtureOpen p f.entry || decide (p.ft.count <
      (launchRule (stageAt p n) f.entry (lastArrival ms) p.step.openAt).l)) = false := by
    simp [hon, hresync, hopen, hdue]
  unfold fixtureLaunch
  simp only [hnext, hms, hg]
  refine ⟨_, _, reportSlip _ _ n (fMb f.entry) _ _, reportSlip_frame _ _ _ _ _ _,
    (if_neg (Bool.eq_false_iff.1 hgo)).trans (if_neg (Bool.eq_false_iff.1 ?_))⟩
  exact notRefused_of_noteLaunch (reportSlip_frame _ _ _ _ _ _) hlive hepoch

/-- The package with one instance more. -/
def withInst (i : Inst) (p : Pkg) : Pkg :=
  { p with tasks := { p.tasks with insts := p.tasks.insts ++ [i], nextIid := p.tasks.nextIid + 1 } }

/-- A graph that a fixture starts takes the fixture's messages and joins the instances that live. -/
theorem acceptRun_of_fixture (set : Settings) {p : Pkg} {g : Graph} {num n id : Nat} {x : Fixture}
    (hx : fixtureOf p id = some x) (hj1 : g.j1 = false) (hroom : roomFor p g.id = true)
    (hiid : ∀ i ∈ p.tasks.insts, i.iid ≠ p.tasks.nextIid) :
    ∃ j : Inst, (j.graph = some g.id ∧ j.num = num ∧ j.origin = .fixture n id ∧ j.step = openStep p) ∧
      acceptRun set g num (.fixture n id) p =
        withInst j (consume n (le x.entry 14 2) (le x.entry 16 4) (le x.entry 21 1) p.tasks.nextIid p) := by
  let q := consume n (le x.entry 14 2) (le x.entry 16 4) (le x.entry 21 1) p.tasks.nextIid p
  let toks := fixtureTokens n (le x.entry 21 1) g.tokens
  obtain ⟨j, ⟨hrec, -⟩, hadd⟩ := addInst_of_new set (p := q)
    (i := newInst q g num (.fixture n id) (openStep p) (openStep p).isSome toks) hiid
  refine ⟨j, by rw [hrec]; exact ⟨rfl, rfl, rfl, rfl⟩, ?_⟩
  rw [withInst, ← hadd]
  simp only [acceptRun, launchGraph, hj1, hroom, hx, Option.map_some, Option.getD_some, Bool.false_eq_true, if_false,
    if_true]
  rfl

theorem stageAt_consume {n : Nat} {p : Pkg} (hn : n < p.pipe.stages.length) (mb step flags iid : Nat) :
    ∃ msgs, stageAt (consume n mb step flags iid p) n = { stageAt p n with msgs } :=
  ⟨_, stageAt_modStage_self _ hn⟩

theorem fixtureOf_of_mem {p : Pkg} {x : Fixture} (hx : x ∈ p.pipe.fixtures) : ∃ y, fixtureOf p x.id = some y := by
  rw [fixtureOf, ← Option.isSome_iff_exists, List.find?_isSome]
  exact ⟨x, hx, beq_self_eq_true _⟩

theorem openStep_of_fixtureOpen {p : Pkg} {e : List Byte} (h : fixtureOpen p e = true) :
    openStep p = some p.step.num := by
  simp only [fixtureOpen, Bool.and_eq_true] at h
  obtain ⟨⟨hstate, -⟩, -⟩ := h
  rw [openStep, if_pos hstate]

/-- What the launch of `f` in stage `n` under `r`, which starts instance `i`, makes of `p`. -/
structure Launches (n : Nat) (f : Fixture) (r : Launch) (i : Inst) (p q : Pkg) : Prop where
  insts : q.tasks.insts = p.tasks.insts ++ [i]
  stage : ∃ event msgs, stageAt q n = { (stageAt p n).afterLaunch f r (nextT p f.entry) event with msgs }
  fixture : ∃ near event, ∃ x ∈ q.pipe.fixtures, x.id = f.id ∧ x.launched = true ∧ x.l = r.l ∧ x.a = r.a ∧
    x.slip = r.slip ∧ x.flags = r.flags near event
  mem : q.mem = p.mem
  step : q.step = p.step
  host : q.host = p.host

theorem acceptRun_launches (set : Settings) {p q : Pkg} {n num : Nat} {f : Fixture} {g : Graph} {r : Launch}
    {near event : Bool} (hq : SameLog (noteLaunch f r near event p) q) (hf : f ∈ p.pipe.fixtures)
    (hstage : fStage f.entry = n) (hn : n < p.pipe.stages.length) (hj1 : g.j1 = false) (hroom : roomFor p g.id = true)
    (hiid : ∀ i ∈ p.tasks.insts, i.iid ≠ p.tasks.nextIid) :
    ∃ i : Inst, (i.graph = some g.id ∧ i.num = num ∧ i.origin = .fixture n f.id ∧ i.step = openStep p) ∧
      Launches n f r i p (acceptRun set g num (.fixture n f.id) q) := by
  have htasks : q.tasks = p.tasks := hq.work.tasks
  have hstep : q.step = p.step := hq.work.step
  have hlen : n < q.pipe.stages.length := by
    rw [hq.work.pipe]
    exact (length_modAt ..).symm ▸ hn
  obtain ⟨x, hx, hid, hnoted⟩ := noteLaunch_fixture hf r near event
  rw [← hq.work.pipe] at hx
  obtain ⟨y, hy⟩ := fixtureOf_of_mem hx
  obtain ⟨i, hi, haccept⟩ := acceptRun_of_fixture set (num := num) (n := n) (hid ▸ hy) hj1
    ((roomFor_of_tasks htasks _).trans hroom) (htasks ▸ hiid)
  obtain ⟨msgs, hmsgs⟩ := stageAt_consume hlen (le y.entry 14 2) (le y.entry 16 4) (le y.entry 21 1) q.tasks.nextIid
  rw [stageAt_of_pipe hq.work.pipe, stageAt_noteLaunch hstage hn] at hmsgs
  rw [openStep, hstep] at hi
  rw [haccept]
  exact ⟨i, hi, by rw [withInst, ← htasks]; rfl, ⟨event, msgs, hmsgs⟩, ⟨near, event, x, hx, hid, hnoted⟩,
    by rw [hq.1]; rfl, hstep, by rw [hq.1]; rfl⟩

/-! ### A fixture is hung (R294) -/

/-- The package with the fixture `f` marked as hung. -/
def withHung (f : Fixture) (p : Pkg) : Pkg :=
  { p with pipe := { p.pipe with
    fixtures := p.pipe.fixtures.map fun x => if x.id == f.id then { x with hung := true } else x } }

theorem fixtureHung_of_watch {n : Nat} {p : Pkg} {f : Fixture}
    (hf : p.pipe.fixtures.find? (fun f => !f.launched && !f.hung && fStage f.entry == n && fixtureOpen p f.entry &&
      decide (watchEnd p f.entry ≤ p.ft.count)) = some f) :
    fixtureHung n p = log 0x0502 stHung 0xFFFF [] (failStep 0 stHung (withHung f p)) := by
  simp only [fixtureHung, hf, withHung]

theorem SameLog.sameIc_mgt {p q : Pkg} (h : SameLog p q) : SameIc { p with mgt := q.mgt } q :=
  ⟨by rw [h.1], h.2⟩

/-- Settles O46: the launch that is due notes the fixture, reports at most and starts the graph, so `Launches` says what
it leaves; a fixture whose watch has ended is marked, fails the step and is logged. -/
theorem fixturesLaunch : Obligations.FixturesLaunch := by
  unfold Obligations.FixturesLaunch
  refine ⟨?_, fun s n f hf => ?_⟩
  · intro s n f g ms hnext hms hg st a r hon hresync hopen hdue hlive hepoch hroom hn habort hheld hj1 hiid
    obtain ⟨hmem, hstage⟩ := nextFixture_spec hnext
    obtain ⟨near, event, q, hq, hlaunch⟩ := fixtureLaunch_of_due (set := s.set) (r := r) hnext hms hg rfl hon hresync
      hopen hdue hlive hepoch
    obtain ⟨i, ⟨hgraph, hnum, horigin, hopened⟩, hdone⟩ := acceptRun_launches s.set (num := fMb f.entry) hq hmem hstage
      hn hj1 hroom hiid
    rw [← hlaunch] at hdone
    have hquiet := finish_quiet s.set (p := fixtureLaunch n s.set s.p) (by rw [hdone.step, habort])
      (by rw [hdone.step, hheld, Bool.false_and])
    obtain ⟨_, _, hat⟩ := hdone.stage
    obtain ⟨near, event, x, hx, hid, hlaunched, hl, ha, hslip, hflags⟩ := hdone.fixture
    obtain ⟨hlate, hearly, hheldBit⟩ := r.bit_flags near event
    exact ⟨_, i, onP_of_eq (f := fun set p => finish set (fixtureLaunch n set p)) hquiet, hdone.insts, hgraph, hnum,
      horigin, hopened.trans (openStep_of_fixtureOpen hopen), (congrArg Stage.slip hat :), (congrArg Stage.prev hat :),
      (congrArg Stage.cursor hat :),
      ⟨x, hx, hid, hlaunched, hl, ha, hslip, hflags ▸ hlate, hflags ▸ hearly, hflags ▸ hheldBit⟩,
      hdone.mem, hdone.step, hdone.host⟩
  · have hlog := log_frame 0x0502 stHung 0xFFFF [] (failStep 0 stHung (withHung f s.p))
    refine ⟨_, onP_of_eq (f := fun _ p => fixtureHung n p) (fixtureHung_of_watch hf), ?_, ?_, ?_, ?_⟩
    · rw [log_step]
      simp [failStep, bit_setBit]
    · rw [log_step]
      rfl
    · rw [log_pipe]
      exact ⟨_, List.mem_map_of_mem (List.mem_of_find?_eq_some hf), by simp⟩
    · rw [log_pipe, log_step]
      exact hlog.sameIc_mgt

end Sys2Proof.Machine
end

section
/-! PROOFS. Collective groups and tasks (O48): what configures a group, a RETRACT that fails the open step, and a
collective task whose tensors pass. -/

namespace Sys2Proof.Machine

/-! ### Groups in the package -/

theorem groupOf_modGroup_self {g : Nat} {p : Pkg} (f : CollGroup → CollGroup) (hg : g < p.colls.groups.length) :
    groupOf (modGroup g f p) g = f (groupOf p g) := getD_modAt_self _ _ _ _ hg

theorem groupOf_of_groups {p q : Pkg} (h : q.colls.groups = p.colls.groups) (g : Nat) : groupOf q g = groupOf p g := by
  rw [groupOf, h, groupOf]

/-- Messages of collectives leave the work of the package and its memory alone. -/
theorem sendColl_keeps (g pos : Nat) (h : CollHdr) (bs : List Byte) (p : Pkg) :
    SameWork p (sendColl g pos h bs p) ∧ (sendColl g pos h bs p).mem = p.mem :=
  ⟨sendMessage_work _ _ _ p, sendMessage_mem _ _ _ p⟩

/-! ### COLL_GROUP_CONFIG (R302, R303) -/

theorem foldl_distinct_of_nodup {l acc : List Nat} (h : (acc ++ l).Nodup) :
    l.foldl (fun acc a => if acc.elem a then acc else acc ++ [a]) acc = acc ++ l := by
  induction l generalizing acc with
  | nil => simp
  | cons a l ih =>
    have hnew : acc.elem a = false := by
      simpa using fun ha => (List.nodup_append.1 h).2.2 a ha a List.mem_cons_self rfl
    rw [List.foldl_cons, hnew, if_neg Bool.false_ne_true, ih (by simpa using h), List.append_assoc,
      List.singleton_append]

theorem distinct_of_nodup {l : List Nat} (h : l.Nodup) : distinct l = l := foldl_distinct_of_nodup (acc := []) h

/-- RELEASE and RESYNC read no memory. -/
theorem collGroupConfig_of_op {w : Who} {b : List Byte} {set : Settings} {p : Pkg} (hfields : groupFieldsBad b = false)
    (hop : le b 1 1 ≠ 0) : collGroupConfig w b set p = applyGroup w b [] p := by
  simp only [collGroupConfig, hfields, bne_iff_ne.2 hop, Bool.false_eq_true, if_false, if_true]

section
variable {w : Who} {b : List Byte} {set : Settings} {p : Pkg} (hbusy : stepBusy p = false)
  (hidle : ∀ c ∈ p.colls.running, c.group ≠ le b 0 1)
include hbusy hidle

/-- An operation on a group that runs no collective is done; a RESYNC needs a configured group and a new generation. -/
theorem applyGroup_of_idle (members : List Nat)
    (hresync : le b 1 1 = 2 → (groupOf p (le b 0 1)).on = true ∧ (groupOf p (le b 0 1)).gen ≠ le b 16 2) :
    applyGroup w b members p = answer w stOk 0 0 (modGroup (le b 0 1) (fun c =>
      if le b 1 1 = 0 then newGroup b members
      else if le b 1 1 = 1 then
        { c with on := false, resync := false, dual := false, pos := 0, n := 0, members := [], early := [] }
      else { c with gen := le b 16 2, resync := false, early := [] }) p) := by
  have hrun : p.colls.running.any (fun c => c.group == le b 0 1) = false :=
    List.any_eq_false.2 fun c hc => by simpa using hidle c hc
  have hon : (le b 1 1 == 2 && !(groupOf p (le b 0 1)).on) = false := by
    simpa using fun h => (hresync h).1
  have hgen : (le b 1 1 == 2 && (groupOf p (le b 0 1)).gen == le b 16 2) = false := by
    simpa using fun h => (hresync h).2
  simp only [applyGroup, hbusy, hrun, hon, hgen, Bool.or_self, Bool.false_eq_true, if_false, beq_iff_eq]

variable (hfields : groupFieldsBad b = false)
include hfields

theorem collGroupConfig_of_configure (hop : le b 1 1 = 0)
    (hread : readError set p (le b 8 8) (4 * le b 2 2) = none) (haddr : p.links.addr ≠ 0xFFFFFFFF) {members : List Nat}
    (hmembers : ((List.range (le b 2 2)).map fun k => readLe set p (le b 8 8 + 4 * k) 4) = members)
    (hnodup : members.Nodup) (hself : members[le b 4 2]? = some p.links.addr) :
    collGroupConfig w b set p = answer w stOk 0 0 (modGroup (le b 0 1) (fun _ => newGroup b members) p) := by
  have hlen : (distinct members).length = le b 2 2 := by
    rw [distinct_of_nodup hnodup, ← hmembers, List.length_map, List.length_range]
  have hpos : members.getD (le b 4 2) 0 = p.links.addr := by rw [List.getD_eq_getElem?_getD, hself, Option.getD_some]
  have happly := applyGroup_of_idle (w := w) hbusy hidle members (fun h => by omega)
  simp only [hop, if_true] at happly
  simp only [collGroupConfig, hfields, hop, hread, hmembers, hlen, hpos, happly, bne_self_eq_false,
    beq_eq_false_iff_ne.2 haddr, Bool.false_eq_true, if_false]

end

/-! ### COLL_START (R309, R355) -/

theorem collStart_of_ok {w : Who} {b : List Byte} {set : Settings} {p : Pkg}
    (hok : commandBad (fun t => 0x40 ≤ t && t ≤ 0x43) b = false) (hshut : stepShut p = false)
    (hactive : p.reshard.active = false) : collStart w b set p = startCommand set w 0x0602 b [.whole] p := by
  simp only [collStart, hok, hshut, hactive, Bool.or_self, Bool.false_eq_true, if_false]

/-! ### RETRACT (R333, R335) -/

theorem sendRetract_keeps (g rid type : Nat) (p : Pkg) :
    SameWork (modGroup g (fun c => { c with sent := satAdd 0xFFFF c.sent 1 }) p) (sendRetract g rid type p) ∧
      (sendRetract g rid type p).mem = p.mem := by
  unfold sendRetract
  dsimp only
  split
  · exact ⟨rfl, rfl⟩
  · exact sendColl_keeps _ _ _ _ _

/-- The package with the collective retracted, as it stands already when `gone` (R333). -/
def withRetracted (g rid type : Nat) (gone : Bool) (p : Pkg) : Pkg :=
  if gone then p else sendRetract g rid type (markRetracted g rid p)

theorem withRetracted_keeps (g rid type : Nat) (gone : Bool) (p : Pkg) :
    (withRetracted g rid type gone p).step = p.step ∧ (withRetracted g rid type gone p).mem = p.mem ∧
      (withRetracted g rid type gone p).tasks = p.tasks := by
  obtain ⟨hwork, hmem⟩ := sendRetract_keeps g rid type (markRetracted g rid p)
  unfold withRetracted
  split
  · exact ⟨rfl, rfl, rfl⟩
  · exact ⟨hwork.step, hmem, hwork.tasks⟩

theorem groupOf_withRetracted {g rid type : Nat} {p : Pkg} (hg : g < p.colls.groups.length) :
    (groupOf (withRetracted g rid type false p) g).sent = min 0xFFFF ((groupOf p g).sent + 1) := by
  have hcolls := (sendRetract_keeps g rid type (markRetracted g rid p)).1.colls
  have hgroup : groupOf (withRetracted g rid type false p) g = _ := groupOf_of_groups (congrArg Colls.groups hcolls) g
  rw [hgroup, groupOf_modGroup_self _ (p := markRetracted g rid p) hg]
  rfl

theorem retractPacket_of_opened {w : Who} {b : List Byte} {set : Settings} {p : Pkg} {type : Nat} {gone : Bool}
    (hzero : zeros b 1 3 = true) (hrest : zeros b 16 48 = true) (hg : le b 0 1 ≤ 3)
    (hsent : sentColl p (le b 0 1) (le b 4 4) = some (type, gone)) (hnum : le b 8 8 = p.step.num)
    (hstate : p.step.state = .opened) (hdue : p.step.abortDue = false) :
    retractPacket w b set p = resumeJ1 set (answer w stOk 0 0 (failStep 4 stRetracted
      (withRetracted (le b 0 1) (le b 4 4) type gone p))) := by
  have hstep := (withRetracted_keeps (le b 0 1) (le b 4 4) type gone p).1
  have hpacket : retractPacket w b set p = finish set (answer w stOk 0 0 (failStep 4 stRetracted
      (withRetracted (le b 0 1) (le b 4 4) type gone p))) := by
    have hopen : (failStep 4 stRetracted (withRetracted (le b 0 1) (le b 4 4) type gone p)).step.state = .opened := by
      rw [failStep, modStep_step, hstep, hstate]
    unfold withRetracted at hopen ⊢
    simp only [retractPacket, hzero, hrest, hsent, hnum, hopen, Nat.not_lt.2 hg, decide_false, Bool.not_true,
      Bool.or_self, bne_self_eq_false, Bool.false_eq_true, if_false, beq_iff_eq, reduceCtorEq]
  rw [hpacket]
  refine finish_quiet set ?_ ?_ <;> rw [answer_step, failStep, modStep_step, hstep, hstate]
  · rw [hdue]
    rfl
  · exact Bool.and_false _

/-! ### Collective tasks (R306, R309, R324) -/

theorem startColl_of_ok {set : Settings} {p : Pkg} {i : Inst} {k u ty : Nat} {tn : List Tensor}
    {holds : List (Nat × Nat)} {gone : Bool} {b : List Byte} (hb : tBody (i.desc k) = b)
    (htensors : collTensors set p i (i.desc k) = .ok (tn, holds, gone)) (htype : tType (i.desc k) = ty)
    (hfit : collTensorsBad (groupOf p (cGroup b)) ty b tn gone = false) (hon : (groupOf p (cGroup b)).on = true)
    (hresync : (groupOf p (cGroup b)).resync = false) (hactive : p.reshard.active = false)
    (hthin : cThin b = 0 ∨ i.inStep = true) (hread : collReadError set p b tn gone = none) {x : Coll × List WOp}
    (hx : contribute set p
      { group := cGroup b, rid := cRid b, type := ty, iid := i.iid, task := k, body := b, tn, retired := gone
        step := if i.inStep then i.step else none
        version := if holds ≠ [] ∨ gone = true then versionGiven p (i.desc k) else 0
        e := (tn.getD (cDst b) noTensor).size } = x)
    (hphase : cThin b = 2 → intervalOn x.1 = true) :
    startColl k i u set p =
      let q := startRun set i k
        { iid := i.iid, task := k, unit := u, j1 := i.j1, began := p.ft.count, tensors := tn, holds, waits := true } p
      runEngine set (collWrite set x.1 x.2
        { q with colls := { q.colls with running := q.colls.running ++ [x.1] } }).1 := by
  have hstate : (!(groupOf p (cGroup b)).on || (groupOf p (cGroup b)).resync || (cThin b != 0 && !i.inStep) ||
      p.reshard.active) = false := by
    rcases hthin with h | h <;> simp [hon, hresync, hactive, h]
  have hwindow : (!holds.isEmpty || gone) = decide (holds ≠ [] ∨ gone = true) := by
    cases holds <;> simp
  have hskip : (cThin b == 2 && !intervalOn x.1) = false := by simpa using hphase
  simp only [startColl, hb, htensors, htype, hfit, hstate, hread, hwindow, decide_eq_true_eq, hx, hskip,
    Bool.false_eq_true, if_false]

/-- Settles O48: the equation of each packet and of the launch; a RETRACT in an open step leaves the count of its group
and the failure of the step. -/
theorem collectivesStart : Obligations.CollectivesStart := by
  unfold Obligations.CollectivesStart
  refine ⟨fun s q w b p => ⟨fun h hfields hbusy hidle => ⟨?_, fun hop => ?_, fun hop hon hgen => ?_⟩,
    fun h hok hshut hactive => onPacketP_of_eq (f := collStart) h (collStart_of_ok hok hshut hactive),
    fun type gone h hzero hrest hg hlen hsent hnum hstate hdue => ?_⟩, ?_⟩
  · intro hop hread haddr members hnodup hself
    refine onPacketP_of_eq (f := collGroupConfig) h
      ((collGroupConfig_of_configure hbusy hidle hfields hop hread haddr rfl hnodup hself).trans ?_)
    simp only [newGroup, beq_iff_eq, members]
  · have happly := applyGroup_of_idle (w := w) hbusy hidle [] (fun h => by omega)
    simp only [hop, Nat.one_ne_zero, if_false, if_true] at happly
    exact onPacketP_of_eq (f := collGroupConfig) h
      ((collGroupConfig_of_op hfields (by omega)).trans happly)
  · have happly := applyGroup_of_idle (w := w) hbusy hidle [] fun _ => ⟨hon, hgen⟩
    simp only [hop, Nat.reduceEqDiff, if_false] at happly
    exact onPacketP_of_eq (f := collGroupConfig) h
      ((collGroupConfig_of_op hfields (by omega)).trans happly)
  · obtain ⟨hstep, hmem, htasks⟩ := withRetracted_keeps (le b 0 1) (le b 4 4) type gone p
    refine ⟨_, onPacketP_of_eq (f := retractPacket) h
      (retractPacket_of_opened hzero hrest hg hsent hnum hstate hdue), ?_⟩
    refine ⟨?_, ?_, ?_, ?_, ?_, fun hgone => ?_, fun hgone => ?_⟩
    · simp [resumeJ1, failStep, bit_setBit]
    · simp [resumeJ1, failStep, hstep, hstate]
    · simp [resumeJ1, failStep, hstep]
    · simp [resumeJ1, failStep, hmem]
    · simp [resumeJ1, failStep, htasks]
    · subst hgone
      have hcolls := answer_colls w stOk 0 0 (failStep 4 stRetracted (withRetracted (le b 0 1) (le b 4 4) type false p))
      exact (congrArg CollGroup.sent (groupOf_of_groups (congrArg Colls.groups hcolls) _)).trans
        (groupOf_withRetracted hlen)
    · subst hgone
      simp [resumeJ1, failStep, withRetracted]
  · intro s iid k u ty i c tn holds gone hc hlaunch d b g htensors hfit htype hon hresync hactive hthin hread c0 x run q
      q' hphase
    have hstart := startColl_of_ok (u := u) rfl htensors htype hfit hon hresync hactive hthin hread rfl hphase
    rcases hc with ⟨rfl, rfl⟩ | ⟨rfl, rfl⟩ | ⟨rfl, rfl⟩ | ⟨rfl, rfl⟩ <;>
      exact onP_launchAs hlaunch hstart

end Sys2Proof.Machine
end

section
/-! PROOFS. Messages of collectives (O49): a digest that fails, the way of a message to its group, a piece at its
collective, and a RETRACT that arrives. -/

namespace Sys2Proof.Machine

/-! ### A failed digest (R327, R328) -/

/-- A check that fails in a step that is not SEALING begins no abort. -/
theorem finish_failStep_quiet (set : Settings) {p : Pkg} (hseal : p.step.state ≠ .sealing)
    (hdue : p.step.abortDue = false) (hheld : p.step.commitHeld = false) (b status : Nat) :
    finish set (failStep b status p) = resumeJ1 set (failStep b status p) :=
  finish_quiet set (by simp [failStep, hdue, hseal]) (by simp [failStep, hheld])

/-- A failed digest is counted, in its group and as a detection, and raised and logged; then it may fail the step. -/
theorem badDigest_eq_failLive (h : CollHdr) (p : Pkg) :
    ∃ q, SameLog (detect 3 (modGroup h.group (fun g => { g with digest := satAdd 0xFF g.digest 1 }) p)) q ∧
      badDigest h p = failLive 2 stDigest q := by
  have hlog := log_frame 0x0601 stDigest 0xFFFF []
    (detect 3 (modGroup h.group (fun g => { g with digest := satAdd 0xFF g.digest 1 }) p))
  refine ⟨_, ?_, rfl⟩
  split
  · exact hlog.trans (raise_frame _ _).log
  · exact hlog

/-- What a digest that fails leaves, unless the step aborts over it. -/
theorem finish_badDigest {set : Settings} {h : CollHdr} {p : Pkg} (hg : h.group < p.colls.groups.length)
    (hseal : p.step.state ≠ .sealing) (hdue : p.step.abortDue = false) (hheld : p.step.commitHeld = false) :
    let t := finish set (badDigest h p)
    (groupOf t h.group).digest = min 0xFF ((groupOf p h.group).digest + 1) ∧
      (p.step.state = .opened → bit t.step.failMask 2 = true) ∧
      t.integ.detect = modAt p.integ.detect 3 (fun v => min 0xFFFFFFFF (v + 1)) ∧ t.mem = p.mem ∧
      t.colls.running = p.colls.running := by
  obtain ⟨q, hlog, hbad⟩ := badDigest_eq_failLive h p
  have hstep : q.step = p.step := hlog.work.step
  have hcolls := hlog.work.colls
  have hinteg : q.integ = _ := (congrArg Pkg.integ hlog.1).trans rfl
  have hmem : q.mem = p.mem := (congrArg Pkg.mem hlog.1).trans rfl
  have hrunning : q.colls.running = p.colls.running := (congrArg Colls.running hcolls).trans rfl
  have hgroup : (groupOf q h.group).digest = min 0xFF ((groupOf p h.group).digest + 1) := by
    rw [groupOf_of_groups (congrArg Colls.groups hcolls)]
    exact congrArg CollGroup.digest (groupOf_modGroup_self _ hg)
  rw [hbad]
  by_cases hlive : stepLive q = true
  · rw [failLive, if_pos hlive, finish_failStep_quiet set (hstep ▸ hseal) (hstep ▸ hdue) (hstep ▸ hheld)]
    exact ⟨hgroup, fun _ => by simp [resumeJ1, failStep, bit_setBit], congrArg Integ.detect hinteg, hmem, hrunning⟩
  · rw [failLive, if_neg hlive, finish_quiet set (hstep ▸ hdue) (by rw [hstep, hheld, Bool.false_and])]
    refine ⟨hgroup, fun hopen => absurd ?_ hlive, congrArg Integ.detect hinteg, hmem, hrunning⟩
    rw [stepLive, hstep, hopen]
    rfl

theorem collMessage_of_badDigest {h : CollHdr} {bs : List Byte} {d : Nat} (hd : d ≠ collDigest h bs) (kind : Nat)
    (errs : List MemErr) (set : Settings) (p : Pkg) :
    collMessage kind h bs d errs set p = finish set (badDigest h p) := by
  rw [collMessage, if_pos (bne_iff_ne.2 hd)]

theorem collMessage_of_digest {h : CollHdr} {kind : Nat} (hkind : h.kind = kind) (bs : List Byte) (errs : List MemErr)
    (set : Settings) (p : Pkg) :
    collMessage kind h bs (collDigest h bs) errs set p =
      runEngine set (routeMessage set h bs (pieceErrors set h errs p)) := by
  simp only [collMessage, hkind, bne_self_eq_false, Bool.false_eq_true, if_false]

/-! ### Errors of the accesses for a piece (R377, R378) -/

theorem pieceErrors_of_corrected {errs : List MemErr} (h : ∀ e ∈ errs, e.fatal = false) (set : Settings) (x : CollHdr)
    (p : Pkg) : pieceErrors set x errs p = meetErrors errs p := by
  have hnone : errs.any (·.fatal) = false := List.any_eq_false.2 fun e he => by simp [h e he]
  simp only [pieceErrors, hnone, Bool.false_eq_true, if_false]
  split <;> rfl

theorem pieceErrors_of_fatal {errs : List MemErr} (h : ∃ e ∈ errs, e.fatal = true) {set : Settings} {m : CollHdr}
    {p : Pkg} {x : Coll} (hx : (meetErrors errs p).colls.running.find? (forColl m) = some x) :
    pieceErrors set m errs p = endColl set x stMem none (meetErrors errs p) := by
  simp only [pieceErrors, hx, List.any_eq_true.2 h, if_true]

/-! ### The way to the group (R328, R337) -/

section
variable {set : Settings} {h : CollHdr} {bs : List Byte} {p : Pkg}

/-- The message waits in the receive buffers of its group. -/
def stallMessage (h : CollHdr) (bs : List Byte) (p : Pkg) : Pkg :=
  modGroup h.group (fun g => { g with stalled := g.stalled ++ [⟨h.rid, h, bs⟩] }) p

/-- The message is dropped and counted. -/
def discardMessage (h : CollHdr) (p : Pkg) : Pkg :=
  modGroup h.group (fun g => { g with discard := min 0xFFFF (g.discard + 1) }) p

/-- A message goes where it is placed, and waits when it finds no room. -/
theorem routeMessage_of_placed (hstall : (groupOf p h.group).stalled = []) :
    routeMessage set h bs p = (placeMessage set h bs p).getD (stallMessage h bs p) := by
  simp only [routeMessage, hstall, bne_self_eq_false, Bool.false_eq_true, if_false]
  rfl

/-- Behind one that waits it waits too. -/
theorem routeMessage_of_stalled (hstall : (groupOf p h.group).stalled ≠ []) :
    routeMessage set h bs p = stallMessage h bs p := by
  simp only [routeMessage, bne_iff_ne.2 hstall, if_true]
  rfl

theorem placeMessage_of_wrongGroup
    (hwrong : (groupOf p h.group).on = false ∨ (groupOf p h.group).resync = true ∨ h.gen ≠ (groupOf p h.group).gen) :
    placeMessage set h bs p = some (discardMessage h p) := by
  have hcond : (!(groupOf p h.group).on || (groupOf p h.group).resync || h.gen != (groupOf p h.group).gen) = true := by
    rcases hwrong with h | h | h <;> simp [h]
  simp only [placeMessage, hcond, if_true]
  rfl

variable (hon : (groupOf p h.group).on = true) (hresync : (groupOf p h.group).resync = false)
  (hgen : h.gen = (groupOf p h.group).gen)
include hon hresync hgen

/-- A message of a step that is over, or of a collective that is, is dropped. -/
theorem placeMessage_of_past
    (hpast : (bit h.flags 6 = false ∧ (h.step < p.step.num ∨
        (h.step = p.step.num ∧ (p.step.state = .committed ∨ p.step.state = .aborted)))) ∨
      (h.rid, if bit h.flags 6 then none else some h.step) ∈ (groupOf p h.group).done) :
    placeMessage set h bs p = some (discardMessage h p) := by
  have hcond : ((!bit h.flags 6 && (h.step < p.step.num ||
      (h.step == p.step.num && (p.step.state == .committed || p.step.state == .aborted)))) ||
      (groupOf p h.group).done.elem (h.rid, if bit h.flags 6 then none else some h.step)) = true := by
    simpa only [Bool.or_eq_true, Bool.and_eq_true, Bool.not_eq_true', decide_eq_true_eq, beq_iff_eq,
      List.elem_eq_mem] using hpast
  simp only [placeMessage, hon, hresync, hgen, hcond, bne_self_eq_false, Bool.not_true, Bool.or_self,
    Bool.false_eq_true, if_false, if_true]
  rfl

variable (hlive : bit h.flags 6 = true ∨ p.step.num < h.step ∨
    (p.step.num = h.step ∧ p.step.state ≠ .committed ∧ p.step.state ≠ .aborted))
  (hdone : (h.rid, if bit h.flags 6 then none else some h.step) ∉ (groupOf p h.group).done)
include hlive hdone

/-- A message that is not dropped reaches its collective, or waits for it, where there is room. -/
theorem placeMessage_of_live :
    placeMessage set h bs p = (p.colls.running.find? (forColl h)).elim
      (if earlyUsed (groupOf p h.group) + 64 + bs.length ≤ 2 ^ 20 then
        some (modGroup h.group (fun g => { g with early := g.early ++ [⟨h.rid, h, bs⟩] }) p) else none)
      (fun c => if hasRoom set (groupOf p h.group) c h bs then some (takeMessage set h bs c p) else none) := by
  have hpast : (!bit h.flags 6 && (h.step < p.step.num ||
      (h.step == p.step.num && (p.step.state == .committed || p.step.state == .aborted)))) = false := by
    rcases hlive with h | h | ⟨h, h1, h2⟩
    · simp [h]
    · simp [Nat.not_lt.2 (Nat.le_of_lt h), Nat.ne_of_gt h]
    · simp [h, h1, h2]
  have hover : (groupOf p h.group).done.elem (h.rid, if bit h.flags 6 then none else some h.step) = false := by
    simpa only [List.elem_eq_mem, decide_eq_false_iff_not] using hdone
  simp only [placeMessage, hon, hresync, hgen, hpast, hover, bne_self_eq_false, Bool.not_true, Bool.or_self,
    Bool.false_eq_true, if_false]
  cases p.colls.running.find? (forColl h) <;> rfl

theorem placeMessage_of_running {x : Coll} (hx : p.colls.running.find? (forColl h) = some x) :
    placeMessage set h bs p =
      if hasRoom set (groupOf p h.group) x h bs then some (takeMessage set h bs x p) else none := by
  rw [placeMessage_of_live hon hresync hgen hlive hdone, hx, Option.elim_some]

theorem placeMessage_of_early (hx : p.colls.running.find? (forColl h) = none) :
    placeMessage set h bs p =
      if earlyUsed (groupOf p h.group) + 64 + bs.length ≤ 2 ^ 20 then
        some (modGroup h.group (fun g => { g with early := g.early ++ [⟨h.rid, h, bs⟩] }) p)
      else none := by
  rw [placeMessage_of_live hon hresync hgen hlive hdone, hx, Option.elim_none]

end

/-! ### A piece at its collective (R316, R328) -/

section
variable {set : Settings} {h : CollHdr} {bs : List Byte} {x : Coll} {p : Pkg} (hepoch : h.epoch = p.reshard.epoch)
  (hversion : h.version = x.version)
include hepoch hversion

/-- A DATA piece of the phase that it names, already taken there, changes nothing. -/
theorem takeMessage_of_taken (hkind : h.kind = 0) (hsrc : x.type = 0x43 → h.srcPos = cSrcPos x.body)
    (hgathered : bit h.flags 3 = true ∨ x.type = 0x43 → (⟨bit h.flags 5, h.chunk, h.piece⟩ : PieceKey) ∈ x.gathered)
    (hreduced : bit h.flags 3 = false → x.type ≠ 0x43 →
      (⟨bit h.flags 5, h.chunk, h.piece⟩ : PieceKey) ∈ x.reduced) : takeMessage set h bs x p = p := by
  have hpos : (x.type == 0x43 && h.srcPos != cSrcPos x.body) = false := by simpa using hsrc
  simp only [takeMessage, hepoch, hversion, hkind, hpos, bne_self_eq_false, Bool.or_self, Bool.false_eq_true, if_false,
    Nat.reduceBEq]
  by_cases hperm : x.type = 0x43
  · simp [hperm, hgathered (.inr hperm)]
  · by_cases hgather : bit h.flags 3 = true
    · simp [hperm, hgather, hgathered (.inl hgather)]
    · simp [hperm, hgather, hreduced (by simpa using hgather) hperm]

/-- A permute refuses every position but SRC_POS. -/
theorem takeMessage_of_otherSource (hkind : h.kind ≠ 2) (hperm : x.type = 0x43) (hsrc : h.srcPos ≠ cSrcPos x.body) :
    takeMessage set h bs x p = refusePiece x p := by
  simp only [takeMessage, hepoch, hversion, hperm, bne_self_eq_false, beq_eq_false_iff_ne.2 hkind, bne_iff_ne.2 hsrc,
    beq_self_eq_true, Bool.or_self, Bool.and_self, Bool.false_eq_true, if_false, if_true]

end

/-! ### A RETRACT arrives (R333, R334) -/

/-- A RETRACT of the group's generation is counted and goes on to the successor, unless that one sent it first. -/
theorem retractMessage_of_current {set : Settings} {h : CollHdr} {p : Pkg} (hkind : h.kind = 3)
    (hon : (groupOf p h.group).on = true) (hresync : (groupOf p h.group).resync = false)
    (hgen : h.gen = (groupOf p h.group).gen) :
    ∃ q, SameWork (modGroup h.group (fun g => { g with recv := satAdd 0xFFFF g.recv 1 }) p) q ∧ q.mem = p.mem ∧
      (((groupOf p h.group).pos + 1) % (groupOf p h.group).n = h.srcPos → q.links = p.links) ∧
      retractMessage h (collDigest h []) set p = finish set (takeRetract h q) := by
  let r := raise (376 + h.group) (modGroup h.group (fun g => { g with recv := satAdd 0xFFFF g.recv 1 }) p)
  have hraise : SameWork _ r := (raise_frame (376 + h.group) _).work
  let next := ((groupOf p h.group).pos + 1) % (groupOf p h.group).n
  obtain ⟨hsend, hmem⟩ := sendColl_keeps h.group next h [] r
  refine ⟨if next == h.srcPos then r else sendColl h.group next h [] r, ?_, ?_, fun hnext => ?_, ?_⟩
  · split
    · exact hraise
    · exact hraise.trans hsend
  · have hr : r.mem = p.mem := raise_mem _ _
    split
    · exact hr
    · exact hmem.trans hr
  · rw [if_pos (beq_iff_eq.2 hnext)]
    exact raise_links _ _
  · simp only [retractMessage, hkind, hon, hresync, hgen, bne_self_eq_false, Bool.not_true, Bool.or_self,
      Bool.false_eq_true, if_false]
    rfl

theorem takeRetract_of_opened {h : CollHdr} {p : Pkg} (hnum : h.step = p.step.num) (hstate : p.step.state = .opened) :
    takeRetract h p = failStep 4 stRetracted p := by
  simp [takeRetract, hnum, hstate, failStep]

theorem takeRetract_of_committed {h : CollHdr} {p : Pkg} (hnum : h.step = p.step.num)
    (hstate : p.step.state = .committed) :
    takeRetract h p = log 0x0602 stRetracted 0xFFFF [] (modStep (fun s => { s with late := true }) p) := by
  simp [takeRetract, hnum, hstate]

/-- What a RETRACT of the current step does: it fails the open one and marks the committed one as late. -/
theorem finish_takeRetract {set : Settings} {h : CollHdr} {p : Pkg} (hnum : h.step = p.step.num)
    (hdue : p.step.abortDue = false) (hheld : p.step.commitHeld = false)
    (hstate : p.step.state = .opened ∨ p.step.state = .committed) :
    let t := finish set (takeRetract h p)
    t.colls = p.colls ∧ t.mem = p.mem ∧ t.links = p.links ∧
      (p.step.state = .opened → bit t.step.failMask 4 = true) ∧
      (p.step.state = .committed → t.step.late = true ∧ t.step.failMask = p.step.failMask) := by
  rcases hstate with hopen | hcommit
  · rw [takeRetract_of_opened hnum hopen, finish_failStep_quiet set (by simp [hopen]) hdue hheld]
    exact ⟨rfl, rfl, rfl, fun _ => by simp [resumeJ1, failStep, bit_setBit], by simp [hopen]⟩
  · rw [takeRetract_of_committed hnum hcommit, finish_quiet set (by simp [hdue]) (by simp [hheld])]
    exact ⟨log_colls .., log_mem .., log_links .., by simp [hcommit], fun _ => by simp [resumeJ1]⟩

/-- The commands of DATA, PREPASS and VERDICT messages run one meaning, each for its KIND. -/
theorem exec_collMessage {h : CollHdr} {bs : List Byte} {d : Nat} {errs : List MemErr} {c : Instr}
    (hc : (c = .collDataReceive h bs d errs ∧ h.kind = 0) ∨ (c = .collPrepassReceive h bs d ∧ h.kind = 1 ∧ errs = []) ∨
      (c = .collVerdictReceive h d ∧ h.kind = 2 ∧ bs = [] ∧ errs = [])) (s : State) :
    exec c s = .next { s with p := collMessage h.kind h bs d errs s.set s.p } := by
  rcases hc with ⟨rfl, hkind⟩ | ⟨rfl, hkind, rfl⟩ | ⟨rfl, hkind, rfl, rfl⟩ <;> (rw [hkind]; rfl)

/-- Settles O49: a failed digest by what `finish_badDigest` leaves, the way of a message by where it is placed, a piece
by the equations of `takeMessage`, and a RETRACT by what it does to the step. -/
theorem collectiveMessages : Obligations.CollectiveMessages := by
  unfold Obligations.CollectiveMessages
  refine ⟨fun s h bs d errs c hc => ⟨fun hd hg hseal hdue hheld => ?_, fun hd => ?_,
      fun herrs => pieceErrors_of_corrected herrs s.set h s.p, fun x hfatal hx => pieceErrors_of_fatal hfatal hx⟩,
    fun set h bs p => ⟨routeMessage_of_stalled, fun hstall hwrong => ?_, fun hstall hon hresync hgen =>
      ⟨fun hpast => ?_, fun hlive hdone => ⟨fun x hx => ?_, fun hx => ?_⟩⟩⟩,
    fun set h bs x p hepoch hversion => ⟨takeMessage_of_taken hepoch hversion,
      takeMessage_of_otherSource hepoch hversion⟩,
    fun s h hkind hon hresync hgen hg hnum hdue hheld hstate => ?_⟩
  · refine ⟨_, exec_collMessage hc s, ?_⟩
    rw [collMessage_of_badDigest hd]
    exact finish_badDigest hg hseal hdue hheld
  · rw [exec_collMessage hc s, hd, collMessage_of_digest rfl]
  · rw [routeMessage_of_placed hstall, placeMessage_of_wrongGroup hwrong]
    rfl
  · rw [routeMessage_of_placed hstall, placeMessage_of_past hon hresync hgen hpast]
    rfl
  · have hplace := placeMessage_of_running (set := set) (bs := bs) hon hresync hgen hlive hdone hx
    constructor <;> intro hroom
    · rw [routeMessage_of_placed hstall, hplace, if_pos hroom, Option.getD_some]
    · rw [routeMessage_of_placed hstall, hplace, hroom]
      rfl
  · have hplace := placeMessage_of_early (set := set) (bs := bs) hon hresync hgen hlive hdone hx
    constructor <;> intro hroom
    · rw [routeMessage_of_placed hstall, hplace, if_pos hroom, Option.getD_some]
    · rw [routeMessage_of_placed hstall, hplace, if_neg (Nat.not_le.2 hroom)]
      rfl
  · obtain ⟨q, hwork, hmem, hlinks, hretract⟩ := retractMessage_of_current (set := s.set) hkind hon hresync hgen
    have hstep : q.step = s.p.step := hwork.step
    obtain ⟨hcolls, hmem', hlinks', hopened, hcommitted⟩ := finish_takeRetract (set := s.set) (hstep ▸ hnum)
      (hstep ▸ hdue) (hstep ▸ hheld) (hstep ▸ hstate)
    rw [hstep] at hopened hcommitted
    refine ⟨_, onP_of_eq (f := retractMessage h (collDigest h [])) hretract, ?_, hmem'.trans hmem, hopened, hcommitted,
      fun hnext => hlinks'.trans (hlinks hnext)⟩
    rw [groupOf_of_groups (congrArg Colls.groups (hcolls.trans hwork.colls))]
    exact congrArg CollGroup.recv (groupOf_modGroup_self _ hg)

end Sys2Proof.Machine
end

section
/-! PROOFS. RESHARD and its messages (O50): what a step boundary does with the rounds that wait, a round with nothing to
move, what a CANCEL leaves, and a piece and an acknowledgement of a round that goes on. -/

namespace Sys2Proof.Machine

/-! ### Held rounds at a step boundary (R350) -/

section
variable {set : Settings} {p : Pkg}

theorem startRounds_of_noneHeld (hheld : p.reshard.held = []) : startRounds set p = p := by
  rw [startRounds, hheld, List.foldl_nil]

/-- While a round runs no other one starts. -/
theorem startRounds_of_running {r : Round} (hround : p.reshard.round = some r) : startRounds set p = p :=
  List.foldl_fixed' (fun _ => by rw [hround]; rfl) _

theorem startRounds_of_one {x : HeldRound} (hheld : p.reshard.held = [x]) (hround : p.reshard.round = none)
    (hidle : p.colls.running = []) :
    startRounds set p = startRound set x (modReshard (fun r => { r with held := r.held.drop 1 }) p) := by
  simp only [startRounds, hheld, List.foldl_cons, List.foldl_nil, hround, hidle, Option.isSome_none, List.isEmpty_nil,
    Bool.not_true, Bool.or_self, Bool.false_eq_true, if_false]

/-- In a step that holds the boundary off nothing that waits takes effect (R31). -/
theorem atBoundary_of_busy (hbusy : stepBusy p = true) : atBoundary set p = p := if_pos hbusy

/-- Where no configuration and no STEP_OPEN waits, a boundary is the start of the held rounds. -/
theorem atBoundary_of_rounds (hwaits : p.upd.waits = []) (hopens : (startRounds set p).step.opens = []) :
    atBoundary set p = if stepBusy p then p else startRounds set p := by
  have hupd : { p.upd with waits := [] } = p.upd := by rw [← hwaits]
  have hstep : { (startRounds set p).step with opens := [] } = (startRounds set p).step := by rw [← hopens]
  simp only [atBoundary, hwaits, hupd, retryOpens, hopens, modStep, hstep, List.foldl_nil]

/-- Where no held round starts either, a boundary changes nothing, whether it is one or not. -/
theorem atBoundary_of_noStart (hwaits : p.upd.waits = []) (hopens : p.step.opens = [])
    (hrounds : startRounds set p = p) : atBoundary set p = p := by
  rw [atBoundary_of_rounds hwaits (by rw [hrounds, hopens]), hrounds, ite_self]

end

/-! ### A ROUND that passes its checks (R350) -/

/-- The package with one more round held. -/
def withRound (x : HeldRound) (p : Pkg) : Pkg := modReshard (fun r => { r with held := r.held ++ [x] }) p

/-- The moves and the table that the checks of a ROUND read. -/
def movesRead (set : Settings) (p : Pkg) (b : List Byte) : List (List Byte) :=
  chunksOf 64 (rMoves b) (readMem set p (rMoveAt b) (64 * rMoves b))

def tableRead (set : Settings) (p : Pkg) (b : List Byte) : List (List Byte) :=
  if p.reshard.active then [] else chunksOf 64 (rCount b) (readMem set p (rTable b) (64 * rCount b))

section
variable {set : Settings} {w : Who} {b : List Byte} {p : Pkg}

theorem reshardCommand_of_round (hfields : reshardFieldsBad p b = false) (hop : rOp b = 0) :
    reshardCommand w b set p = roundCommand w b set p := by
  simp only [reshardCommand, hfields, hop, Nat.reduceBEq, Bool.false_eq_true, if_false]

theorem roundCommand_of_ok (hread : readError set p (rMoveAt b) (64 * rMoves b) = none)
    (htable : p.reshard.active = false → readError set p (rTable b) (64 * rCount b) = none)
    (hgood : roundBad set p (tableOf p (tableRead set p b)) (movesRead set p b) = none)
    (hsame : roundDiffers p b = false)
    (haddr : p.links.addr ≠ 0xFFFFFFFF ∨ ∀ m ∈ movesRead set p b, movesOut p m = false) :
    roundCommand w b set p = atBoundary set (withRound ⟨w, b, movesRead set p b, tableRead set p b⟩ p) := by
  have hreads : (readError set p (rMoveAt b) (64 * rMoves b)).or
      (if (!p.reshard.active) = true then readError set p (rTable b) (64 * rCount b) else none) = none := by
    rw [hread, Option.none_or]
    split
    case isTrue h => exact htable (by simpa using h)
    case isFalse => rfl
  have hown : (if (!p.reshard.active) = true then chunksOf 64 (rCount b) (readMem set p (rTable b) (64 * rCount b))
      else []) = tableRead set p b := by
    cases h : p.reshard.active <;> simp [tableRead, h]
  have hstays : (p.links.addr == 0xFFFFFFFF && (movesRead set p b).any (movesOut p)) = false := by
    rcases haddr with h | h
    · rw [beq_eq_false_iff_ne.2 h, Bool.false_and]
    · rw [List.any_eq_false.2 fun m hm => by rw [h m hm]; exact Bool.false_ne_true, Bool.and_false]
  rw [movesRead] at hgood hstays
  simp only [roundCommand, hreads, hown, hgood, hsame, hstays, Bool.false_eq_true, if_false]
  rfl

end

/-! ### The end of a round and of a reshard (R351, R353) -/

/-- A round that still awaits an acknowledgement or bytes goes on. -/
theorem checkRound_of_waiting {set : Settings} {p : Pkg} {r : Round} (hround : p.reshard.round = some r)
    (hleft : r.outstanding ≠ [] ∨ r.received ≠ r.incoming) : checkRound set p = p := by
  have hopen : (r.outstanding.isEmpty && r.received == r.incoming) = false := by
    rcases hleft with h | h <;> simp [h]
  simp only [checkRound, hround, hopen, Bool.false_eq_true, if_false]

/-- The package whose reshard a round began and whose round has ended. -/
def withBegun (x : HeldRound) (p : Pkg) : Pkg :=
  modReshard (fun r => { r with active := true, payload := x.payload, table := x.table, round := none }) p

/-- A FINAL round that begins a reshard, with nothing to send and nothing to receive, ends it at once. -/
theorem startRound_of_nothing {set : Settings} {p : Pkg} {x : HeldRound} (hactive : p.reshard.active = false)
    (hgood : roundBad set p x.table x.moves = none) (hmoves : x.moves = []) (hincoming : rIncoming x.payload = 0)
    (hfinal : rFinal x.payload = true) :
    startRound set x p = answer x.who stOk 0 0 (finishReshard set (withBegun x p)) := by
  rw [hmoves] at hgood
  simp only [startRound, roundDiffers, tableOf, hactive, hgood, hmoves, hincoming, hfinal, List.flatMap_nil, sendPieces,
    checkRound, modReshard, withBegun, Bool.false_and, Bool.false_eq_true, if_false, List.isEmpty_nil, beq_self_eq_true,
    Bool.and_self, if_true]

/-- The package under the layout of the first round, its accumulators not yet clear. -/
def withNewLayout (p : Pkg) : Pkg :=
  { p with
    upd := { p.upd with
      layers := p.reshard.table
      cfg := p.upd.cfg.map fun b => patch b 2 (leBytes 2 (rCount p.reshard.payload)) }
    reshard := { epoch := rEpoch p.reshard.payload, held := p.reshard.held } }

/-- The newest version of every ring alone is left, under the epoch (R353). -/
def withVersions (epoch : Nat) (p : Pkg) : Pkg :=
  { p with rings := { p.rings with rings := p.rings.rings.map fun g => { g with
    versions := (g.versions.filter fun v => v.num == p.rings.version).map fun v => { v with epoch := epoch } } } }

theorem finishReshard_eq (set : Settings) (p : Pkg) :
    finishReshard set p =
      haltGroups (haltStages (withVersions (rEpoch p.reshard.payload) (clearGrads set (withNewLayout p)))) := rfl

/-- Stages and groups that halt leave the rest of the work alone. -/
theorem haltGroups_haltStages_fields (p : Pkg) :
    let q := haltGroups (haltStages p)
    q.reshard = p.reshard ∧ q.upd = p.upd ∧ q.rings = p.rings ∧ q.step = p.step ∧ q.pipe = (haltStages p).pipe := by
  simp only [haltGroups, haltStages, removeFixtures, and_self]

/-- What the end of a reshard leaves: the new epoch and table, and groups and stages that wait for a RESYNC. -/
theorem finishReshard_fields (set : Settings) (p : Pkg) :
    let q := finishReshard set p
    q.reshard = { epoch := rEpoch p.reshard.payload, held := p.reshard.held } ∧ q.upd.layers = p.reshard.table ∧
      GroupsWait q ∧ (∀ st ∈ q.pipe.stages, st.on = true → st.resync = true) ∧
      q.rings.version = p.rings.version ∧ q.step = p.step := by
  have hwork := clearGrads_work set (withNewLayout p)
  obtain ⟨hreshard, hupd, hrings, hstep, hpipe⟩ := haltGroups_haltStages_fields
    (withVersions (rEpoch p.reshard.payload) (clearGrads set (withNewLayout p)))
  rw [finishReshard_eq]
  dsimp only
  rw [hreshard, hupd, hrings, hstep, hpipe, withVersions, hwork.reshard, hwork.upd, hwork.rings, hwork.step]
  exact ⟨rfl, rfl, haltGroups_wait _, haltStages_resync, rfl, rfl⟩

/-- A boundary, with nothing else that waits, ends such a reshard. -/
theorem atBoundary_of_nothingToMove {set : Settings} {p : Pkg} {x : HeldRound} (hbusy : stepBusy p = false)
    (hheld : p.reshard.held = []) (hround : p.reshard.round = none) (hidle : p.colls.running = [])
    (hwaits : p.upd.waits = []) (hopens : p.step.opens = []) (hactive : p.reshard.active = false)
    (hgood : roundBad set p x.table x.moves = none) (hmoves : x.moves = []) (hincoming : rIncoming x.payload = 0)
    (hfinal : rFinal x.payload = true) :
    atBoundary set (withRound x p) = answer x.who stOk 0 0 (finishReshard set (withBegun x p)) := by
  have hdrop : modReshard (fun r => { r with held := r.held.drop 1 }) (withRound x p) = p := by
    have hreshard : { p.reshard with held := [] } = p.reshard := by rw [← hheld]
    simp only [withRound, modReshard, hheld, List.nil_append, List.drop_one, List.tail_cons, hreshard]
  have hstart : startRounds set (withRound x p) = answer x.who stOk 0 0 (finishReshard set (withBegun x p)) := by
    rw [startRounds_of_one (p := withRound x p) (x := x) (by simp [withRound, hheld]) hround hidle, hdrop,
      startRound_of_nothing hactive hgood hmoves hincoming hfinal]
  obtain ⟨-, -, -, -, -, hstep⟩ := finishReshard_fields set (withBegun x p)
  rw [atBoundary_of_rounds (p := withRound x p) hwaits (by rw [hstart, answer_step, hstep]; exact hopens), hstart]
  exact if_neg (Bool.eq_false_iff.1 hbusy)

/-! ### CANCEL (R354) -/

/-- The host's queues after an answer depend on the queues and the time alone. -/
theorem answer_host_congr {p q : Pkg} (hhost : q.host = p.host) (htime : q.ft = p.ft) (w : Who) (st d c : Nat) :
    (answer w st d c q).host = (answer w st d c p).host := by
  cases w with
  | nobody => exact hhost
  | mctp via => exact hhost
  | queue n num =>
    have hfind : findPacket q n num = findPacket p n num := by rw [findPacket, queueOf, hhost, findPacket, queueOf]
    simp only [answer, hfind]
    split
    · exact hhost
    · simp only [modQueue, Packet.reply, now, hhost, htime]

/-- The package whose ports drop the pieces that have not begun to leave. -/
def withoutSending (p : Pkg) : Pkg :=
  { p with links := { p.links with ports := p.links.ports.map fun o => { o with own := withoutPieces true o.own } } }

section
variable {p : Pkg} (status : Nat)

theorem stopRound_of_none (hround : p.reshard.round = none) : stopRound status p = withoutSending p := by
  simp only [stopRound, failRound, hround, withoutSending]

theorem stopRound_of_running {r : Round} (hround : p.reshard.round = some r) :
    stopRound status p =
      answer r.who status 0 0 (modReshard (fun x => { x with round := none }) (withoutSending p)) := by
  simp only [stopRound, failRound, hround, withoutSending]

theorem stopRound_fields (p : Pkg) :
    let q := stopRound status p
    q.links = (withoutSending p).links ∧ q.mem = p.mem ∧ q.upd = p.upd ∧ q.step = p.step ∧
      q.reshard.epoch = p.reshard.epoch := by
  cases h : p.reshard.round with
  | none =>
    rw [stopRound_of_none status h]
    exact ⟨rfl, rfl, rfl, rfl, rfl⟩
  | some r =>
    rw [stopRound_of_running status h]
    simp only [answer_links, answer_mem, answer_upd, answer_step, answer_reshard]
    exact ⟨rfl, rfl, rfl, rfl, rfl⟩

end

/-- The package whose round is stopped and whose reshard is over. -/
def withCancelled (p : Pkg) : Pkg := { stopRound stBadState p with reshard := { epoch := p.reshard.epoch } }

section
variable {set : Settings} {w : Who} {b : List Byte} {p : Pkg}

theorem reshardCommand_of_cancel (hfields : reshardFieldsBad p b = false) (hop : rOp b = 1) :
    reshardCommand w b set p = if p.reshard.active then cancelReshard w set p else answer w stBadState 0 0 p := by
  simp only [reshardCommand, hfields, hop, beq_self_eq_true, Bool.false_eq_true, if_false, if_true]

/-- The answers of a CANCEL leave nothing that a boundary could start. -/
theorem cancelReshard_of_noneWaiting (hwaits : p.upd.waits = []) (hopens : p.step.opens = []) :
    cancelReshard w set p =
      answer w stOk 0 0 (p.reshard.held.foldl (fun q x => answer x.who stBadState 0 0 q) (withCancelled p)) := by
  obtain ⟨-, -, hupd, hstep, hepoch⟩ := stopRound_fields stBadState p
  have hquiet : modReshard (fun r => { epoch := r.epoch }) (stopRound stBadState p) = withCancelled p := by
    rw [modReshard, hepoch, withCancelled]
  have hwork : SameWork (withCancelled p)
      (answer w stOk 0 0 (p.reshard.held.foldl (fun q x => answer x.who stBadState 0 0 q) (withCancelled p))) :=
    .trans (.foldl (fun q (x : HeldRound) => answer_work x.who _ _ _ q) _ _) (answer_work _ _ _ _ _)
  rw [cancelReshard, hquiet]
  exact atBoundary_of_noStart (by rw [hwork.upd]; exact hupd ▸ hwaits) (by rw [hwork.step]; exact hstep ▸ hopens)
    (startRounds_of_noneHeld (by rw [hwork.reshard]; rfl))

end

theorem withCancelled_host_of_none {p : Pkg} (hround : p.reshard.round = none) : (withCancelled p).host = p.host := by
  rw [withCancelled, stopRound_of_none stBadState hround]
  rfl

theorem withCancelled_host_of_running {p : Pkg} {r : Round} (hround : p.reshard.round = some r) :
    (withCancelled p).host = (answer r.who stBadState 0 0 p).host := by
  have hanswer := answer_host_congr (p := p)
    (q := modReshard (fun x => { x with round := none }) (withoutSending p)) rfl rfl r.who stBadState 0 0
  rw [← hanswer, ← stopRound_of_running stBadState hround]
  rfl

/-! ### Pieces and their acknowledgements (R351, R352) -/

theorem queueOwn_host (f : Frame) (p : Pkg) : (queueOwn f p).host = p.host := by
  have hdrop : (dropFrame f p).host = p.host := log_host ..
  unfold queueOwn
  split
  · exact hdrop
  · split
    · split
      · rfl
      · exact hdrop
    · exact hdrop

/-- A reshard message leaves the work of the package, its memory and the host interface alone. -/
theorem sendReshard_keeps (dest : Nat) (h : ReshardHdr) (payload : List Byte) (p : Pkg) :
    SameWork p (sendReshard dest h payload p) ∧ (sendReshard dest h payload p).mem = p.mem ∧
      (sendReshard dest h payload p).host = p.host := by
  unfold sendReshard
  split
  · exact ⟨rfl, rfl, rfl⟩
  · refine ⟨sendMessage_work _ _ _ p, sendMessage_mem _ _ _ p, ?_⟩
    unfold sendMessage
    split
    · rfl
    · exact foldl_view Pkg.host (fun q f => queueOwn_host f q) _ p

theorem ackPiece_keeps (h : ReshardHdr) (p : Pkg) :
    SameWork p (ackPiece h p) ∧ (ackPiece h p).mem = p.mem ∧ (ackPiece h p).host = p.host := sendReshard_keeps _ _ _ p

/-- The package whose running round is `r`. -/
def withRunning (r : Round) (p : Pkg) : Pkg := modReshard (fun x => { x with round := some r }) p

section
variable {set : Settings} {p : Pkg} {r : Round} {h : ReshardHdr} (hround : p.reshard.round = some r)
include hround

theorem modReshard_of_running (f : Round → Round) :
    modReshard (fun x => { x with round := x.round.map f }) p = withRunning (f r) p := by
  rw [modReshard, hround, withRunning, modReshard, Option.map_some]

/-- A round that goes on: neither its check nor a boundary changes the package. -/
theorem atBoundary_checkRound_of_waiting (hleft : r.outstanding ≠ [] ∨ r.received ≠ r.incoming)
    (hwaits : p.upd.waits = []) (hopens : p.step.opens = []) : atBoundary set (checkRound set p) = p := by
  rw [checkRound_of_waiting hround hleft]
  exact atBoundary_of_noStart hwaits hopens (startRounds_of_running hround)

variable (hwaits : p.upd.waits = []) (hopens : p.step.opens = []) (hactive : p.reshard.active = true)
  (hepoch : h.newEpoch = rEpoch p.reshard.payload)
include hwaits hopens hactive hepoch

/-- A piece that does not complete the round is written, counted and acknowledged. -/
theorem takePiece_of_more {bs : List Byte} {a : Nat} (hlen : bs.length = h.length)
    (hmore : r.received + h.length < r.incoming) (hplace : piecePlace set p h = some a)
    (hwrite : writeError set p a h.length = none) :
    takePiece set h bs p =
      ackPiece h (withRunning { r with received := r.received + h.length } (writeMem set a bs p)) := by
  have hroom : (decide (incomingLeft p < h.length) || bs.length != h.length) = false := by
    simp only [incomingLeft, hround, hlen, bne_self_eq_false, Bool.or_false, decide_eq_false_iff_not]
    omega
  have hcount := modReshard_of_running (p := writeMem set a bs p) hround fun o =>
    { o with received := o.received + h.length }
  have hack := (ackPiece_keeps h (withRunning { r with received := r.received + h.length } (writeMem set a bs p))).1
  simp only [takePiece, hactive, hepoch, hroom, hplace, hwrite, hcount, Bool.not_true, bne_self_eq_false, Bool.or_self,
    Bool.false_eq_true, if_false]
  refine atBoundary_checkRound_of_waiting (r := { r with received := r.received + h.length })
    (congrArg Reshard.round hack.reshard) (.inr hmore.ne) ?_ ?_
  · exact (congrArg Upd.waits hack.upd).trans hwaits
  · exact (congrArg Step.opens hack.step).trans hopens

/-- An acknowledgement that leaves others to come ends the wait for its piece alone. -/
theorem takeAck_of_more {d : Nat} (hdigest : d = crc64 (reshardHead h)) (hkind : h.kind = 1)
    (hleft : r.outstanding.filter (fun x => x != (h.array, h.dstLayer, h.offset, h.srcPkg)) ≠ []) :
    takeAck h d set p = withRunning { r with
      outstanding := r.outstanding.filter fun x => x != (h.array, h.dstLayer, h.offset, h.srcPkg) } p := by
  simp only [takeAck, hdigest, hkind, hactive, hepoch, modReshard_of_running hround, Bool.not_true, bne_self_eq_false,
    Bool.or_self, Bool.false_eq_true, if_false]
  exact atBoundary_checkRound_of_waiting rfl (.inl hleft) hwaits hopens

end

theorem reshardPiece_of_badDigest {h : ReshardHdr} {bs : List Byte} {d : Nat} (hd : d ≠ crc64 (reshardHead h ++ bs))
    (set : Settings) (p : Pkg) :
    reshardPiece h bs d set p = log 0x0701 stDigest 0xFFFF [] (detect 3 p) := by
  simp only [reshardPiece, discardPiece, bne_iff_ne.2 hd, if_true]

theorem reshardPiece_of_data {h : ReshardHdr} {bs : List Byte} {d : Nat} (hd : d = crc64 (reshardHead h ++ bs))
    (hkind : h.kind = 0) (set : Settings) (p : Pkg) : reshardPiece h bs d set p = takePiece set h bs p := by
  simp only [reshardPiece, hd, hkind, bne_self_eq_false, Bool.false_eq_true, if_false]

/-- Settles O50: a round waits behind `withRound` or ends by `atBoundary_of_nothingToMove`, CANCEL leaves
`withCancelled` but for its answers, and the messages are those of a round that goes on. -/
theorem resharding : Obligations.Resharding := by
  unfold Obligations.Resharding
  refine ⟨fun s q w b p htakes hfields => ⟨?_, fun hop hactive hwaits hopens => ⟨?_, ?_⟩, fun hop hactive => ?_⟩,
    fun s h bs d => ⟨fun hd => onP_of_eq (reshardPiece_of_badDigest hd s.set s.p),
      fun r hround hwaits hopens hactive hepoch => ⟨fun a hd hkind hlen hmore hplace hwrite => ?_,
        fun hd hkind => ?_⟩⟩⟩
  · intro hop hread htable moves table hgood hsame haddr
    have hcommand := (reshardCommand_of_round (set := s.set) (w := w) hfields hop).trans
      (roundCommand_of_ok hread htable hgood hsame haddr)
    constructor
    · intro hbusy
      exact onPacketP_of_eq (f := reshardCommand) htakes (hcommand.trans (atBoundary_of_busy hbusy))
    · intro hbusy hheld hround hidle hwaits hopens hactive hnone hincoming hfinal
      have hboundary := atBoundary_of_nothingToMove (set := s.set) (x := ⟨w, b, moves, table⟩) hbusy hheld hround hidle
        hwaits hopens hactive (by simpa only [hactive, Bool.false_eq_true, if_false] using hgood)
        (by simp only [moves, hnone, chunksOf]) hincoming hfinal
      obtain ⟨hreshard, hlayers, hgroups, hstages, hversion, hstep⟩ :=
        finishReshard_fields s.set (withBegun ⟨w, b, moves, table⟩ p)
      refine ⟨_, _, onPacketP_of_eq (f := reshardCommand) htakes (hcommand.trans hboundary), rfl, ?_⟩
      rw [answer_reshard, hreshard, answer_upd, answer_colls, answer_pipe, answer_rings, answer_step, hstep]
      exact ⟨rfl, rfl, rfl, hheld, hlayers, hgroups, hstages, hversion, rfl⟩
  · refine onPacketP_of_eq (f := reshardCommand) htakes ?_
    rw [reshardCommand_of_cancel hfields hop, if_pos hactive, cancelReshard_of_noneWaiting hwaits hopens]
    rfl
  · obtain ⟨hlinks, hmem, hupd, -, -⟩ := stopRound_fields stBadState p
    exact ⟨congrArg Links.ports hlinks, hmem, hupd, withCancelled_host_of_none,
      fun _ => withCancelled_host_of_running⟩
  · refine onPacketP_of_eq (f := reshardCommand) htakes ?_
    rw [reshardCommand_of_cancel hfields hop, if_neg (Bool.eq_false_iff.1 hactive)]
  · have hpiece := (reshardPiece_of_data hd hkind s.set s.p).trans
      (takePiece_of_more hround hwaits hopens hactive hepoch hlen hmore hplace hwrite)
    obtain ⟨hwork, hmem, hhost⟩ := ackPiece_keeps h
      (withRunning { r with received := r.received + h.length } (writeMem s.set a bs s.p))
    exact ⟨_, onP_of_eq hpiece, hmem, hwork.reshard, hhost, hwork.step⟩
  · exact fun hleft => onP_of_eq (takeAck_of_more hround hwaits hopens hactive hepoch hd hkind hleft)

end Sys2Proof.Machine
end

section
/-! PROOFS. The memory family (O9 to O11): the interleave by the shifts of the rule and back to the address (R365), and the
errors that a write of whole blocks clears (R379). -/

namespace Sys2Proof.Machine

/-! ### The interleave by the shifts of R365 -/

theorem granShift_of_granule {set : Settings} {g : Nat}
    (h : (set.granule = 0 ∧ g = 12) ∨ (set.granule = 1 ∧ g = 16) ∨ (set.granule = 2 ∧ g = 21)) : granShift set = g := by
  rcases h with ⟨hgran, rfl⟩ | ⟨hgran, rfl⟩ | ⟨hgran, rfl⟩ <;> simp only [granShift, hgran]

/-- A granule's number and a place in the granule join without a carry. -/
theorem shiftLeft_or_mod (n a g : Nat) : (n <<< g) ||| (a % 2 ^ g) = n * 2 ^ g + a % 2 ^ g := by
  rw [← Nat.shiftLeft_add_eq_or_of_lt (Nat.mod_lt a (Nat.two_pow_pos g)), Nat.shiftLeft_eq]

theorem stackOf_of_all16 {set : Settings} (hs : set.spread = 0) (a : Nat) :
    stackOf set a = (a >>> granShift set) % 16 := by
  simp only [stackOf, hs, beq_self_eq_true, if_true, Nat.shiftRight_eq_div_pow]

theorem offsetOf_of_all16 {set : Settings} (hs : set.spread = 0) (a : Nat) :
    offsetOf set a = ((a >>> (granShift set + 4)) <<< granShift set) ||| (a % 2 ^ granShift set) := by
  simp only [shiftLeft_or_mod, Nat.shiftRight_eq_div_pow, offsetOf, hs, beq_self_eq_true, if_true]

theorem stackOf_of_quarter {set : Settings} (hs : set.spread = 1) (a : Nat) :
    stackOf set a = 4 * (a / quarterSize) + ((a % quarterSize) >>> granShift set) % 4 := by
  simp only [stackOf, hs, Nat.one_ne_zero, beq_iff_eq, if_false, Nat.shiftRight_eq_div_pow]

theorem offsetOf_of_quarter {set : Settings} (hs : set.spread = 1) (a : Nat) :
    offsetOf set a = (((a % quarterSize) >>> (granShift set + 2)) <<< granShift set) |||
      ((a % quarterSize) % 2 ^ granShift set) := by
  simp only [shiftLeft_or_mod, Nat.shiftRight_eq_div_pow, offsetOf, hs, Nat.one_ne_zero, beq_iff_eq, if_false]

/-- The rest of an address within its quarter, as R365 takes it. -/
theorem mod_quarterSize (a : Nat) : a % quarterSize = a - a / 0x5000000000 * 0x5000000000 := by
  rw [Nat.mul_comm, ← Nat.mod_eq_sub_mul_div, quarterSize]

/-! ### The interleave back to the address -/

theorem stackOf_lt (set : Settings) {a : Nat} (ha : a < regionSize) : stackOf set a < 16 := by
  have hquarter : a / quarterSize < 4 := Nat.div_lt_of_lt_mul ha
  have hway : a % quarterSize / 2 ^ granShift set % 4 < 4 := Nat.mod_lt _ (by decide)
  simp only [stackOf]
  split
  · exact Nat.mod_lt _ (by decide)
  · omega

theorem keyOf_div_stackSize (set : Settings) {a : Nat} (ha : a < regionSize) : keyOf set a / stackSize = stackOf set a := by
  rw [keyOf, Nat.mul_comm, Nat.mul_add_div (by decide), Nat.div_eq_of_lt (offsetOf_lt set ha), Nat.add_zero]

theorem keyOf_mod_stackSize (set : Settings) {a : Nat} (ha : a < regionSize) : keyOf set a % stackSize = offsetOf set a := by
  rw [keyOf, Nat.mul_comm, Nat.mul_add_mod, Nat.mod_eq_of_lt (offsetOf_lt set ha)]

/-- An address is its granules dealt out in turn to 2 ^ w stacks, put together again. -/
theorem joinGranules_eq (x g w : Nat) :
    (x / 2 ^ (g + w) * 2 ^ g + x % 2 ^ g) / 2 ^ g * 2 ^ (g + w) + x / 2 ^ g % 2 ^ w * 2 ^ g +
      (x / 2 ^ (g + w) * 2 ^ g + x % 2 ^ g) % 2 ^ g = x := by
  have hpos := Nat.two_pow_pos g
  have hdeal : x / 2 ^ g / 2 ^ w * 2 ^ w + x / 2 ^ g % 2 ^ w = x / 2 ^ g := Nat.div_add_mod' ..
  rw [Nat.mul_comm _ (2 ^ g), Nat.mul_add_div hpos, Nat.mul_add_mod, Nat.mod_mod, Nat.div_eq_of_lt (Nat.mod_lt x hpos),
    Nat.add_zero, Nat.pow_add, ← Nat.div_div_eq_div_mul]
  calc x / 2 ^ g / 2 ^ w * (2 ^ g * 2 ^ w) + x / 2 ^ g % 2 ^ w * 2 ^ g + x % 2 ^ g
      = (x / 2 ^ g / 2 ^ w * 2 ^ w + x / 2 ^ g % 2 ^ w) * 2 ^ g + x % 2 ^ g := by ring
    _ = x := by rw [hdeal, Nat.div_add_mod']

theorem addrOf_keyOf (set : Settings) {a : Nat} (ha : a < regionSize) : addrOf set (keyOf set a) = a := by
  rw [addrOf, keyOf_div_stackSize set ha, keyOf_mod_stackSize set ha]
  by_cases hs : set.spread == 0
  · simp only [stackOf, offsetOf, hs, if_true]
    exact joinGranules_eq a (granShift set) 4
  · simp only [stackOf, offsetOf, hs, Bool.false_eq_true, if_false]
    rw [Nat.mul_add_div (by decide), Nat.div_eq_of_lt (Nat.mod_lt _ (by decide)), Nat.add_zero, Nat.mul_add_mod,
      Nat.mod_mod]
    exact (congrArg _ (joinGranules_eq (a % quarterSize) (granShift set) 2)).trans (Nat.div_add_mod' ..)

/-- Settles O9: the model's quotients are the shifts of R365, and `addrOf` takes a key back to its address. -/
theorem interleaveIsOneToOne : Obligations.InterleaveIsOneToOne := by
  unfold Obligations.InterleaveIsOneToOne
  intro set a ha
  refine ⟨fun g hg => ?_, stackOf_lt set ha, offsetOf_lt set ha, addrOf_keyOf set ha⟩
  obtain rfl := granShift_of_granule hg
  refine ⟨fun hs => ⟨stackOf_of_all16 hs a, offsetOf_of_all16 hs a⟩, fun hs => ?_⟩
  rw [stackOf_of_quarter hs, offsetOf_of_quarter hs, mod_quarterSize]
  exact ⟨rfl, rfl⟩

/-! ### Writes -/

/-- Settles O10: every address of the region has a key of its own (`keyOf_injective`), so a write changes its own bytes. -/
theorem memoryReadsWhatWasWritten : Obligations.MemoryReadsWhatWasWritten :=
  fun set _ _ _ _ hwf ha hx => readByte_writeMem set hwf ha hx

theorem mem_writeMem_bad {set : Settings} {p : Pkg} {a k : Nat} {bs : List Byte} :
    k ∈ (writeMem set a bs p).mem.bad ↔
      k ∈ p.mem.bad ∧ ¬ (a ≤ addrOf set (k * 64) ∧ addrOf set (k * 64) + 64 ≤ a + bs.length) := by
  simp only [writeMem, List.mem_filter, Bool.not_eq_true', ← Bool.not_eq_true, Bool.and_eq_true, decide_eq_true_eq]

/-- Settles O11: a write filters the list of blocks in error, and touches memory alone. -/
theorem wholeBlockWritesClearErrors : Obligations.WholeBlockWritesClearErrors :=
  fun set p a bs _ => ⟨mem_writeMem_bad, writeMem_frame set a bs p⟩

end Sys2Proof.Machine
end

section
/-! PROOFS. A step, the clock and reset (O1, O2, O3, O6): a step runs the front command or makes one cycle of the clock,
five cycles add 32 ns, and no command touches the queue of commands. -/

namespace Sys2Proof.Machine

/-! ### A step -/

theorem step_cons {s : State} {c : Instr} {rest : List Instr} (h : s.pending = c :: rest) :
    step s = exec c { s with pending := rest } := by
  unfold step
  rw [h]

theorem step_nil {s : State} (h : s.pending = []) : step s = .next (tick s) := by
  unfold step
  rw [h]

/-- Settles O1: this is the arm of `step` for a queue that is not empty. -/
theorem stepRunsTheFrontCommand : Obligations.StepRunsTheFrontCommand := by
  unfold Obligations.StepRunsTheFrontCommand
  exact fun _ _ _ h => step_cons h

/-! ### The clock (R435, R452) -/

theorem tick_of_on {s : State} (hon : s.p.boot.off = false) :
    tick s = { s with p := { s.p with ft := ftTick s.p.ft, cal := calTick (cycleUnits s.p.ft.cycle) s.p.cal } } := by
  simp [tick, hon]

theorem tick_of_off {s : State} (hoff : s.p.boot.off = true) (hstop : s.p.cal.stopFlag = false) :
    tick s = { s with p := { s.p with cal := calTick (cycleUnits s.p.ft.cycle) s.p.cal } } := by
  simp [tick, hoff, hstop]

theorem tick_of_stopped {s : State} (hoff : s.p.boot.off = true) (hstop : s.p.cal.stopFlag = true) : tick s = s := by
  simp [tick, hoff, hstop]

/-- One cycle with nothing to slew: the count moves by the cycle's units, and the next cycle of the group follows. -/
theorem tick_count {s : State} (hon : s.p.boot.off = false) (hslew : s.p.ft.slew = 0) :
    (tick s).p.boot.off = false ∧ (tick s).p.ft.slew = 0 ∧ (tick s).p.ft.cycle = (s.p.ft.cycle + 1) % 5 ∧
      (tick s).p.ft.count = (s.p.ft.count + cycleUnits s.p.ft.cycle) % 2 ^ 80 := by
  rw [tick_of_on hon]
  refine ⟨hon, ?_, rfl, ?_⟩
  · simp [ftTick, hslew, slewStep]
  · simp only [ftTick, hslew, countWrap, slewStep]
    omega

/-- From each place in a group of five, the units of five cycles in a row make 32 ns. -/
theorem cycleUnits_five : ∀ c, c < 5 →
    cycleUnits c + cycleUnits ((c + 1) % 5) + cycleUnits ((c + 2) % 5) + cycleUnits ((c + 3) % 5) +
      cycleUnits ((c + 4) % 5) = 2097152 := by decide

theorem tick_five {s : State} (hon : s.p.boot.off = false) (hc : s.p.ft.cycle < 5) (hslew : s.p.ft.slew = 0) :
    (tick (tick (tick (tick (tick s))))).p.ft.count = (s.p.ft.count + 2097152) % 2 ^ 80 := by
  obtain ⟨hon1, hslew1, hc1, h1⟩ := tick_count hon hslew
  obtain ⟨hon2, hslew2, hc2, h2⟩ := tick_count hon1 hslew1
  obtain ⟨hon3, hslew3, hc3, h3⟩ := tick_count hon2 hslew2
  obtain ⟨hon4, hslew4, hc4, h4⟩ := tick_count hon3 hslew3
  obtain ⟨-, -, -, h5⟩ := tick_count hon4 hslew4
  have hsum := cycleUnits_five _ hc
  simp only [hc1, hc2, hc3, hc4, Nat.mod_add_mod, Nat.add_assoc, Nat.reduceAdd] at h2 h3 h4 h5 hsum
  omega

/-- Settles O2: an empty queue is one `tick`, whose branches are the cases of the statement, and five cycles are a group. -/
theorem emptyQueueIsOneCycle : Obligations.EmptyQueueIsOneCycle := by
  unfold Obligations.EmptyQueueIsOneCycle
  refine ⟨fun s h => ⟨fun hon => ?_, fun hoff hstop => ?_, fun hoff hstop => ?_⟩,
    fun s hon hc hslew _ => tick_five hon hc hslew⟩
  · rw [step_nil h, tick_of_on hon]
  · rw [step_nil h, tick_of_off hoff hstop]
  · rw [step_nil h, tick_of_stopped hoff hstop]

/-- Settles O3: each value is the field of `State.reset`, which leaves all of them at their defaults. -/
theorem resetLeaves : Obligations.ResetLeaves := by
  unfold Obligations.ResetLeaves
  refine ⟨rfl, rfl, rfl, rfl, rfl, rfl, rfl, rfl, rfl, rfl, rfl, rfl, rfl, rfl, rfl, rfl, rfl, rfl, rfl, rfl, rfl, rfl,
    rfl, rfl, rfl, rfl, rfl, rfl, rfl, rfl, fun d hd => ?_⟩
  rw [List.eq_of_mem_replicate (show d ∈ List.replicate 4 ({} : Die) from hd)]

/-! ### The queue of commands -/

theorem setEnvAct_pending (e : Nat) (s : State) : (setEnvAct e s).pending = s.pending := rfl

theorem lowerEnv_pending (s : State) : (lowerEnv s).pending = s.pending := by
  unfold lowerEnv
  split <;> rfl

theorem holdSet_pending (f : Pwr → Pwr) (s : State) : (holdSet f s).pending = s.pending := lowerEnv_pending _

theorem holdAt_pending (old : Option Nat) (f : Option Nat → Pwr → Pwr) (s : State) :
    (holdAt old f s).pending = s.pending := by
  unfold holdAt
  split
  · rfl
  · exact holdSet_pending _ s

theorem currentHold_pending (ia ib : Nat) (s : State) : (currentHold ia ib s).pending = s.pending := by
  unfold currentHold
  dsimp only
  split
  · exact holdAt_pending _ _ _
  · rfl

theorem powerHold_pending (watts : Nat) (s : State) : (powerHold watts s).pending = s.pending := by
  unfold powerHold
  dsimp only
  split
  · exact holdAt_pending _ _ _
  · rfl

theorem connectorOpen_pending (ia ib : Nat) (s : State) : (connectorOpen ia ib s).pending = s.pending := by
  unfold connectorOpen
  dsimp only
  split
  · rfl
  · split
    · rfl
    · exact holdSet_pending _ _

theorem setLimit_pending (v : Nat) (s : State) : (setLimit v s).pending = s.pending := by
  unfold setLimit
  dsimp only
  split
  · rfl
  · split
    · exact holdSet_pending _ _
    · exact lowerEnv_pending _

theorem riseEnv_pending (s : State) : (riseEnv s).pending = s.pending := by
  unfold riseEnv
  split <;> rfl

theorem thermalHold_pending (i : Nat) (t : Int) (s : State) : (thermalHold i t s).pending = s.pending := by
  unfold thermalHold
  dsimp only
  split
  · rfl
  · split
    · rfl
    · exact holdAt_pending _ _ _

theorem thermalTrip_pending (i : Nat) (t : Int) (s : State) : (thermalTrip i t s).pending = s.pending := by
  unfold thermalTrip
  dsimp only
  split
  · rfl
  · split
    · rfl
    · split <;> rfl

theorem brownOut_pending (vin : Nat) (s : State) : (brownOut vin s).pending = s.pending := by
  unfold brownOut
  split <;> rfl

theorem supplyLeaves_pending (st : Supply) (vin : Nat) (s : State) : (supplyLeaves st vin s).pending = s.pending := by
  unfold supplyLeaves
  split
  · rfl
  · split <;> rfl

theorem railFault_pending (r : Rail) (s : State) : (railFault r s).pending = s.pending := by
  unfold railFault
  split
  · rfl
  · cases r with
    | base => rfl
    | stack k | die d => dsimp only; split <;> rfl

theorem phase1_pending (railsOk : Bool) (s : State) : (phase1 railsOk s).pending = s.pending := by
  unfold phase1
  split
  · rfl
  · split <;> rfl

theorem phase4_pending (failed : List Nat) (s : State) : (phase4 failed s).pending = s.pending := by
  unfold phase4
  split <;> rfl

theorem packageReset_pending (s : State) : (packageReset s).pending = s.pending := by
  unfold packageReset
  split <;> rfl

theorem setMap_pending (v : Nat) (s : State) : (setMap v s).pending = s.pending := by
  unfold setMap
  dsimp only
  split <;> rfl

theorem writeWord_pending (off v : Nat) (s : State) : (writeWord off v s).pending = s.pending := by
  unfold writeWord
  split
  · exact setMap_pending _ _
  · split
    · exact setLimit_pending _ _
    · rfl

theorem writeBar0_pending (off size v : Nat) (s : State) : (writeBar0 off size v s).pending = s.pending := by
  unfold writeBar0
  split
  · rfl
  · split
    · exact writeWord_pending _ _ _
    · split
      · exact (writeWord_pending _ _ _).trans (writeWord_pending _ _ _)
      · rfl

theorem applyLink_pending (w : Who) (b table : List Byte) (s : State) : (applyLink w b table s).pending = s.pending := by
  unfold applyLink
  dsimp only
  split
  · rfl
  · split <;> rfl

theorem linkConfig_pending (w : Who) (b : List Byte) (s : State) : (linkConfig w b s).pending = s.pending := by
  unfold linkConfig
  split
  · rfl
  · split
    · split
      · rfl
      · exact applyLink_pending _ _ _ _
    · exact applyLink_pending _ _ _ _

theorem applyPend_pending (s : State) : (applyPend s).pending = s.pending := by
  unfold applyPend
  split <;> rfl

theorem boundary_pending (s : State) : (boundary s).pending = s.pending := by
  unfold boundary
  split
  · rfl
  · exact applyPend_pending s

theorem setMode_pending (w : Who) (b : List Byte) (s : State) : (setMode w b s).pending = s.pending := by
  unfold setMode
  dsimp only
  split
  · rfl
  · split
    · rfl
    · split
      · rfl
      · exact applyPend_pending _

theorem mctpServe_pending {via : Transport} {body : List Byte} {f : Who → List Byte → State → State} {s : State}
    (hf : ∀ w b u, (f w b u).pending = u.pending) : (mctpServe via body f s).pending = s.pending := by
  unfold mctpServe
  split
  · exact hf _ _ _
  · rfl

theorem mctpCode_pending (via : Transport) (code : Nat) (body : List Byte) (s : State) :
    (mctpCode via code body s).pending = s.pending := by
  unfold mctpCode
  dsimp only
  split
  case h_10 | h_11 | h_12 | h_13 => rfl
  all_goals exact mctpServe_pending fun _ _ _ => rfl

theorem mctpAsked_pending (s : State) (x : Transport × MctpAsk) : (mctpAsked s x).pending = s.pending := by
  unfold mctpAsked
  split
  · exact mctpCode_pending _ _ _ _
  all_goals rfl

theorem restartEnds_pending (s : State) : (restartEnds s).pending = s.pending := by
  unfold restartEnds
  split
  · rfl
  · exact foldl_view State.pending mctpAsked_pending _ _

/-- The commands of O7 by what each does to the settings; every other command works on the package's state alone. -/
theorem exec_pending {c : Instr} {s t : State} (h : exec c s = .next t) : t.pending = s.pending := by
  unfold exec at h
  cases c with
  | setMode q =>
    exact onPacket_rel (K := fun u v => v.pending = u.pending) (fun _ _ => rfl) (fun _ _ _ h1 h2 => h2.trans h1)
      setMode_pending h
  | linkConfig q =>
    exact onPacket_rel (K := fun u v => v.pending = u.pending) (fun _ _ => rfl) (fun _ _ _ h1 h2 => h2.trans h1)
      linkConfig_pending h
  | nop | identify | getStatus | fwStage | fwInstall | attest | logRead | resetUnit | dumpRead =>
    refine (onRoute_keeps ?_ h).2
    exact fun _ _ _ => ⟨rfl, rfl⟩
  | copy | fillerConfig | matmul | groupedMatmul | vchain | taskGraphSubmit | branchTableLoad | hollowConfig | ringConfig
  | stageConfig | fixtureLoad | collGroupConfig | collStart | retract | reshard | stepOpen | stepSeal | stepCommit
  | stepAbort | updateConfig | healthRead | ftStatus | calSet | ftConfig | patternLoad | patternRun =>
    exact (onPacketP_keeps h).2
  | commitComplete fault => cases h; exact boundary_pending _
  | abortComplete => cases h; exact boundary_pending _
  | pkgMemMapWrite v => cases h; split; exacts [rfl, setMap_pending v s]
  | registerWrite off size v => cases h; exact writeBar0_pending off size v s
  | pwrLimitWrite v => cases h; split; exacts [rfl, setLimit_pending v s]
  | phase1End railsOk => cases h; exact phase1_pending railsOk s
  | phase4End failed => cases h; exact phase4_pending failed s
  | packageReset => cases h; exact packageReset_pending s
  | brownOut vin => cases h; exact brownOut_pending vin s
  | supplyUnder vin => cases h; split; exacts [supplyLeaves_pending _ vin s, rfl]
  | supplyOver vin => cases h; split; exacts [supplyLeaves_pending _ vin s, rfl]
  | thermalTrip i temp => cases h; exact thermalTrip_pending i temp s
  | railFault r => cases h; exact railFault_pending r s
  | thermalHold i temp => cases h; exact thermalHold_pending i temp s
  | currentHold ia ib => cases h; exact currentHold_pending ia ib s
  | powerHold watts => cases h; exact powerHold_pending watts s
  | connectorOpen ia ib => cases h; exact connectorOpen_pending ia ib s
  | envActRise => cases h; exact riseEnv_pending s
  | mgtRestartComplete => cases h; exact restartEnds_pending s
  | _ => cases h; rfl

/-- Settles O6: `step` drops the front command and no command touches the rest; a cycle of the clock finds no command. -/
theorem everyStepTakesOneCommand : Obligations.EveryStepTakesOneCommand := by
  unfold Obligations.EveryStepTakesOneCommand
  intro s t h
  cases hp : s.pending with
  | nil =>
    rw [step_nil hp] at h
    cases h
    refine Eq.trans ?_ hp
    unfold tick
    split
    · split <;> rfl
    · rfl
  | cons c rest =>
    rw [step_cons hp] at h
    exact exec_pending h

end Sys2Proof.Machine
end

section
/-! PROOFS. Packets and queues (O12, O14, O15, O17, O18): what turns a request away, the reply that an answer makes due,
the registers that drive a queue, packets read at HEAD, and replies posted at TAIL. -/

namespace Sys2Proof.Machine

/-! ### Requests that are turned away (R475, R485, R576) -/

theorem gate_of_failed {p : Pkg} (hfail : p.boot.failed = true) {op : Nat}
    (hop : op ∉ [0x0100, 0x0101, 0x0103, 0x0C04, 0x0D01, 0x0D02]) : gate p op = some stFailed := by
  simp only [List.mem_cons, List.not_mem_nil, or_false, not_or] at hop
  simp [gate, hfail, hop]

theorem gate_of_notReady {p : Pkg} (hfail : p.boot.failed = false) (hready : p.boot.ready = false) {op : Nat}
    (hop : op ∉ [0x0100, 0x0101, 0x0103]) : gate p op = some stNotReady := by
  simp only [List.mem_cons, List.not_mem_nil, or_false, not_or] at hop
  simp [gate, hfail, hready, hop]

/-- Settles O12: the refusal stands before the packet's meaning, and the check of the reserved field before the request's. -/
theorem turnedAway : Obligations.TurnedAway := by
  unfold Obligations.TurnedAway
  refine ⟨fun s q op num st pk p f hstart hgate hnum => ?_, fun p hfail op hop => gate_of_failed hfail hop,
    fun p hfail hready op hop => gate_of_notReady hfail hready hop, fun s via body hopen hres => ?_⟩
  · simp [onPacket, hstart, hgate, hnum]
  · simp [exec, execNop, onRoute, hopen, mctpServe, hres]

/-! ### Entries of a list by what they are -/

theorem modAt_of_getElem? {α : Type} {l : List α} {i : Nat} {a : α} (h : l[i]? = some a) (f : α → α) :
    modAt l i f = l.set i (f a) := by
  unfold modAt
  rw [h]

/-- What `f` makes of an entry, written out from the entry. -/
theorem modAt_congr_getD {α : Type} {l : List α} {i : Nat} {f g : α → α} {d : α} (h : f (l.getD i d) = g (l.getD i d)) :
    modAt l i f = modAt l i g := by
  cases hl : l[i]? with
  | none => simp only [modAt, hl]
  | some a =>
    rw [List.getD_eq_getElem?_getD, hl] at h
    rw [modAt_of_getElem? hl, modAt_of_getElem? hl]
    exact congrArg _ h

theorem queueOf_of_getElem? {p : Pkg} {q : Nat} {qu : Queue} (h : p.host.queues[q]? = some qu) : queueOf p q = qu := by
  rw [queueOf, List.getD_eq_getElem?_getD, h, Option.getD_some]

theorem modQueue_of_getElem? {p : Pkg} {q : Nat} {qu : Queue} (h : p.host.queues[q]? = some qu) (f : Queue → Queue) :
    modQueue q f p = { p with host.queues := p.host.queues.set q (f qu) } := by
  rw [modQueue, modAt_of_getElem? h]

/-- A queue changed by `f` is the queue that `f` makes of what it is now. -/
theorem modQueue_congr {p : Pkg} {q : Nat} {f : Queue → Queue} {u : Queue} (h : f (queueOf p q) = u) :
    modQueue q f p = { p with host := { p.host with queues := modAt p.host.queues q fun _ => u } } := by
  rw [modQueue, modAt_congr_getD (g := fun _ => u) h]

theorem modQueue_congr_fun {p : Pkg} {q : Nat} {f g : Queue → Queue} (h : f (queueOf p q) = g (queueOf p q)) :
    modQueue q f p = modQueue q g p := by
  rw [modQueue, modQueue, modAt_congr_getD h]

/-! ### Answers (R476) -/

/-- Settles O14: the packet that the answer names is found on its queue, and its reply carries its fields. -/
theorem answersBecomeDue : Obligations.AnswersBecomeDue := by
  unfold Obligations.AnswersBecomeDue
  intro p q num st d c pk qu hq hpk
  have hfind : findPacket p q num = some pk := by rw [findPacket, queueOf_of_getElem? hq, hpk]
  have hnum : pk.num = num := by simpa using List.find?_some hpk
  refine ⟨pk.reply p st d c, ?_, congrArg some hnum, rfl, rfl, rfl, rfl, rfl, rfl, rfl, rfl, rfl⟩
  rw [answer_queue hfind, modQueue_of_getElem? hq]

/-! ### The registers of a queue (R470, R482) -/

theorem setupOk_iff (qu : Queue) : setupOk qu = true ↔
    qu.sqBase % 4096 = 0 ∧ qu.cqBase % 4096 = 0 ∧ 6 ≤ qu.sqLog2 ∧ qu.sqLog2 ≤ 18 ∧ 6 ≤ qu.cqLog2 ∧ qu.cqLog2 ≤ 13 := by
  simp [setupOk, and_assoc]

theorem bellOk_of_taken {p : Pkg} {q v log2 : Nat} (hopen : hostOpen p = true)
    (hstate : (queueOf p q).state = .running ∨ (queueOf p q).state = .stopped) (hv : v < 2 ^ log2) :
    bellOk p q v log2 = true := by
  rcases hstate with hstate | hstate <;> simp [bellOk, hopen, hstate, hv]

theorem unitsReady_ne_zero {qu : Queue} (hbell : qu.bell < 2 ^ qu.sqLog2) (hhead : qu.head < 2 ^ qu.sqLog2)
    (hne : qu.bell ≠ qu.head) : unitsReady qu ≠ 0 := by
  unfold unitsReady
  intro h
  obtain ⟨k, hk⟩ := Nat.dvd_of_mod_eq_zero h
  have hk1 : k = 1 := by
    have hlt : k < 2 := by
      by_contra hge
      have := Nat.mul_le_mul_left (2 ^ qu.sqLog2) (Nat.not_lt.1 hge)
      omega
    have hpos : k ≠ 0 := by
      rintro rfl
      omega
    omega
  subst hk1
  omega

section
variable {s : State} (hopen : hostOpen s.p = true) (q : Nat)
include hopen

theorem exec_hostSqBell_of_taken {v : Nat} (hstate : (queueOf s.p q).state = .running ∨ (queueOf s.p q).state = .stopped)
    (hv : v < 2 ^ (queueOf s.p q).sqLog2) :
    exec (.hostSqBell q v) s = .next { s with p := modQueue q (fun u => { u with bell := v }) s.p } := by
  simp [exec, execHostSqBell, bellOk_of_taken hopen hstate hv]

theorem exec_hostCqBell_of_taken {v : Nat} (hstate : (queueOf s.p q).state = .running ∨ (queueOf s.p q).state = .stopped)
    (hv : v < 2 ^ (queueOf s.p q).cqLog2) :
    exec (.hostCqBell q v) s = .next { s with p := modQueue q (fun u => { u with cqHead := v }) s.p } := by
  simp [exec, execHostCqBell, bellOk_of_taken hopen hstate hv]

theorem exec_queueEnable_of_disabled (hstate : (queueOf s.p q).state = .disabled) (hrec : s.p.boot.recovery = false) :
    exec (.queueEnable q) s = .next { s with p := modQueue q enableQueue s.p } := by
  simp [exec, execQueueEnable, hopen, hstate, hrec]

theorem exec_queueDisable_of_enabled (hstate : (queueOf s.p q).state ≠ .disabled) (hrec : s.p.boot.recovery = false) :
    exec (.queueDisable q) s = .next { s with p := modQueue q drainQueue s.p } := by
  simp [exec, execQueueDisable, hopen, hstate, hrec]

theorem exec_queueResume_of_hostOpen :
    exec (.queueResume q) s = .next { s with p := modQueue q resumeQueue s.p } := by
  simp [exec, execQueueResume, hopen]

theorem exec_queueFlush_of_hostOpen (resume : Bool) :
    exec (.queueFlush q resume) s = .next { s with
      p := modQueue q (fun u => if resume then resumeQueue (flushQueue u) else flushQueue u) s.p } := by
  simp [exec, execQueueFlush, hopen]

theorem exec_hostFenceWrite_of_hostOpen (f v : Nat) :
    exec (.hostFenceWrite f v) s = .next { s with p := setFence f v s.p } := by
  simp [exec, execHostFenceWrite, hopen]

end

theorem exec_queueDrained_of_done {s : State} {q : Nat} (hstate : (queueOf s.p q).state = .draining)
    (hread : (queueOf s.p q).read = []) (hdue : (queueOf s.p q).due = []) :
    exec (.queueDrained q) s = .next { s with p := modQueue q (fun u => { u with state := .disabled }) s.p } := by
  simp [exec, execQueueDrained, hstate, hread, hdue]

theorem exec_sqFetchError_of_ready {s : State} {q : Nat} (hstate : (queueOf s.p q).state = .running)
    (hready : unitsReady (queueOf s.p q) ≠ 0) :
    exec (.sqFetchError q) s = .next { s with
      p := modQueue q (fun u => { u with state := .stopped, reason := .fetch }) s.p } := by
  simp [exec, execSqFetchError, hstate, hready]

theorem exec_hostWriteError_of_due {s : State} {q : Nat} {r : Reply} {rest : List Reply}
    (hdue : (queueOf s.p q).due = r :: rest) :
    exec (.hostWriteError q) s = .next { s with p := modQueue q (fun u => { u with
      due := rest
      state := if u.state == .running then .stopped else u.state
      reason := if u.state == .running then .write else u.reason }) s.p } := by
  simp [exec, execHostWriteError, hdue]

theorem flushQueue_resumed {qu : Queue} (hstate : qu.state = .running ∨ qu.state = .stopped) (resume : Bool) :
    (if resume then resumeQueue (flushQueue qu) else flushQueue qu) = { qu with
      read := qu.read.filter fun k => k.start.isSome, head := qu.bell
      state := if resume then .running else qu.state
      reason := if resume = true ∧ qu.state = .stopped then .none else qu.reason } := by
  rcases hstate with hstate | hstate <;> cases resume <;> simp [flushQueue, resumeQueue, hstate]

/-- Settles O15: each command is the change of its queue, which `modQueue_congr` writes out. -/
theorem queuesAreDriven : Obligations.QueuesAreDriven := by
  unfold Obligations.QueuesAreDriven
  refine ⟨fun s q v resume hup hperst => ?_, fun s q => ⟨exec_queueDrained_of_done, fun hstate hbell hhead hne =>
    exec_sqFetchError_of_ready hstate (unitsReady_ne_zero hbell hhead hne), fun r rest hdue hstate => ?_⟩,
    fun s f v hup hperst => exec_hostFenceWrite_of_hostOpen ((hostOpen_iff _).2 ⟨hup, hperst⟩) f v,
    fun s => ⟨rfl, rfl⟩⟩
  · have hopen : hostOpen s.p = true := (hostOpen_iff _).2 ⟨hup, hperst⟩
    refine ⟨exec_hostSqBell_of_taken hopen q, exec_hostCqBell_of_taken hopen q,
      fun hstate hrec h1 h2 h3 h4 h5 h6 => ?_, fun hstate hrec hbad => ?_, fun hstate hrec => ?_, fun hstate => ?_,
      fun hstate => ?_⟩
    · have hok : setupOk (queueOf s.p q) = true := (setupOk_iff _).2 ⟨h1, h2, h3, h4, h5, h6⟩
      rw [exec_queueEnable_of_disabled hopen q hstate hrec, modQueue_congr (f := enableQueue) (if_pos hok)]
    · have hno : ¬ setupOk (queueOf s.p q) = true := fun h => hbad ((setupOk_iff _).1 h)
      rw [exec_queueEnable_of_disabled hopen q hstate hrec, modQueue_congr (f := enableQueue) (if_neg hno)]
    · rw [exec_queueDisable_of_enabled hopen q hstate hrec, modQueue_congr (f := drainQueue) rfl]
      rfl
    · rw [exec_queueResume_of_hostOpen hopen q, modQueue_congr (f := resumeQueue) (if_pos (by simp [hstate]))]
    · rw [exec_queueFlush_of_hostOpen hopen q resume, modQueue_congr (flushQueue_resumed hstate resume)]
  · rw [exec_hostWriteError_of_due hdue, modQueue_congr (u := { queueOf s.p q with
      due := rest, state := .stopped, reason := .write }) (by simp [hstate])]

/-! ### Packets are read at HEAD (R471, R475, R481) -/

section
variable {p : Pkg} {q : Nat} {bs : List Byte} (hstate : (queueOf p q).state = .running) (hperst : p.host.perst = false)
  (hroom : outstanding (queueOf p q) < 4096) (hready : 1 ≤ unitsReady (queueOf p q))
include hstate hperst hroom hready

theorem readPacket_of_badLength (hlen : 64 ≤ bs.length) (hbad : le bs 6 2 % 64 ≠ 0 ∨ 4096 < le bs 6 2) :
    readPacket q bs p = modQueue q (fun u => { u with
      state := .stopped, reason := .format, nextNum := u.nextNum + 1
      due := u.due ++ [(parseHeader bs u.nextNum u.head).reply p stBadParam 0 0] }) p := by
  have htake : (decide (4096 ≤ outstanding (queueOf p q)) || decide (bs.length < 64)) = false := by simp; omega
  have hsome : unitsReady (queueOf p q) ≠ 0 := by omega
  have hcond : (le bs 6 2 % 64 != 0 || decide (4096 < le bs 6 2)) = true := by simpa using hbad
  simp only [Bool.or_eq_false_iff] at htake
  obtain ⟨hroom', hlen'⟩ := htake
  unfold readPacket
  simp only [hstate, hperst, hroom', hlen', hcond, beq_eq_false_iff_ne.2 hsome, bne_self_eq_false, Bool.or_self,
    Bool.false_eq_true, if_false, if_true]
  exact modQueue_congr_fun rfl

section
variable (hmod : le bs 6 2 % 64 = 0) (hmax : le bs 6 2 ≤ 4096) (hunits : 1 + le bs 6 2 / 64 ≤ unitsReady (queueOf p q))
  (hlen : bs.length = 64 + le bs 6 2)
include hmod hmax hunits hlen

/-- A whole packet goes by what its header says. -/
theorem readPacket_of_whole {after : Nat} {pk : Packet}
    (hafter : ((queueOf p q).head + 1 + le bs 6 2 / 64) % 2 ^ (queueOf p q).sqLog2 = after)
    (hpk : parseHeader bs (queueOf p q).nextNum after = pk) :
    readPacket q bs p = match headerStatus p bs pk (le bs 6 2) with
      | some st => modQueue q (fun u => { u with
          head := after, nextNum := u.nextNum + 1, due := u.due ++ [pk.reply p st 0 0] }) p
      | none => modQueue q (fun u => { u with head := after, nextNum := u.nextNum + 1, read := u.read ++ [pk] }) p := by
  have hlong : ¬ 64 + le bs 6 2 < 64 := by omega
  have hsome : unitsReady (queueOf p q) ≠ 0 := by omega
  unfold readPacket
  cases hst : headerStatus p bs pk (le bs 6 2) <;>
    simp only [hstate, hperst, hmod, hlen, hafter, hpk, hst, Nat.not_le.2 hroom, hlong, Nat.not_lt.2 hmax,
      Nat.not_lt.2 hunits, beq_eq_false_iff_ne.2 hsome, bne_self_eq_false, Bool.or_self, decide_false,
      Bool.false_eq_true, if_false]

end

end

/-- What `launchTimes` makes of a packet that waits (R481). -/
def launchedBy (p : Pkg) (k : Packet) : Packet :=
  if k.start.isNone && bit k.flags 2 && reached p k.launchAt then { k with launched := true } else k

theorem launchedBy_eq (p : Pkg) (k : Packet) : launchedBy p k = { k with
    launched := k.launched || (k.start.isNone && bit k.flags 2 && decide (k.launchAt * 65536 ≤ p.ft.count)) } := by
  unfold launchedBy reached
  cases (k.start.isNone && bit k.flags 2 && decide (k.launchAt * 65536 ≤ p.ft.count)) <;> simp

theorem exec_launchAt (q : Nat) (s : State) : exec (.launchAt q) s = .next { s with
    p := modQueue q (fun u => { u with read := u.read.map (launchedBy s.p) }) s.p } := rfl

/-- Settles O17: the header decides on a whole packet, a bad LENGTH before it; the launch times of a queue are taken packet
by packet. -/
theorem packetsAreRead : Obligations.PacketsAreRead := by
  unfold Obligations.PacketsAreRead
  refine ⟨fun s q bs hstate hperst hroom hready => ⟨fun hmod hmax hunits hlen => ⟨fun hst => ?_, fun st hst => ?_⟩,
    fun hlen hbad => ?_⟩, fun s q => ⟨_, exec_launchAt q s, rfl, fun k hk => ?_, fun qu hq => ?_⟩⟩
  · exact onP_of_eq (f := fun _ => readPacket q bs)
      ((readPacket_of_whole hstate hperst hroom hready hmod hmax hunits hlen rfl rfl).trans (by rw [hst]))
  · exact onP_of_eq (f := fun _ => readPacket q bs)
      ((readPacket_of_whole hstate hperst hroom hready hmod hmax hunits hlen rfl rfl).trans (by rw [hst]))
  · exact onP_of_eq (f := fun _ => readPacket q bs) (readPacket_of_badLength hstate hperst hroom hready hlen hbad)
  · simp only [modQueue_host, getElem?_modAt, if_neg (Ne.symm hk)]
  · refine ⟨qu.read.map (launchedBy s.p), ?_, List.length_map _, fun i pk hpk => ?_⟩
    · rw [modQueue_of_getElem? hq]
      exact List.getElem?_set_self (List.getElem?_eq_some_iff.1 hq).1
    · rw [List.getElem?_map, hpk, Option.map_some, launchedBy_eq]

/-! ### Replies are posted (R472, R477, R480) -/

/-- The fences as a reply that is posted leaves them: SIGNAL sets one when STATUS is OK (R480). -/
def fencesAfter (r : Reply) (fences : List Nat) : List Nat :=
  match r.signal with
  | some (f, v) => if r.status = stOk then fences.set f v else fences
  | none => fences

/-- The reply `r` at the front of queue `q` is posted, before its source fires. -/
def withPosted (q : Nat) (r : Reply) (rest : List Reply) (qu : Queue) (p : Pkg) : Pkg :=
  { p with
    host := { p.host with
      queues := p.host.queues.set q (advanceTail { qu with due := rest }), fences := fencesAfter r p.host.fences }
    out := { p.out with hostWrites :=
      p.out.hostWrites ++ (if r.replyAddr = 0 then [] else [⟨r.replyAddr, r.bytes qu.phase⟩]) ++
        [⟨qu.cqBase + 32 * qu.cqTail, r.bytes qu.phase⟩] } }

theorem hostWrite_of_linked {p : Pkg} (hperst : p.host.perst = false) (addr : Nat) (bs : List Byte) :
    hostWrite addr bs p = { p with out := { p.out with hostWrites := p.out.hostWrites ++ [⟨addr, bs⟩] } } := by
  simp [hostWrite, hperst]

/-- SIGNAL of a reply that is posted (R480). -/
def signalled (r : Reply) (p : Pkg) : Pkg :=
  match r.signal with
  | some (f, v) => if r.status == stOk then setFence f v p else p
  | none => p

theorem signalled_eq (r : Reply) (p : Pkg) :
    signalled r p = { p with host := { p.host with fences := fencesAfter r p.host.fences } } := by
  unfold signalled fencesAfter
  cases r.signal with
  | none => rfl
  | some x => by_cases hst : r.status = stOk <;> simp [setFence, hst]

/-- The two copies of a reply: at its reply address, if it has one, and in the ring. -/
theorem hostWrite_copies {p : Pkg} (hperst : p.host.perst = false) (a b : Nat) (bs : List Byte) :
    hostWrite b bs (if a == 0 then p else hostWrite a bs p) = { p with out := { p.out with
      hostWrites := p.out.hostWrites ++ (if a = 0 then [] else [⟨a, bs⟩]) ++ [⟨b, bs⟩] } } := by
  by_cases ha : a = 0 <;> simp [hostWrite, hperst, ha]

theorem postReply_of_room {p : Pkg} {q : Nat} {r : Reply} {rest : List Reply} {qu : Queue}
    (hq : p.host.queues[q]? = some qu) (hdue : qu.due = r :: rest) (hstate : qu.state ≠ .disabled)
    (hperst : p.host.perst = false) (hroom : (qu.cqTail + 1) % 2 ^ qu.cqLog2 ≠ qu.cqHead) :
    postReply q p = if r.quiet then withPosted q r rest qu p else raise (256 + q) (withPosted q r rest qu p) := by
  have hstate' : (qu.state == QState.disabled) = false := beq_eq_false_iff_ne.2 hstate
  have hroom' : ringRoom qu = true := by simpa [ringRoom] using hroom
  have hsteps : signalled r (modQueue q (fun u => advanceTail { u with due := rest })
      (hostWrite (qu.cqBase + 32 * qu.cqTail) (r.bytes qu.phase)
        (if r.replyAddr == 0 then p else hostWrite r.replyAddr (r.bytes qu.phase) p))) = withPosted q r rest qu p := by
    rw [signalled_eq, hostWrite_copies hperst]
    simp only [modQueue, modAt_of_getElem? hq]
    rfl
  rw [← hsteps]
  unfold postReply
  simp only [queueOf_of_getElem? hq, hdue, hstate', hperst, hroom', Bool.not_true, Bool.or_self, Bool.false_eq_true,
    if_false]
  rfl

/-- Settles O18: `withPosted` is what the post makes of the queue, the fences and the writes. -/
theorem repliesArePosted : Obligations.RepliesArePosted := by
  unfold Obligations.RepliesArePosted
  intro s q r rest qu hq hdue hstate hperst hroom
  refine ⟨withPosted q r rest qu s.p,
    onP_of_eq (f := fun _ => postReply q) (postReply_of_room hq hdue hstate hperst hroom), ?_, rfl, rfl, rfl⟩
  simp [withPosted, advanceTail]

end Sys2Proof.Machine
end

section
/-! PROOFS. Single bits of masks and tables, and the flits that leave on a lane group: what a change of a group leaves of
the others, and the one flit that a group with room sends. -/

namespace Sys2Proof.Machine

/-! ### Bits -/

theorem bit_clearBit (v i j : Nat) : bit (clearBit v i) j = (bit v j && !decide (i = j)) := by
  unfold clearBit
  by_cases hv : bit v i = true
  · rw [if_pos hv]
    simp only [bit_testBit] at hv ⊢
    have hodd : v / 2 ^ i % 2 = 1 := by simpa [bit] using (bit_testBit v i).trans hv
    have hpos := Nat.two_pow_pos i
    have hr : v % 2 ^ i < 2 ^ i := Nat.mod_lt _ hpos
    have hhalf : v / 2 ^ i = 2 * (v / 2 ^ i / 2) + 1 := by omega
    have hsplit : v = 2 ^ i * (2 * (v / 2 ^ i / 2) + 1) + v % 2 ^ i := by
      rw [← hhalf]
      exact (Nat.div_add_mod v (2 ^ i)).symm
    have hsub : v - 2 ^ i = 2 ^ i * (2 * (v / 2 ^ i / 2)) + v % 2 ^ i := by
      rw [Nat.mul_add, Nat.mul_one] at hsplit
      omega
    rw [hsub]
    conv_rhs => rw [hsplit]
    rw [Nat.testBit_two_pow_mul_add _ hr, Nat.testBit_two_pow_mul_add _ hr]
    by_cases hj : j < i
    · simp [hj, Nat.ne_of_gt hj]
    · rw [if_neg hj, if_neg hj]
      cases hk : j - i with
      | zero => simp [show i = j by omega]
      | succ k =>
        rw [Nat.testBit_succ, Nat.testBit_succ, show (2 * (v / 2 ^ i / 2) + 1) / 2 = 2 * (v / 2 ^ i / 2) / 2 by omega]
        simp [show i ≠ j by omega]
  · rw [if_neg hv]
    by_cases hij : i = j
    · subst hij
      simp [hv]
    · simp [hij]

theorem bit_zero (i : Nat) : bit 0 i = false := by simp [bit]

theorem bit_putBit (v i j : Nat) (b : Bool) : bit (putBit v i b) j = if i = j then b else bit v j := by
  cases b
  · by_cases hij : i = j <;> simp [putBit, bit_clearBit, hij]
  · by_cases hij : i = j <;> simp [putBit, bit_setBit, hij]

theorem wordBit_putWordBit {l : List Nat} {s x : Nat} {b : Bool} (hs : s / 32 < l.length) :
    wordBit (putWordBit l s b) x = if s = x then b else wordBit l x := by
  simp only [wordBit, putWordBit, modAt_getD]
  by_cases hw : s / 32 = x / 32
  · rw [if_pos ⟨hw, hw ▸ hs⟩, bit_putBit]
    by_cases hx : s = x
    · simp [hx]
    · rw [if_neg hx, if_neg (by omega)]
  · rw [if_neg (fun h => hw h.1), if_neg (by rintro rfl; exact hw rfl)]

/-- A cleared bit of a table; a word that the table lacks reads 0. -/
theorem wordBit_putWordBit_false (l : List Nat) (s x : Nat) :
    wordBit (putWordBit l s false) x = (wordBit l x && !decide (s = x)) := by
  by_cases hs : s / 32 < l.length
  · rw [wordBit_putWordBit hs]
    by_cases hx : s = x <;> simp [hx]
  · have hnone : l[s / 32]? = none := List.getElem?_eq_none (Nat.not_lt.1 hs)
    have hzero : wordBit l s = false := by
      rw [wordBit, List.getD_eq_getElem?_getD, hnone]
      exact bit_zero _
    rw [putWordBit, modAt, hnone]
    by_cases hx : s = x
    · subst hx
      simp [hzero]
    · simp [hx]

theorem modAt_modAt {α : Type} (l : List α) (i : Nat) (f g : α → α) :
    modAt (modAt l i f) i g = modAt l i fun x => g (f x) := by
  cases h : l[i]? with
  | none => simp only [modAt, h]
  | some a =>
    obtain ⟨hi, -⟩ := List.getElem?_eq_some_iff.1 h
    rw [modAt_of_getElem? h, modAt_of_getElem? h, modAt_of_getElem? (List.getElem?_set_self hi), List.set_set]

/-! ### Lane groups -/

theorem groupAt_id (x : Die) (g : Nat) : (groupAt x g).id = g := by
  unfold groupAt
  cases h : x.groups.find? (fun y => y.id == g) with
  | none => rfl
  | some y => simpa using List.find?_some h

theorem groupAt_setGroup_self (y : Group) (x : Die) : groupAt (setGroup y x) y.id = y := by
  simp [groupAt, setGroup]

theorem groupAt_setGroup_ne {y : Group} {g : Nat} (h : y.id ≠ g) (x : Die) : groupAt (setGroup y x) g = groupAt x g := by
  have hfilter : (x.groups.filter fun z => z.id != y.id).find? (fun z => z.id == g) =
      x.groups.find? (fun z => z.id == g) := by
    rw [List.find?_filter]
    congr 1
    funext z
    by_cases hz : z.id = g <;> simp [hz, Ne.symm h]
  simp [groupAt, setGroup, h, hfilter]

theorem laneGroup_id (p : Pkg) (d g : Nat) : (laneGroup p d g).id = g := groupAt_id _ _

section
variable {p : Pkg} {d : Nat} (hd : d < p.dies.length)
include hd

theorem die_modDie_self (f : Die → Die) : (modDie d f p).dies.getD d {} = f (p.dies.getD d {}) := by
  rw [modDie_dies, getD_modAt_self _ _ _ _ hd]

theorem laneGroup_modLaneGroup_self {f : Group → Group} {g : Nat} (hf : (f (laneGroup p d g)).id = g) :
    laneGroup (modLaneGroup d g f p) d g = f (laneGroup p d g) := by
  unfold laneGroup modLaneGroup
  rw [die_modDie_self hd]
  exact (congrArg _ hf.symm).trans (groupAt_setGroup_self _ _)

end

theorem die_modDie_ne {d e : Nat} (h : d ≠ e) (f : Die → Die) (p : Pkg) :
    (modDie d f p).dies.getD e {} = p.dies.getD e {} := by
  rw [modDie_dies, getD_modAt_ne _ _ _ _ _ h]

theorem laneGroup_modLaneGroup_ne {d g e k : Nat} (h : ¬ (d = e ∧ g = k)) {f : Group → Group} {p : Pkg}
    (hf : (f (laneGroup p d g)).id = g) : laneGroup (modLaneGroup d g f p) e k = laneGroup p e k := by
  unfold laneGroup modLaneGroup
  by_cases hde : d = e
  · subst hde
    by_cases hd : d < p.dies.length
    · rw [die_modDie_self hd]
      exact groupAt_setGroup_ne (by rw [show (f (groupAt _ g)).id = g from hf]; exact fun hg => h ⟨rfl, hg⟩) _
    · rw [modDie_dies, modAt_getD, if_neg (fun hc => hd hc.2)]
  · rw [die_modDie_ne hde]

@[simp] theorem modDie_length (d : Nat) (f : Die → Die) (p : Pkg) : (modDie d f p).dies.length = p.dies.length :=
  length_modAt _ _ _

/-! ### Flits that leave (R423, R425) -/

@[simp] theorem length_padTo (n : Nat) (bs : List Byte) : (padTo n bs).length = n := by
  simp [padTo]
  omega

@[simp] theorem padTo_padTo (n : Nat) (bs : List Byte) : padTo n (padTo n bs) = padTo n bs := by
  rw [padTo, length_padTo, Nat.sub_self, List.replicate_zero, List.append_nil]
  exact List.take_of_length_le (length_padTo n bs).le

theorem flitCrc_padTo (h : FlitHdr) (data : List Byte) : flitCrc h (padTo 128 data) = flitCrc h data := by
  simp [flitCrc]

/-- What a flit that leaves makes of its group: the credits it carries are owed no more. -/
def afterFlit (y : Group) : Group :=
  let f := ((List.range 3).find? fun f => 0 < y.owed.getD f 0).getD 0
  { y with owed := modAt y.owed f fun v => v - min 63 (y.owed.getD f 0) }

/-- The flit that leaves for the header `h`: with the ACK of the moment and the credits of the lowest FLOW that is owed any. -/
def flitOut (d g : Nat) (y : Group) (h : FlitHdr) (data : List Byte) : WdiOut :=
  let f := ((List.range 3).find? fun f => 0 < y.owed.getD f 0).getD 0
  let k := { h with ack := (y.rxSeq + 1023) % 1024, cflow := f, credit := min 63 (y.owed.getD f 0) }
  ⟨d, g, k, padTo 128 data, flitCrc k data⟩

theorem modDie_congr {d : Nat} {f h : Die → Die} {p : Pkg} (hf : f (p.dies.getD d {}) = h (p.dies.getD d {})) :
    modDie d f p = modDie d h p := by
  rw [modDie, modDie, modAt_congr_getD hf]

theorem modDie_modDie (d : Nat) (f h : Die → Die) (p : Pkg) : modDie d h (modDie d f p) = modDie d (fun x => h (f x)) p := by
  rw [modDie, modDie, modDie, modAt_modAt]

theorem modLaneGroup_congr {d g : Nat} {f h : Group → Group} {p : Pkg} (hf : f (laneGroup p d g) = h (laneGroup p d g)) :
    modLaneGroup d g f p = modLaneGroup d g h p :=
  modDie_congr (congrArg (fun y => setGroup y (p.dies.getD d {})) hf)

theorem setGroup_setGroup {y z : Group} (h : z.id = y.id) (x : Die) : setGroup z (setGroup y x) = setGroup z x := by
  simp [setGroup, h, List.filter_filter]

/-- Two changes of a group are one. -/
theorem modLaneGroup_modLaneGroup {d g : Nat} {f h : Group → Group} (hf : ∀ y, (f y).id = y.id) (hh : ∀ y, (h y).id = y.id)
    (p : Pkg) : modLaneGroup d g h (modLaneGroup d g f p) = modLaneGroup d g (fun y => h (f y)) p := by
  have hid (x : Die) : (f (groupAt x g)).id = g := (hf _).trans (groupAt_id x g)
  unfold modLaneGroup
  rw [modDie_modDie]
  refine modDie_congr ?_
  have hself : groupAt (setGroup (f (groupAt (p.dies.getD d {}) g)) (p.dies.getD d {})) g =
      f (groupAt (p.dies.getD d {}) g) := (congrArg _ (hid _).symm).trans (groupAt_setGroup_self _ _)
  rw [hself, setGroup_setGroup (hh _)]

theorem putFlit_eq (d g : Nat) (h : FlitHdr) (data : List Byte) (p : Pkg) :
    putFlit d g h data p = { modLaneGroup d g afterFlit p with
      out := { p.out with wdi := p.out.wdi ++ [flitOut d g (laneGroup p d g) h data] } } := by
  rw [← modLaneGroup_congr (f := fun y => { y with owed := modAt y.owed _ fun v => v - _ }) rfl]
  rfl

@[simp] theorem putFlit_ic (d g : Nat) (h : FlitHdr) (data : List Byte) (p : Pkg) : (putFlit d g h data p).ic = p.ic := rfl

theorem drainFlits_ic (d g : Nat) (p : Pkg) : (drainFlits d g p).ic = p.ic :=
  foldl_view Pkg.ic (f := fun q x => launchFlit d g x q) (fun _ _ => rfl) _ _

theorem sendFlit_ic (d g type flow tag dest : Nat) (data : List Byte) (p : Pkg) :
    (sendFlit d g type flow tag dest data p).ic = p.ic := drainFlits_ic _ _ _

theorem sendRequest_ic (d : Nat) (o : Option (Nat × Nat × Nat)) (r : WdiReq) (p : Pkg) :
    (sendRequest d o r p).ic = p.ic := sendFlit_ic ..

/-- A lane group on which a flit leaves at once (R425): it does not train, none waits, and the replay buffer has room. -/
def RoomOn (y : Group) : Prop := y.retraining = false ∧ y.queue = [] ∧ y.sent.length < 512

/-- What a flit with the header `h` makes of its group: it takes the next SEQ and a place in the replay buffer. -/
def afterLaunch (h : FlitHdr) (data : List Byte) (y : Group) : Group :=
  afterFlit { y with txSeq := (y.txSeq + 1) % 1024, sent := y.sent ++ [({ h with seq := y.txSeq }, data)] }

theorem launchFlit_eq {p : Pkg} {d g : Nat} (hd : d < p.dies.length) (x : FlitHdr × List Byte) :
    launchFlit d g x p = { modLaneGroup d g (afterLaunch x.1 x.2) p with
      out := { p.out with wdi := p.out.wdi ++
        [flitOut d g (laneGroup p d g) { x.1 with seq := (laneGroup p d g).txSeq } x.2] } } := by
  unfold launchFlit
  dsimp only
  rw [putFlit_eq, modLaneGroup_modLaneGroup, laneGroup_modLaneGroup_self hd (laneGroup_id p d g),
    modLaneGroup_congr (h := afterLaunch x.1 x.2)]
  · rfl
  · rfl
  · exact fun _ => rfl
  · exact fun _ => rfl

/-- The flit that waits alone leaves. -/
theorem drainFlits_of_one {p : Pkg} {d g : Nat} (hd : d < p.dies.length) {x : FlitHdr × List Byte}
    (htrain : (laneGroup p d g).retraining = false) (hlen : (laneGroup p d g).sent.length < 512)
    (hqueue : (laneGroup p d g).queue = [x]) :
    drainFlits d g p = { modLaneGroup d g (fun y => afterLaunch x.1 x.2 { y with queue := [] }) p with
      out := { p.out with wdi := p.out.wdi ++
        [flitOut d g (laneGroup p d g) { x.1 with seq := (laneGroup p d g).txSeq } x.2] } } := by
  obtain ⟨n, hn⟩ : ∃ n, 512 - (laneGroup p d g).sent.length = n + 1 := ⟨511 - (laneGroup p d g).sent.length, by omega⟩
  have hd' (f : Group → Group) : d < (modLaneGroup d g f p).dies.length := by simpa [modLaneGroup] using hd
  unfold drainFlits
  simp only [htrain, hqueue, hn, Bool.false_eq_true, if_false, List.take_succ_cons, List.take_nil, List.foldl_cons,
    List.foldl_nil]
  rw [launchFlit_eq (hd' _), modLaneGroup_modLaneGroup, laneGroup_modLaneGroup_self hd (laneGroup_id p d g),
    modLaneGroup_congr (h := fun y => afterLaunch x.1 x.2 { y with queue := [] })]
  · rfl
  · rw [hqueue, List.drop_succ_cons, List.drop_nil]
  · exact fun _ => rfl
  · exact fun _ => rfl

/-- A flit leaves at once where the group has room, and takes the next SEQ. -/
theorem sendFlit_of_room {p : Pkg} {d g : Nat} (hd : d < p.dies.length) (hroom : RoomOn (laneGroup p d g))
    (type flow tag dest : Nat) (data : List Byte) :
    sendFlit d g type flow tag dest data p = {
      modLaneGroup d g (afterLaunch ⟨type, flow, 0, 0, false, 0, 0, tag, dest⟩ data) p with
      out := { p.out with wdi := p.out.wdi ++
        [flitOut d g (laneGroup p d g) ⟨type, flow, (laneGroup p d g).txSeq, 0, false, 0, 0, tag, dest⟩ data] } } := by
  obtain ⟨htrain, hqueue, hlen⟩ := hroom
  unfold sendFlit
  have hself := laneGroup_modLaneGroup_self (p := p) (g := g) hd
    (f := fun y => { y with queue := y.queue ++ [(⟨type, flow, 0, 0, false, 0, 0, tag, dest⟩, data)] }) (laneGroup_id p d g)
  rw [drainFlits_of_one (x := (⟨type, flow, 0, 0, false, 0, 0, tag, dest⟩, data)) (by simpa [modLaneGroup] using hd)
    (by rw [hself]; exact htrain) (by rw [hself]; exact hlen) (by rw [hself, hqueue]; rfl), hself,
    modLaneGroup_modLaneGroup, modLaneGroup_congr (h := afterLaunch ⟨type, flow, 0, 0, false, 0, 0, tag, dest⟩ data)]
  · rfl
  · simp only [afterLaunch, afterFlit, ← hqueue]
  · exact fun _ => rfl
  · exact fun _ => rfl

end Sys2Proof.Machine
end

section
/-! PROOFS. Interrupts (O19, O20, O21): what a change of the controller's tables leaves of the other tables, what an event of
a source does, and the source that a firmware target is given. -/

namespace Sys2Proof.Machine

/-! ### What deliveries leave of the controller's tables -/

/-- The tables that host software writes stand: a delivery changes pending bits, choices and running priorities alone. -/
def SameTables (a b : Ic) : Prop := b = { a with pend := b.pend, chosen := b.chosen, running := b.running }

theorem SameTables.trans {a b c : Ic} (h1 : SameTables a b) (h2 : SameTables b c) : SameTables a c := by
  unfold SameTables at *
  rw [h2, h1]

theorem icTake_tables (s : Nat) (p : Pkg) : SameTables p.ic (icTake s p).ic := by
  unfold icTake
  split <;> rfl

theorem sendMsix_ic (v : Nat) (p : Pkg) : (sendMsix v p).ic = p.ic := by
  unfold sendMsix
  split <;> rfl

/-- A delivery makes the PRIO of its source the running priority, and clears the pending bit (R464). -/
def delivered (t s : Nat) (p : Pkg) : Ic :=
  { (icClear s p).ic with running := modAt p.ic.running t fun st => p.ic.prio.getD s 0 :: st }

theorem icDeliver_ic {t s : Nat} {p : Pkg} (hup : targetUp p t = true) (hbest : bestSource p t = some s) :
    (icDeliver t p).ic = delivered t s p := by
  unfold icDeliver
  rw [hup, if_pos rfl, hbest]
  dsimp only
  split
  · rw [sendRequest_ic]
    rfl
  · rfl

theorem icDeliver_of_none {t : Nat} {p : Pkg} (h : targetUp p t = false ∨ bestSource p t = none) : icDeliver t p = p := by
  unfold icDeliver
  cases hup : targetUp p t with
  | false => rfl
  | true => rw [if_pos rfl, h.resolve_left (by simp [hup])]

theorem icDeliver_tables (t : Nat) (p : Pkg) : SameTables p.ic (icDeliver t p).ic := by
  cases hup : targetUp p t with
  | false =>
    rw [icDeliver_of_none (.inl hup)]
    rfl
  | true =>
    cases hbest : bestSource p t with
    | none =>
      rw [icDeliver_of_none (.inr hbest)]
      rfl
    | some s =>
      rw [icDeliver_ic hup hbest]
      rfl

theorem icAct_tables (s : Nat) (p : Pkg) : SameTables p.ic (icAct s p).ic := by
  unfold icAct
  split
  · split
    · rw [sendMsix_ic]
      rfl
    · exact icDeliver_tables _ _
  · rfl

theorem icChange_tables (srcs : List Nat) (f : Pkg → Pkg) (p : Pkg) : SameTables (f p).ic (icChange srcs f p).ic := by
  unfold icChange
  generalize srcs.filter _ = l
  generalize f p = q
  induction l generalizing q with
  | nil => rfl
  | cons s l ih => exact (icAct_tables s q).trans (ih _)

/-! ### Writes of the controller by host software (R458 to R463) -/

/-- Clearing sources one by one clears their pending bits and no other. -/
theorem foldl_icClear (l : List Nat) (p : Pkg) :
    ∃ t : Ic, l.foldl (fun q s => icClear s q) p = { p with ic := t } ∧
      (∀ x, wordBit t.pend x = (wordBit p.ic.pend x && !decide (x ∈ l))) ∧
      t = { p.ic with pend := t.pend, chosen := t.chosen } := by
  induction l generalizing p with
  | nil => exact ⟨p.ic, rfl, fun x => by simp, rfl⟩
  | cons s l ih =>
    obtain ⟨t, ht, hpend, hrest⟩ := ih (icClear s p)
    refine ⟨t, ht, fun x => ?_, hrest⟩
    rw [hpend x]
    simp only [icClear, setChosen, wordBit_putWordBit_false, List.mem_cons, Bool.decide_or, Bool.not_or, Bool.and_assoc,
      eq_comm (a := s)]

theorem mem_wordSources {w x : Nat} : x ∈ wordSources w ↔ x / 32 = w := by
  simp only [wordSources, List.mem_map, List.mem_range]
  constructor
  · rintro ⟨b, hb, rfl⟩
    omega
  · intro h
    exact ⟨x % 32, Nat.mod_lt _ (by decide), by omega⟩

section
variable {s : State} (hopen : hostOpen s.p = true) {v : Nat}
include hopen

theorem exec_icPendClear_of_hostOpen {w : Nat} (hlo : 8 ≤ w) (hhi : w < 32) :
    exec (.icPendClear w v) s = .next { s with p := clearPend w v s.p } := by
  simp [exec, execIcPendClear, hostWord, hlo, hhi, hopen]

theorem maskCommand_of_hostOpen {w : Nat} (hlo : 8 ≤ w) (hhi : w < 32) (f : Nat → Nat) :
    maskCommand w f s = .next { s with p := setMaskWord w (f (s.p.ic.mask.getD w 0)) s.p } := by
  simp [maskCommand, hostWord, hlo, hhi, hopen]

theorem exec_icSrcPrioWrite_of_hostOpen {src : Nat} (hlo : 256 ≤ src) (hhi : src < 1024) (hv : v < 16) :
    exec (.icSrcPrioWrite src v) s = .next { s with p := setPrio src v s.p } := by
  simp [exec, execIcSrcPrioWrite, hostSource, hlo, hhi, hv, hopen]

theorem exec_icSrcTargetWrite_of_hostOpen {src : Nat} (hlo : 256 ≤ src) (hhi : src < 1024) (hv : targetOk v = true) :
    exec (.icSrcTargetWrite src v) s = .next { s with p := setTarget src v s.p } := by
  simp [exec, execIcSrcTargetWrite, hostSource, hlo, hhi, hv, hopen]

theorem exec_icThreshWrite_of_hostOpen {g : Nat} (hlo : 32 ≤ g) (hhi : g < 96) (hv : v < 16) :
    exec (.icThreshWrite g v) s = .next { s with p := setThresh g v s.p } := by
  simp [exec, execIcThreshWrite, hlo, hhi, hv, hopen]

end

theorem setMaskWord_tables (w : Nat) (f : Nat → Nat) (p : Pkg) :
    SameTables { p.ic with mask := modAt p.ic.mask w f } (setMaskWord w (f (p.ic.mask.getD w 0)) p).ic := by
  rw [← modAt_congr_getD (f := fun _ => f (p.ic.mask.getD w 0)) rfl]
  exact icChange_tables _ _ p

theorem setPrio_tables (src v : Nat) (p : Pkg) :
    SameTables { p.ic with prio := modAt p.ic.prio src fun _ => v } (setPrio src v p).ic := by
  have htab := icChange_tables [src] (fun p => { p with ic.prio := modAt p.ic.prio src fun _ => v }) p
  have hclear (q : Pkg) : SameTables q.ic (icClear src q).ic := rfl
  unfold setPrio
  split
  · exact htab.trans (hclear _)
  · exact htab

/-- PRIO 0 also clears the pending bit (R461). -/
theorem setPrio_zero (src : Nat) (p : Pkg) : wordBit (setPrio src 0 p).ic.pend src = false := by
  show wordBit (icClear src _).ic.pend src = false
  simp [icClear, setChosen, wordBit_putWordBit_false]

theorem setTarget_tables (src v : Nat) (p : Pkg) :
    SameTables { p.ic with target := modAt p.ic.target src fun _ => v } (setTarget src v p).ic := by
  have htab := icChange_tables [src] (fun p =>
    let p := setChosen ⟨src, none, none⟩ { p with ic.target := modAt p.ic.target src fun _ => v }
    if wordBit p.ic.pend src then icTake src p else p) p
  refine SameTables.trans ?_ htab
  dsimp only
  split
  · exact SameTables.trans (b := (setChosen ⟨src, none, none⟩
      { p with ic.target := modAt p.ic.target src fun _ => v }).ic) rfl (icTake_tables _ _)
  · rfl

theorem setThresh_tables (g v : Nat) (p : Pkg) :
    SameTables { p.ic with thresh := modAt p.ic.thresh g fun _ => v } (setThresh g v p).ic :=
  icChange_tables (pendingSources p) (fun p => { p with ic.thresh := modAt p.ic.thresh g fun _ => v }) p

/-- Settles O19: a pending word is cleared source by source; every other write is a change of one table, after which only
deliveries follow. -/
theorem interruptRegisters : Obligations.InterruptRegisters := by
  unfold Obligations.InterruptRegisters
  intro s v hup hperst
  have hopen : hostOpen s.p = true := (hostOpen_iff _).2 ⟨hup, hperst⟩
  refine ⟨fun w hlo hhi => ?_, fun w c f hlo hhi hc => ?_, fun src hlo hhi hv => ?_, fun src hlo hhi hv => ?_,
    fun g hlo hhi hv => ?_⟩
  · obtain ⟨t, ht, hpend, hrest⟩ := foldl_icClear
      ((wordSources w).filter fun x => bit v (x % 32) && wordBit s.p.ic.pend x) s.p
    refine ⟨t, ?_, fun x => ?_, hrest⟩
    · rw [exec_icPendClear_of_hostOpen hopen hlo hhi, clearPend, ht]
    · rw [hpend x]
      cases hx : wordBit s.p.ic.pend x with
      | false => rfl
      | true => simp [hx, mem_wordSources, beq_eq_decide]
  · have hmask : exec c s = maskCommand w f s := by
      rcases hc with ⟨rfl, rfl⟩ | ⟨rfl, rfl⟩ | ⟨rfl, rfl⟩ <;> rfl
    have htab := setMaskWord_tables w f s.p
    have hword : (setMaskWord w (f (s.p.ic.mask.getD w 0)) s.p).ic.mask = modAt s.p.ic.mask w f := by rw [htab]
    refine ⟨_, hmask.trans (maskCommand_of_hostOpen hopen hlo hhi f), hword, Eq.trans htab ?_, setMaskWord_frame _ _ _⟩
    rw [hword]
  · have htab := setPrio_tables src v s.p
    have hprio : (setPrio src v s.p).ic.prio = modAt s.p.ic.prio src fun _ => v := by rw [htab]
    refine ⟨_, exec_icSrcPrioWrite_of_hostOpen hopen hlo hhi hv, hprio, ?_, Eq.trans htab ?_, setPrio_frame _ _ _⟩
    · rintro rfl
      exact setPrio_zero src s.p
    · rw [hprio]
  · have htab := setTarget_tables src v s.p
    have htarget : (setTarget src v s.p).ic.target = modAt s.p.ic.target src fun _ => v := by rw [htab]
    refine ⟨_, exec_icSrcTargetWrite_of_hostOpen hopen hlo hhi hv, htarget, Eq.trans htab ?_, setTarget_frame _ _ _⟩
    rw [htarget]
  · have htab := setThresh_tables g v s.p
    have hthresh : (setThresh g v s.p).ic.thresh = modAt s.p.ic.thresh g fun _ => v := by rw [htab]
    refine ⟨_, exec_icThreshWrite_of_hostOpen hopen hlo hhi hv, hthresh, Eq.trans htab ?_, setThresh_frame g v s.p⟩
    rw [hthresh]

/-! ### The event of a source (R461, R462) -/

theorem raise_of_pending {p : Pkg} {src : Nat} (hprio : p.ic.prio.getD src 0 ≠ 0) (hpend : wordBit p.ic.pend src = true) :
    raise src p = { p with ic := { p.ic with merged := min 0xFFFF (p.ic.merged + 1) } } := by
  rw [raise, if_neg (by simpa using hprio), if_pos hpend]
  rfl

/-- The source takes its target, with its bit set, before anything is delivered. -/
def withPending (src t : Nat) (p : Pkg) : Pkg :=
  setChosen ⟨src, some t, some t⟩ { p with ic := { p.ic with pend := putWordBit p.ic.pend src true } }

theorem icTarget_withPending (src t : Nat) (p : Pkg) : icTarget (withPending src t p) src = some t := by
  simp [icTarget, icChosen, withPending, setChosen]

theorem eligible_withPending {p : Pkg} {src t : Nat} (hlen : src / 32 < p.ic.pend.length) :
    eligible (withPending src t p) src =
      (!wordBit p.ic.mask src && decide (p.ic.thresh.getD t 0 < p.ic.prio.getD src 0)) := by
  have hbit : wordBit (withPending src t p).ic.pend src = true := by
    rw [withPending, setChosen, wordBit_putWordBit hlen, if_pos rfl]
  rw [eligible, icTarget_withPending, hbit]
  rfl

theorem raise_of_new {p : Pkg} {src t : Nat} (hprio : p.ic.prio.getD src 0 ≠ 0) (hpend : wordBit p.ic.pend src = false)
    (htarget : icTarget p src = some t) (hlen : src / 32 < p.ic.pend.length) :
    raise src p = if wordBit p.ic.mask src = false ∧ p.ic.thresh.getD t 0 < p.ic.prio.getD src 0 then
      icAct src (withPending src t p) else withPending src t p := by
  have htake : icTake src { p with ic := { p.ic with pend := putWordBit p.ic.pend src true } } = withPending src t p := by
    unfold icTake
    rw [show icTarget { p with ic := { p.ic with pend := putWordBit p.ic.pend src true } } src = some t from htarget]
    rfl
  have hnot : eligible p src = false := by simp [eligible, hpend]
  rw [raise, if_neg (by simpa using hprio), if_neg (by simp [hpend]), icChange, htake]
  simp only [List.filter_cons, List.filter_nil, hnot, eligible_withPending hlen, Bool.not_false, Bool.true_and,
    Bool.and_eq_true, Bool.not_eq_true', decide_eq_true_eq]
  split <;> rfl

/-- Settles O20: a new event of a source with a vector sets its bit, and sends at most the one message. -/
theorem sourceEvents : Obligations.SourceEvents := by
  unfold Obligations.SourceEvents
  intro p src hsrc hlen
  have hword : src / 32 < p.ic.pend.length := by omega
  refine ⟨raise_off, raise_of_pending, fun v hprio hpend htarget => ?_⟩
  have hbits (x : Nat) : wordBit (withPending src (32 + v) p).ic.pend x = if src = x then true else wordBit p.ic.pend x :=
    wordBit_putWordBit hword
  have hact : icAct src (withPending src (32 + v) p) = sendMsix v (withPending src (32 + v) p) := by
    rw [icAct, icTarget_withPending]
    simp
  have hpend' : (raise src p).ic.pend = (withPending src (32 + v) p).ic.pend := by
    rw [raise_of_new hprio hpend htarget hword, hact]
    split
    · rw [sendMsix_ic]
    · rfl
  refine ⟨?_, fun x hx => ?_, ?_⟩
  · rw [hpend', hbits, if_pos rfl]
  · rw [hpend', hbits, if_neg (Ne.symm hx)]
  · rw [raise_of_new hprio hpend htarget hword, hact]
    by_cases hel : wordBit p.ic.mask src = false ∧ p.ic.thresh.getD (32 + v) 0 < p.ic.prio.getD src 0
    · rw [if_pos hel]
      simp only [sendMsix, withPending, setChosen, Bool.and_eq_true, Bool.not_eq_true', and_assoc, hel, true_and]
      split <;> simp
    · rw [if_neg hel, if_neg (fun h => hel ⟨h.1, h.2.1⟩), List.append_nil]
      rfl

/-! ### The source that a firmware target is given (R464) -/

/-- The better of two sources by PRIO, the earlier on a tie. -/
def higherOf (prio : Nat → Nat) (best : Option Nat) (s : Nat) : Option Nat :=
  match best with
  | none => some s
  | some b => if prio b < prio s then some s else some b

theorem foldl_higherOf_isSome (prio : Nat → Nat) (l : List Nat) {b : Option Nat} (hb : b.isSome) :
    (l.foldl (higherOf prio) b).isSome := by
  induction l generalizing b with
  | nil => exact hb
  | cons s l ih =>
    refine ih ?_
    unfold higherOf
    split
    · rfl
    · split <;> rfl

theorem foldl_higherOf_eq_none {prio : Nat → Nat} {l : List Nat} (h : l.foldl (higherOf prio) none = none) : l = [] := by
  cases l with
  | nil => rfl
  | cons s l =>
    have hsome := foldl_higherOf_isSome prio l (b := some s) rfl
    rw [show l.foldl (higherOf prio) (some s) = none from h] at hsome
    cases hsome

/-- Along a list in ascending order the fold ends with the first of the greatest. -/
theorem foldl_higherOf_eq_some {prio : Nat → Nat} {l : List Nat} (hl : l.Pairwise (· < ·)) {b : Nat}
    (h : l.foldl (higherOf prio) none = some b) : b ∈ l ∧ ∀ x ∈ l, prio x < prio b ∨ (prio x = prio b ∧ b ≤ x) := by
  induction l using List.reverseRecOn generalizing b with
  | nil => cases h
  | append_singleton l s ih =>
    obtain ⟨hl', -, hlast⟩ := List.pairwise_append.1 hl
    rw [List.foldl_append] at h
    cases hfold : l.foldl (higherOf prio) none with
    | none =>
      obtain rfl := foldl_higherOf_eq_none hfold
      obtain rfl : s = b := by simpa [higherOf] using h
      simp
    | some c =>
      obtain ⟨hmem, hbest⟩ := ih hl' hfold
      have hc : (if prio c < prio s then some s else some c) = some b := by
        rw [hfold] at h
        exact h
      have hcs := hlast c hmem s (List.mem_singleton_self s)
      split at hc
      next hlt =>
        obtain rfl := Option.some.inj hc
        refine ⟨by simp, fun x hx => ?_⟩
        rcases List.mem_append.1 hx with hx | hx
        · rcases hbest x hx with hx | hx <;> omega
        · simp [List.mem_singleton.1 hx]
      next hge =>
        obtain rfl := Option.some.inj hc
        refine ⟨List.mem_append_left _ hmem, fun x hx => ?_⟩
        rcases List.mem_append.1 hx with hx | hx
        · exact hbest x hx
        · rw [List.mem_singleton.1 hx]
          omega

/-- The sources that a firmware target may be given, in ascending order. -/
def candidates (p : Pkg) (t : Nat) : List Nat :=
  (List.range 1024).filter fun s => eligible p s && icTarget p s == some t && runningPrio p t < p.ic.prio.getD s 0

theorem mem_candidates {p : Pkg} {t s : Nat} : s ∈ candidates p t ↔
    s < 1024 ∧ eligible p s = true ∧ icTarget p s = some t ∧ runningPrio p t < p.ic.prio.getD s 0 := by
  simp [candidates, and_assoc]

theorem bestSource_eq (p : Pkg) (t : Nat) :
    bestSource p t = (candidates p t).foldl (higherOf fun s => p.ic.prio.getD s 0) none := rfl

theorem bestSource_none {p : Pkg} {t : Nat} (h : bestSource p t = none) {x : Nat} (hx : x < 1024)
    (hel : eligible p x = true) (htarget : icTarget p x = some t) : p.ic.prio.getD x 0 ≤ runningPrio p t := by
  have hnil := foldl_higherOf_eq_none ((bestSource_eq p t).symm.trans h)
  by_contra hlt
  have hmem : x ∈ candidates p t := mem_candidates.2 ⟨hx, hel, htarget, Nat.not_le.1 hlt⟩
  rw [hnil] at hmem
  exact List.not_mem_nil hmem

theorem bestSource_some {p : Pkg} {t s : Nat} (h : bestSource p t = some s) :
    s ∈ candidates p t ∧ ∀ x ∈ candidates p t, p.ic.prio.getD x 0 < p.ic.prio.getD s 0 ∨
      (p.ic.prio.getD x 0 = p.ic.prio.getD s 0 ∧ s ≤ x) :=
  foldl_higherOf_eq_some (List.pairwise_lt_range.filter _) ((bestSource_eq p t).symm.trans h)

/-- The INTERRUPT request of a delivery to a control core (R465). -/
def interruptRequest (t s pr tag : Nat) : WdiReq :=
  { addr := 0x0200 + t, op := 7, len := 0, tag, unit := 0, slot := 0, ctx := 0
    arg := leBytes 2 s ++ leBytes 1 pr ++ leBytes 1 (t % 4) }

/-- A request on a group with room is one flit, under the TAG that the die is at (R424). -/
theorem sendRequest_of_room {p : Pkg} {d : Nat} (hd : d < p.dies.length) (hroom : RoomOn (laneGroup p d 124))
    (origin : Option (Nat × Nat × Nat)) (r : WdiReq) :
    ∃ f : WdiOut, (sendRequest d origin r p).out = { p.out with wdi := p.out.wdi ++ [f] } ∧ f.die = d ∧ f.group = 124 ∧
      f.h.type = 1 ∧ f.crc = flitCrc f.h f.data ∧
      f.data = padTo 128 (reqBytes { r with tag := (p.dies.getD d {}).lastTag % 0xFFFF + 1 }) := by
  let n := (p.dies.getD d {}).lastTag % 0xFFFF + 1
  have hgroup : laneGroup (modDie d (fun x => { x with lastTag := n, waiting := x.waiting ++ [⟨n, origin⟩] }) p) d 124 =
      laneGroup p d 124 := by
    rw [laneGroup, die_modDie_self hd]
    rfl
  unfold sendRequest
  dsimp only
  rw [sendFlit_of_room (by simpa using hd) (by rw [hgroup]; exact hroom)]
  exact ⟨_, rfl, rfl, rfl, rfl, (flitCrc_padTo _ _).symm, rfl⟩

/-! ### MSI-X (R462) -/

theorem foldl_sendMsix {vs : List Nat} {p : Pkg} (hon : p.host.msixOn = true) (hmask : p.host.msixMasked = false)
    (hperst : p.host.perst = false) :
    vs.foldl (fun q v => sendMsix v q) p = { p with out := { p.out with msix := p.out.msix ++ vs } } := by
  induction vs generalizing p with
  | nil => simp
  | cons v vs ih =>
    have hone : sendMsix v p = { p with out := { p.out with msix := p.out.msix ++ [v] } } := by
      simp [sendMsix, hon, hmask, hperst]
    rw [List.foldl_cons, hone, ih (p := { p with out := { p.out with msix := p.out.msix ++ [v] } }) hon hmask hperst]
    simp

/-- The vectors that have an eligible source. -/
def dueVectors (p : Pkg) : List Nat :=
  (List.range 64).filter fun v => (((pendingSources p).filter (eligible p)).filterMap fun s => icTarget p s).contains (32 + v)

theorem pairwise_dueVectors (p : Pkg) : (dueVectors p).Pairwise (· < ·) := List.pairwise_lt_range.filter _

theorem mem_dueVectors {p : Pkg} {v : Nat} :
    v ∈ dueVectors p ↔ v < 64 ∧ ∃ src, src < 1024 ∧ eligible p src = true ∧ icTarget p src = some (32 + v) := by
  have hpend {src : Nat} (h : eligible p src = true) : wordBit p.ic.pend src = true := by
    simp only [eligible, Bool.and_eq_true] at h
    exact h.1.1
  simp only [dueVectors, List.mem_filter, List.mem_range, List.contains_eq_mem, decide_eq_true_eq, List.mem_filterMap,
    pendingSources]
  refine and_congr_right fun _ => exists_congr fun src => ?_
  constructor
  · rintro ⟨⟨⟨hlt, -⟩, hel⟩, htarget⟩
    exact ⟨hlt, hel, htarget⟩
  · rintro ⟨hlt, hel, htarget⟩
    exact ⟨⟨⟨hlt, hpend hel⟩, hel⟩, htarget⟩

/-- The vectors to which a write of the two MSI-X bits sends a message. -/
def sentVectors (enable masked : Bool) (p : Pkg) : List Nat :=
  if enable && !masked && !(p.host.msixOn && !p.host.msixMasked) then dueVectors p else []

theorem mem_sentVectors {enable masked : Bool} {p : Pkg} {v : Nat} : v ∈ sentVectors enable masked p ↔
    enable = true ∧ masked = false ∧ ¬ (p.host.msixOn = true ∧ p.host.msixMasked = false) ∧
      v < 64 ∧ ∃ src, src < 1024 ∧ eligible p src = true ∧ icTarget p src = some (32 + v) := by
  have hcond : (enable && !masked && !(p.host.msixOn && !p.host.msixMasked)) = true ↔
      enable = true ∧ masked = false ∧ ¬ (p.host.msixOn = true ∧ p.host.msixMasked = false) := by
    simp only [Bool.and_eq_true, Bool.not_eq_true', Bool.and_eq_false_iff, Bool.not_eq_false', and_assoc, not_and,
      Bool.not_eq_false]
    cases p.host.msixOn <;> simp
  unfold sentVectors
  by_cases h : (enable && !masked && !(p.host.msixOn && !p.host.msixMasked)) = true
  · obtain ⟨hon, hmask, hnew⟩ := hcond.1 h
    rw [if_pos h, mem_dueVectors]
    exact ⟨fun hv => ⟨hon, hmask, hnew, hv⟩, fun ⟨_, _, _, hv⟩ => hv⟩
  · rw [if_neg h]
    exact ⟨fun hv => absurd hv List.not_mem_nil, fun ⟨hon, hmask, hnew, _⟩ => absurd (hcond.2 ⟨hon, hmask, hnew⟩) h⟩

theorem msixWrite_eq (enable masked : Bool) {p : Pkg} (hperst : p.host.perst = false) :
    msixWrite enable masked p = { p with
      host := { p.host with msixOn := enable, msixMasked := masked }
      out := { p.out with msix := p.out.msix ++ sentVectors enable masked p } } := by
  unfold msixWrite sentVectors
  dsimp only
  split
  next h =>
    simp only [Bool.and_eq_true, Bool.not_eq_true'] at h
    obtain ⟨⟨hon, hmask⟩, -⟩ := h
    exact foldl_sendMsix (vs := dueVectors { p with host := { p.host with msixOn := enable, msixMasked := masked } })
      hon hmask hperst
  next h => rw [List.append_nil]

theorem exec_msixEnable_of_hostOpen {s : State} (hopen : hostOpen s.p = true) (enable masked : Bool) (cfg : CfgWrite) :
    exec (.msixEnable enable masked cfg) s = .next { s with p := msixWrite enable masked (writeCfg cfg s.p) } := by
  simp [exec, execMsixEnable, hopen]

theorem bell_of_software {v : Nat} (hlo : 512 ≤ v) (hhi : v < 1024) (p : Pkg) : bell v p = raise v p := by
  simp [bell, Nat.not_lt.2 hlo, Nat.not_le.2 hhi]

theorem exec_icBell_of_hostOpen {s : State} (hopen : hostOpen s.p = true) (v : Nat) :
    exec (.icBell v) s = .next { s with p := bell v s.p } := by
  simp [exec, execIcBell, hopen]

theorem exec_interruptEndOfService_of_running {s : State} {g pr : Nat} {rest : List Nat} (hg : g ≤ 16)
    (hrun : s.p.ic.running[g]? = some (pr :: rest)) : exec (.interruptEndOfService g) s = .next { s with
      p := icDeliver g { s.p with ic := { s.p.ic with running := s.p.ic.running.set g rest } } } := by
  have hne : s.p.ic.running.getD g [] ≠ [] := by rw [List.getD_eq_getElem?_getD, hrun]; simp
  simp only [exec, execInterruptEndOfService, onP_eq, hg, decide_true, Bool.true_and, bne_iff_ne.2 hne, if_true,
    modAt_of_getElem? hrun, List.drop_succ_cons, List.drop_zero]

/-- Settles O21: messages go to the vectors that have an eligible source, in ascending order; a firmware target is given the
first of the greatest among its candidates, a control core by one flit of a group with room. -/
theorem softwareInterrupts : Obligations.SoftwareInterrupts := by
  unfold Obligations.SoftwareInterrupts
  refine ⟨fun s => ⟨fun hup hperst => ?_, fun g pr rest hg hrun => exec_interruptEndOfService_of_running hg hrun⟩,
    fun p g => ⟨fun hdown => icDeliver_of_none (.inl hdown), fun hnone => ⟨icDeliver_of_none (.inr hnone),
      fun x => bestSource_none hnone⟩, fun src hbest hup => ?_⟩⟩
  · have hopen : hostOpen s.p = true := (hostOpen_iff _).2 ⟨hup, hperst⟩
    refine ⟨fun v hlo hhi => ?_, fun v hv => ?_, fun enable masked cfg =>
      ⟨sentVectors enable masked (writeCfg cfg s.p), ?_, ?_, fun v => mem_sentVectors, fun hlo hhi => ?_, rfl⟩⟩
    · rw [exec_icBell_of_hostOpen hopen, bell_of_software hlo hhi]
    · rw [exec_icBell_of_hostOpen hopen, bell, if_pos (by simpa using hv)]
      rfl
    · rw [exec_msixEnable_of_hostOpen hopen, msixWrite_eq enable masked (p := writeCfg cfg s.p) hperst]
      rfl
    · unfold sentVectors
      split
      · exact pairwise_dueVectors _
      · exact List.Pairwise.nil
    · simp [writeCfg, hlo, hhi]
  · obtain ⟨hmem, hmost⟩ := bestSource_some hbest
    obtain ⟨hlt, hel, htarget, hrun⟩ := mem_candidates.1 hmem
    refine ⟨hlt, hel, htarget, hrun, fun x hx hxel hxt hxrun => hmost x (mem_candidates.2 ⟨hx, hxel, hxt, hxrun⟩), ?_, ?_,
      fun hg => ?_, fun hg hd htrain hqueue hsent => ?_⟩
    · rw [icDeliver_ic hup hbest]
      simp [delivered, icClear, setChosen, wordBit_putWordBit_false]
    · rw [icDeliver_ic hup hbest]
      rfl
    · unfold icDeliver
      rw [hup, if_pos rfl, hbest]
      dsimp only
      rw [if_neg (Nat.not_lt.2 hg)]
      rfl
    · obtain ⟨f, hout, hdie, hgroup, htype, hcrc, hdata⟩ := sendRequest_of_room
        (p := { icClear src p with ic := delivered g src p }) (d := g / 4) hd ⟨htrain, hqueue, hsent⟩ none
        (interruptRequest g src (p.ic.prio.getD src 0) 0)
      refine ⟨f, ?_, hdie, hgroup, htype, hcrc, hdata⟩
      unfold icDeliver
      rw [hup, if_pos rfl, hbest]
      dsimp only
      rw [if_pos hg]
      exact hout

end Sys2Proof.Machine
end

section
/-! PROOFS. Requests for information (O13), FT_CONFIG and the calendar (O28), and the messages of the sideband (O24). -/

namespace Sys2Proof.Machine

/-! ### IDENTIFY and GET_STATUS -/

theorem identify_of_plain {w : Who} {b : List Byte} (h : plainPayloadBad w b = false) (set : Settings) (p : Pkg) :
    identify w b set p = answerBlock w (le b 8 8) 0 (identityBlock set p) p := by
  simp [identify, h]

theorem getStatus_of_package {w : Who} {b : List Byte} (h0 : le b 0 1 = 0) (h : plainPayloadBad w b = false)
    (set : Settings) (p : Pkg) :
    getStatus w b set p = answerBlock w (le b 8 8) 0 (statusBlock set p) p := by
  simp [getStatus, h0, h]

theorem getStatus_of_collective {w : Who} {b : List Byte} (h1 : le b 0 1 = 1) (hlen : 64 ≤ b.length)
    (hgroup : le b 1 1 ≤ 3) (hz : zeros b 2 2 = true) (hz' : zeros b 16 48 = true) (hd : destBad w (le b 8 8) = false)
    (set : Settings) (p : Pkg) :
    getStatus w b set p = answerBlock w (le b 8 8) 0 (collBlock p (le b 1 1) (le b 4 4)) p := by
  simp [getStatus, h1, hlen, hgroup, hz, hz', hd]

/-! ### HEALTH_READ (R185, R186) -/

/-- What HEALTH_READ leaves of the health entries: CLEAR takes those it wrote. -/
def healthLeft (b : List Byte) (p : Pkg) : List Health :=
  if le b 1 1 = 1 then p.tasks.health.filter fun h => !(le b 2 2 ≤ h.slot && h.slot < le b 2 2 + le b 4 2)
  else p.tasks.health

/-- The package after a HEALTH_READ that is in order: its block stands in memory. -/
def healthDone (b : List Byte) (set : Settings) (p : Pkg) : Pkg :=
  { p with
    mem := (writeMem set (le b 8 8) (healthData p (le b 0 1) (le b 2 2) (le b 4 2)) p).mem
    tasks := { p.tasks with health := healthLeft b p } }

/-- The operands of HEALTH_READ are legal, and its slots are in the range of its KIND. -/
def healthOperands (b : List Byte) : Prop :=
  le b 0 1 ≤ 1 ∧ le b 1 1 ≤ 1 ∧ 1 ≤ le b 4 2 ∧ le b 4 2 ≤ 256 ∧ zeros b 6 2 = true ∧ zeros b 16 48 = true ∧
    addrOk (le b 8 8) 32 (32 * le b 4 2) = true ∧
    (le b 0 1 = 0 → le b 2 2 + le b 4 2 ≤ 8192) ∧
    (le b 0 1 = 1 → 0x1000 ≤ le b 2 2 ∧ le b 2 2 + le b 4 2 ≤ 0x1100 ∧ le b 1 1 = 0)

theorem bit_zero_of_le_one {v : Nat} (h : v ≤ 1) : bit v 0 = (v == 1) := by
  interval_cases v <;> rfl

theorem healthRead_of_operands {w : Who} {b : List Byte} {set : Settings} {p : Pkg} (hb : healthOperands b)
    (hbusy : le b 1 1 = 1 → stepBusy p = false ∨ 6144 ≤ le b 2 2)
    (hw : writeError set p (le b 8 8) (healthData p (le b 0 1) (le b 2 2) (le b 4 2)).length = none) :
    healthRead w b set p = answer w stOk 0 (le b 4 2) (healthDone b set p) := by
  obtain ⟨hkind, hclear, hone, hmost, hz, hz', haddr, hslots, hsumm⟩ := hb
  have hfields : (1 < le b 0 1 || 1 < le b 1 1 || le b 4 2 == 0 || 256 < le b 4 2 || !zeros b 6 2 || !zeros b 16 48)
      = false := by
    simp [hz, hz']
    omega
  have hrange : (if (le b 0 1 == 0) = true then le b 2 2 + le b 4 2 ≤ 8192
      else (0x1000 ≤ le b 2 2 && le b 2 2 + le b 4 2 ≤ 0x1100) = true) := by
    split
    next h => simpa using hslots (by simpa using h)
    next h => simpa using ⟨(hsumm (by simp at h; omega)).1, (hsumm (by simp at h; omega)).2.1⟩
  have hkind1 : (le b 1 1 == 1 && le b 0 1 == 1) = false := by
    by_cases h : le b 0 1 = 1
    · simp [(hsumm h).2.2]
    · simp [h]
  have hidle : (le b 1 1 == 1 && decide (le b 2 2 < 6144) && stepBusy p) = false := by
    by_cases h : le b 1 1 = 1
    · rcases hbusy h with hb | hb <;> simp [hb]
    · simp [h]
  unfold healthRead
  dsimp only
  rw [bit_zero_of_le_one hclear, hfields, decide_eq_true hrange, haddr, hkind1, hidle, hw]
  simp only [Bool.not_true, Bool.or_self, Bool.false_eq_true, if_false, healthDone, healthLeft, beq_iff_eq]
  split <;> rfl

/-- Settles O13: each request for information comes to its branch, which answers and, for HEALTH_READ and FT_STATUS, writes
its block. -/
theorem informationRequestsAnswer : Obligations.InformationRequestsAnswer := by
  unfold Obligations.InformationRequestsAnswer
  refine ⟨fun s r w b p h => ?_, fun s r w b p h hp => ?_, fun s r w b p h hp h0 => ?_,
    fun s r w b p h h1 hlen hg hz hz' hd => ?_, fun s q w b p h hz ha hw => ?_,
    fun s q w b p h hkind hclear hone hmost hz hz' haddr hslots hsumm hbusy hw => ?_⟩
  · exact onRoute_takes (fun w _ s => { s with p := answer w stOk 0 0 s.p }) h
  · show execIdentify r s = _
    rw [execIdentify, onRoute_takes _ h, identify_of_plain hp]
  · show execGetStatus r s = _
    rw [execGetStatus, onRoute_takes _ h, getStatus_of_package h0 hp]
  · show execGetStatus r s = _
    rw [execGetStatus, onRoute_takes _ h, getStatus_of_collective h1 hlen hg hz hz' hd]
  · show execFtStatus q s = _
    exact onPacketP_of_eq h (by simp [hz, ha, writeAnswer, hw])
  · exact ⟨healthDone b s.set p, onPacketP_of_eq (f := healthRead) h
      (healthRead_of_operands ⟨hkind, hclear, hone, hmost, hz, hz', haddr, hslots, hsumm⟩ hbusy hw), rfl, rfl⟩

/-! ### The calendar -/

/-- Settles O28: each command of the calendar comes to its one assignment. -/
theorem calendar : Obligations.Calendar := by
  unfold Obligations.Calendar
  refine ⟨fun s q w b p h hz hsave hmask => ?_, fun s q w b p h hfrac hmode hz hz' hat => ?_, fun s c hc => ?_,
    fun s => ?_, fun s hoff => ?_⟩
  · show execFtConfig q s = _
    refine onPacketP_of_eq h ?_
    have hflag : bit (le b 1 1) 0 = (le b 1 1 == 1) := bit_zero_of_le_one (by omega)
    simp only [hz, Bool.not_true, Bool.false_or, Bool.or_eq_true, decide_eq_true_eq,
      if_neg (show ¬ (2 ≤ le b 1 1 ∨ 2 ^ portCount s.set.lanes ≤ le b 2 2) by omega), hflag, beq_iff_eq, Bool.and_eq_true]
    split <;> simp_all [modFt]
  · show execCalSet q s = _
    refine onPacketP_of_eq h ?_
    have hflag : bit (le b 8 1) 0 = (le b 8 1 == 1) := bit_zero_of_le_one (by omega)
    have hnow : (!(le b 8 1 == 1) && le b 16 8 != 0) = false := by
      by_cases h1 : le b 8 1 = 1
      · simp [h1]
      · simp [hat (by omega)]
    rw [hflag, hnow, hz, hz', if_neg (by simp; omega)]
  · show execCalSetLoad s = _
    refine onP_of_eq ?_
    simp only [hc]
    rfl
  · rfl
  · show execCalendarStop s = _
    exact onP_of_eq (by simp [hoff])

/-! ### The sideband -/

theorem onMctp_of_open {via : Transport} {a : MctpAsk} {f : Transport → Pkg → Pkg} {s : State}
    (h : mctpOpen s.p = true) : onMctp via a f s = .next { s with p := f via s.p } := by
  simp [onMctp, h]

theorem mctpOpen_of_up {p : Pkg} (hphase : 3 ≤ p.boot.phase) (hoff : p.boot.off = false)
    (hmgt : p.mgt.restarting = false) : mctpOpen p = true := by
  simp [mctpOpen, mctpUp, hphase, hoff, hmgt]

theorem setEid_of_legal {eid : Nat} (h1 : 1 ≤ eid) (h2 : eid ≤ 254) (via : Transport) (p : Pkg) :
    setEid eid via p = sendMctp via [0, 0, BitVec.ofNat 8 eid, 0] { p with mgt := { p.mgt with eid := eid } } := by
  unfold setEid
  rw [if_neg (by simp; omega)]

/-- Settles O24: with MCTP up each request is handled at once, and its handler is one assignment. -/
theorem sidebandMessages : Obligations.SidebandMessages := by
  unfold Obligations.SidebandMessages
  intro s via hphase hoff hmgt
  have hopen := mctpOpen_of_up hphase hoff hmgt
  refine ⟨onMctp_of_open (f := alertRead) hopen, onMctp_of_open (f := sensorRead) hopen, fun eid h1 h2 => ?_,
    onMctp_of_open (f := getEid) hopen, onMctp_of_open (f := getMctpVersion) hopen,
    onMctp_of_open (f := getTypes) hopen, fun hlow => ?_⟩
  · exact (onMctp_of_open (a := .setEid eid) (f := setEid eid) hopen).trans (by rw [setEid_of_legal h1 h2]; rfl)
  · show execAlertResponseAddress s = _
    exact onP_of_eq (by simp [hlow])

end Sys2Proof.Machine
end

section
/-! PROOFS. The stacks and the management subsystem's restart (O23, O57): what an event puts out, the errors of an access,
the blocks of a host write, the entries that a restart held. -/

namespace Sys2Proof.Machine

/-! ### What an event puts out -/

/-- MSI-X messages and flits are added to what the package has put out, and nothing else. -/
def Emits (p q : Pkg) : Prop :=
  ∃ (ms : List Nat) (fs : List WdiOut), q.out = { p.out with msix := p.out.msix ++ ms, wdi := p.out.wdi ++ fs }

namespace Emits

theorem of_out {p q : Pkg} (h : q.out = p.out) : Emits p q := ⟨[], [], by simp [h]⟩

theorem refl (p : Pkg) : Emits p p := of_out rfl

theorem trans {p q r : Pkg} (h1 : Emits p q) (h2 : Emits q r) : Emits p r := by
  obtain ⟨ms, fs, h1⟩ := h1
  obtain ⟨ns, gs, h2⟩ := h2
  exact ⟨ms ++ ns, fs ++ gs, by simp [h1, h2]⟩

theorem foldl {α : Type} {f : Pkg → α → Pkg} (hf : ∀ p a, Emits p (f p a)) (l : List α) (p : Pkg) : Emits p (l.foldl f p) :=
  List.foldlRecOn (motive := Emits p) l f (refl p) fun q hq a _ => hq.trans (hf q a)

theorem reads {p q : Pkg} (h : Emits p q) : q.out.reads = p.out.reads := by
  obtain ⟨ms, fs, h⟩ := h
  rw [h]

/-- The flits that have left stay. -/
theorem wdi {p q : Pkg} (h : Emits p q) : ∃ fs, q.out.wdi = p.out.wdi ++ fs := by
  obtain ⟨ms, fs, h⟩ := h
  exact ⟨fs, by rw [h]⟩

end Emits

theorem putFlit_emits (d g : Nat) (h : FlitHdr) (data : List Byte) (p : Pkg) : Emits p (putFlit d g h data p) :=
  ⟨[], [flitOut d g (laneGroup p d g) h data], by rw [putFlit_eq, List.append_nil]⟩

theorem launchFlit_emits (d g : Nat) (x : FlitHdr × List Byte) (p : Pkg) : Emits p (launchFlit d g x p) := by
  unfold launchFlit
  exact putFlit_emits d g _ x.2 (modLaneGroup d g _ p)

theorem drainFlits_emits (d g : Nat) (p : Pkg) : Emits p (drainFlits d g p) :=
  (Emits.of_out rfl).trans (.foldl (fun q x => launchFlit_emits d g x q) _ _)

theorem sendFlit_emits (d g type flow tag dest : Nat) (data : List Byte) (p : Pkg) :
    Emits p (sendFlit d g type flow tag dest data p) := (Emits.of_out rfl).trans (drainFlits_emits d g _)

theorem sendRequest_emits (d : Nat) (o : Option (Nat × Nat × Nat)) (r : WdiReq) (p : Pkg) : Emits p (sendRequest d o r p) :=
  (Emits.of_out rfl).trans (sendFlit_emits ..)

theorem sendMsix_emits (v : Nat) (p : Pkg) : Emits p (sendMsix v p) := by
  unfold sendMsix
  split
  · exact ⟨[v], [], by simp⟩
  · exact .refl p

theorem icDeliver_emits (t : Nat) (p : Pkg) : Emits p (icDeliver t p) := by
  unfold icDeliver
  split
  · exact .refl p
  · dsimp only
    split
    · exact (Emits.of_out rfl).trans (sendRequest_emits ..)
    · exact .of_out rfl

theorem icAct_emits (s : Nat) (p : Pkg) : Emits p (icAct s p) := by
  unfold icAct
  split
  · split
    · exact sendMsix_emits _ _
    · exact icDeliver_emits _ _
  · exact .refl p

theorem icTake_out (s : Nat) (p : Pkg) : (icTake s p).out = p.out := by
  unfold icTake
  split <;> rfl

theorem icChange_emits {srcs : List Nat} {f : Pkg → Pkg} {p : Pkg} (hf : Emits p (f p)) : Emits p (icChange srcs f p) :=
  hf.trans (.foldl (fun q s => icAct_emits s q) _ _)

theorem raise_emits (s : Nat) (p : Pkg) : Emits p (raise s p) := by
  unfold raise
  split
  · exact .refl p
  · split
    · exact .of_out rfl
    · exact icChange_emits (.of_out (icTake_out s _))

theorem logPut_emits (e : LogEntry) (p : Pkg) : Emits p (logPut e p) := by
  unfold logPut
  dsimp only
  refine Emits.trans (Emits.of_out ?_) (raise_emits 344 _)
  split <;> rfl

theorem log_emits (kind status unit : Nat) (items : List (List Byte)) (p : Pkg) : Emits p (log kind status unit items p) := by
  unfold log logAt
  dsimp only
  split
  · split <;> exact .of_out rfl
  · exact logPut_emits _ _

theorem memErrorKey_emits (stack off : Nat) (p : Pkg) : Emits p (memErrorKey stack off p) :=
  (Emits.of_out rfl).trans (log_emits ..)

/-! ### The errors that an access finds (R377) -/

/-- The blocks with an error and the counts of corrected errors alone may differ. -/
def SameButErrors (p q : Pkg) : Prop := q = { p with mem := { p.mem with bad := q.mem.bad, stackCe := q.mem.stackCe } }

theorem foundError_frame (e : MemErr) (p : Pkg) : SameButErrors p (foundError e p) := by
  unfold foundError
  split
  · rfl
  · split <;> rfl

theorem SameButErrors.trans {p q r : Pkg} (h1 : SameButErrors p q) (h2 : SameButErrors q r) : SameButErrors p r := by
  unfold SameButErrors at *
  rw [h2, h1]

theorem foundErrors_frame (errs : List MemErr) (p : Pkg) : SameButErrors p (foundErrors errs p) :=
  List.foldlRecOn (motive := SameButErrors p) errs _ rfl fun _ hq e _ => hq.trans (foundError_frame e _)

@[simp] theorem memErrorKey_bad (stack off : Nat) (p : Pkg) : (memErrorKey stack off p).mem.bad = p.mem.bad := by
  simp [memErrorKey, memErrorAt]

/-! ### BAR2 (R381, R416) -/

/-- The window takes the access, and BAR2 reads by where its bytes lie. -/
theorem bar2_of_open {p q : Pkg} {off n : Nat} (hlink : p.host.linkUp = true) (hperst : p.host.perst = false)
    (hwin : off + n ≤ 2 ^ p.host.bar2Log2) : (if bar2Open p off n = true then q else p) = q := by
  rw [if_pos]
  simp [bar2Open, hostOpen, hlink, hperst, hwin]

theorem cellsWrite_append (set : Settings) (xs ys : List Byte) (a : Nat) (cells : List (Nat × Byte)) :
    cellsWrite set a (xs ++ ys) cells = cellsWrite set (a + xs.length) ys (cellsWrite set a xs cells) := by
  induction xs generalizing a cells with
  | nil => rfl
  | cons x xs ih =>
    rw [List.cons_append, cellsWrite, cellsWrite, ih, List.length_cons]
    congr 1
    omega

/-- The cells after the blocks of a write in turn. -/
def writeBlocks (set : Settings) (l : List (Nat × List Byte)) (cells : List (Nat × Byte)) : List (Nat × Byte) :=
  l.foldl (fun c x => cellsWrite set x.1 x.2 c) cells

/-- The blocks of a write hold its bytes. -/
theorem writeBlocks_blockPieces (set : Settings) (n a : Nat) (bs : List Byte) (cells : List (Nat × Byte))
    (h : a % 64 + bs.length ≤ 64 * n) : writeBlocks set (blockPieces n a bs) cells = cellsWrite set a bs cells := by
  induction n generalizing a bs cells with
  | zero =>
    have : bs = [] := List.length_eq_zero_iff.1 (by omega)
    rw [this]
    rfl
  | succ n ih =>
    cases bs with
    | nil => rfl
    | cons b bs =>
      have hrest : writeBlocks set (blockPieces (n + 1) a (b :: bs)) cells =
          writeBlocks set (blockPieces n (a + (64 - a % 64)) ((b :: bs).drop (64 - a % 64)))
            (cellsWrite set a ((b :: bs).take (64 - a % 64)) cells) := rfl
      rw [hrest, ih _ _ _ (by rw [List.length_drop]; omega)]
      conv_rhs => rw [← List.take_append_drop (64 - a % 64) (b :: bs), cellsWrite_append, List.length_take]
      by_cases hlen : 64 - a % 64 ≤ (b :: bs).length
      · rw [Nat.min_eq_left hlen]
      · rw [List.drop_of_length_le (by omega)]
        rfl

theorem writeError_of_sound {p : Pkg} (hfailed : p.mem.failed = 0) (hbad : p.mem.bad = []) (set : Settings) (a n : Nat) :
    writeError set p a n = none := by
  simp [writeError, failedIn, hfailed, hbad, firstSome]

theorem bar2Pieces_of_sound {p : Pkg} (hfailed : p.mem.failed = 0) (hbad : p.mem.bad = []) (set : Settings)
    (l : List (Nat × List Byte)) :
    l.foldl (fun q x => bar2Piece set x q) p = { p with mem := { p.mem with cells := writeBlocks set l p.mem.cells } } := by
  induction l generalizing p with
  | nil => rfl
  | cons x l ih =>
    have hpiece : bar2Piece set x p = { p with mem := { p.mem with cells := cellsWrite set x.1 x.2 p.mem.cells } } := by
      simp [bar2Piece, writeError_of_sound hfailed hbad, writeMem, hbad]
    rw [List.foldl_cons, hpiece, ih]
    · rfl
    · exact hfailed
    · exact hbad

theorem bar2Write_of_sound {p : Pkg} {off : Nat} {data : List Byte} (hin : p.host.bar2Win + off + data.length ≤ regionSize)
    (hphase : 5 ≤ p.boot.phase) (hfailed : p.mem.failed = 0) (hbad : p.mem.bad = []) (set : Settings) :
    bar2Write off data set p =
      { p with mem := { p.mem with cells := cellsWrite set (p.host.bar2Win + off) data p.mem.cells } } := by
  have hfuel : (p.host.bar2Win + off) % 64 + data.length ≤ 64 * (data.length / 64 + 2) := by omega
  rw [← writeBlocks_blockPieces set _ _ _ _ hfuel, ← bar2Pieces_of_sound hfailed hbad]
  simp [bar2Write, inStack, hin, Nat.not_lt.2 hphase]

/-- Settles O23: the errors found change the counts and the bad blocks alone; then a read goes by `readError`, and a write's
blocks, none of which fails, store its bytes in turn. -/
theorem bar2Accesses : Obligations.Bar2Accesses := by
  unfold Obligations.Bar2Accesses
  intro s off errs hlink hperst a p
  have hp : p = { s.p with mem := { s.p.mem with bad := p.mem.bad, stackCe := p.mem.stackCe } } := foundErrors_frame errs s.p
  have hhost : p.host = s.p.host := by rw [hp]
  have hboot : p.boot = s.p.boot := by rw [hp]
  have hcells : p.mem.cells = s.p.mem.cells := by rw [hp]
  have hread {n : Nat} (hwin : off + n ≤ 2 ^ s.p.host.bar2Log2) :
      exec (.bar2Read off n errs) s = .next { s with p := bar2Read off n s.set p } :=
    show execBar2Read off n s errs = _ from onP_of_eq (bar2_of_open hlink hperst hwin)
  have hwrite {data : List Byte} (hwin : off + data.length ≤ 2 ^ s.p.host.bar2Log2) :
      exec (.bar2Write off data errs) s = .next { s with p := bar2Write off data s.set p } :=
    show execBar2Write off data s errs = _ from onP_of_eq (bar2_of_open hlink hperst hwin)
  have ha : p.host.bar2Win + off = a := by rw [hhost]
  refine ⟨hp, fun n hwin hin hphase herr => ?_, fun n hwin hout => ?_, fun n x hwin hin hphase herr => ?_,
    fun data hwin hin hphase hfailed hbad hwf => ?_, fun data hwin hout => ?_⟩
  · rw [hread hwin]
    simp [bar2Read, ha, inStack, hin, hboot, Nat.not_lt.2 hphase, herr, readDone]
  · rw [hread hwin]
    simp [bar2Read, ha, inStack, hout, readDone]
  · refine ⟨readDone .abort (memError s.set x p), ?_, ?_, ?_, ?_⟩
    · rw [hread hwin]
      simp [bar2Read, ha, inStack, hin, hboot, Nat.not_lt.2 hphase, herr]
    · show (memError s.set x p).out.reads ++ [.abort] = _
      rw [memError, (memErrorKey_emits ..).reads, hp]
    · exact (memError_cells s.set x p).trans hcells
    · exact memErrorKey_bad ..
  · refine ⟨_, hwrite hwin, fun x hx => ?_, ?_⟩ <;>
      rw [bar2Write_of_sound (ha ▸ hin) (hboot ▸ hphase) hfailed hbad s.set, ha]
    have hbyte := readByte_writeMem s.set (p := p) (hcells ▸ hwf) hin hx
    simpa [readByte, writeMem, hcells] using hbyte
  · rw [hwrite hwin]
    simp [bar2Write, ha, inStack, hout, dropWrite, satAdd]

/-! ### The entries that a restart held (R566) -/

/-- `n` entries were put at the end of the log: its list, its counts, its chain and the alert bits alone changed. -/
def Logged (n : Nat) (a b : Mgt) : Prop :=
  b = { a with log := b.log, overwritten := b.overwritten, nextSeq := a.nextSeq + n, lastChain := b.lastChain, alert := b.alert }

theorem Logged.image {n : Nat} {a b : Mgt} (h : Logged n a b) : b.image = a.image := by rw [h]

theorem Logged.restarting {n : Nat} {a b : Mgt} (h : Logged n a b) : b.restarting = a.restarting := by rw [h]

theorem Logged.held {n : Nat} {a b : Mgt} (h : Logged n a b) : b.held = a.held := by rw [h]

theorem Logged.nextSeq {n : Nat} {a b : Mgt} (h : Logged n a b) : b.nextSeq = a.nextSeq + n := by rw [h]

theorem logPut_logged (e : LogEntry) (p : Pkg) : Logged 1 p.mgt (logPut e p).mgt := by
  unfold logPut Logged
  dsimp only
  rw [raise_mgt]
  split <;> rfl

theorem foldl_logPut_logged (l : List LogEntry) (p : Pkg) :
    Logged l.length p.mgt (l.foldl (fun q e => logPut e q) p).mgt := by
  induction l generalizing p with
  | nil => rfl
  | cons e l ih =>
    have h1 := logPut_logged e p
    have h2 := ih (logPut e p)
    unfold Logged at *
    rw [List.foldl_cons, h2, h1, List.length_cons, Nat.add_assoc, Nat.add_comm 1]

theorem foldl_logPut_frame (l : List LogEntry) (p : Pkg) : SameLog p (l.foldl (fun q e => logPut e q) p) :=
  List.foldlRecOn (motive := SameLog p) l _ (SameIc.refl p).log fun _ hq e _ => hq.trans (logPut_frame e _)

theorem failPackage_boot (p : Pkg) : (failPackage p).boot = { p.boot with failed := true } := by
  unfold failPackage
  split
  next h => rw [← h]
  next => simp [alert]

theorem failPackage_mgt (p : Pkg) : ∃ a, (failPackage p).mgt = { p.mgt with alert := a } := by
  unfold failPackage
  split
  · exact ⟨p.mgt.alert, rfl⟩
  · exact ⟨_, by rw [alert, raise_mgt]⟩

/-- The entries that the restart held are written. -/
def withHeld (p : Pkg) : Pkg :=
  p.mgt.held.foldl (fun q e => logPut e q) { p with mgt := { p.mgt with restarting := false, held := [] } }

theorem withHeld_logged (p : Pkg) :
    Logged p.mgt.held.length { p.mgt with restarting := false, held := [] } (withHeld p).mgt := foldl_logPut_logged _ _

theorem mgtRestarted_of_restarting {p : Pkg} (h : p.mgt.restarting = true) :
    mgtRestarted p = if p.mgt.image.valid then withHeld p else failPackage (withHeld p) := by
  have himage := (withHeld_logged p).image
  unfold mgtRestarted
  rw [h]
  show (if (withHeld p).mgt.image.valid = true then withHeld p else failPackage (withHeld p)) = _
  rw [himage]

/-! ### Scrubbing (R380) -/

theorem mem_markBad {stack off x : Nat} {p : Pkg} :
    x ∈ (markBad stack off p).mem.bad ↔ x ∈ p.mem.bad ∨ x = (stack * stackSize + off) / 64 := by
  unfold markBad
  dsimp only
  split
  next h =>
    have hmem : (stack * stackSize + off) / 64 ∈ p.mem.bad := List.elem_iff.1 h
    exact ⟨.inl, fun hx => hx.elim id fun e => e ▸ hmem⟩
  next => rw [List.mem_cons, or_comm]

@[simp] theorem scrubError_bad (stack off : Nat) (p : Pkg) :
    (scrubError stack off p).mem.bad = (markBad stack off p).mem.bad := memErrorKey_bad ..

theorem mem_foldl_scrubError {stack x : Nat} (l : List Nat) (p : Pkg) :
    x ∈ (l.foldl (fun q off => scrubError stack off q) p).mem.bad ↔
      x ∈ p.mem.bad ∨ ∃ off ∈ l, x = (stack * stackSize + off) / 64 := by
  induction l generalizing p with
  | nil => simp
  | cons off l ih => rw [List.foldl_cons, ih, scrubError_bad, mem_markBad, List.exists_mem_cons_iff, or_assoc]

/-- What a scrub's uncorrected errors leave. -/
def scrubKeeps (p : Pkg) : List Nat × List (Nat × Byte) × Step × Tasks :=
  (p.mem.stackCe, p.mem.cells, p.step, p.tasks)

theorem scrubError_keeps (stack off : Nat) (p : Pkg) : scrubKeeps (scrubError stack off p) = scrubKeeps p := by
  simp [scrubKeeps, scrubError, memErrorKey, memErrorAt, markBad]

/-! ### Stacks that fail (R382, R486) -/

theorem refresh_degraded (p : Pkg) : (refresh p).boot = { p.boot with degraded := degradedNow p && decide (4 ≤ p.boot.phase) } := by
  unfold refresh
  dsimp only
  split
  next h => rw [beq_iff_eq.1 h]
  next => split <;> simp [alert]

theorem SameIc.withMgt {p q : Pkg} (h : SameIc p q) (m : Mgt) : SameIc { p with mgt := m } { q with mgt := m } :=
  ⟨by rw [h.1], h.2⟩

theorem SameIc.congr_left {p q r : Pkg} (h : SameIc p r) (e : p = q) : SameIc q r := e ▸ h

/-- DEGRADED's change is told by source 384 and an alert. -/
theorem refresh_frame (p : Pkg) :
    SameIc { p with boot := (refresh p).boot, mgt := (refresh p).mgt } (refresh p) := by
  unfold refresh
  dsimp only
  split
  · exact .refl p
  · have h := raise_frame 384 { p with boot := { p.boot with degraded := degradedNow p && decide (4 ≤ p.boot.phase) } }
    split
    · exact (h.withMgt (alert alDegraded (raise 384 _)).mgt).congr_left (by rw [alert, raise_boot])
    · exact h.congr_left (by rw [raise_boot, raise_mgt])

theorem degradedNow_of_failed {p : Pkg} (h : p.mem.failed ≠ 0) : degradedNow p = true := by
  simp [degradedNow, h]

theorem ne_zero_of_bit {v i : Nat} (h : bit v i = true) : v ≠ 0 := by
  rintro rfl
  simp [bit] at h

theorem failStack_of_sound {k : Nat} {p : Pkg} (h : bit p.mem.failed k = false) :
    failStack k p = refresh (log 0x0202 stMem (0x0600 + k) [] { p with mem := { p.mem with failed := setBit p.mem.failed k } }) := by
  rw [failStack, if_neg (by simp [h])]

/-- Settles O57: a restart that ends writes what it held and lets `mctpAsked` handle what waited; each error of a scrub marks
its block; a stack that fails is marked, which is all that DEGRADED needs. -/
theorem restartsAndStacks : Obligations.RestartsAndStacks := by
  unfold Obligations.RestartsAndStacks
  refine fun s => ⟨fun hoff => ?_, fun hres => ⟨?_, fun hwaits => ?_, fun hup via body => ?_⟩,
    fun k n bad hk htrained hfailed => ?_, fun k hk hoff hfailed => ?_⟩
  · show execMgtWatchdogRestart s = _
    exact onP_of_eq (by simp [hoff])
  · show Host.Outcome.next (restartEnds s) = _
    simp [restartEnds, hres]
  · have hended : exec .mgtRestartComplete s =
        .next { s with p := mgtRestarted { s.p with mgt := { s.p.mgt with waits := [] } } } := by
      show Host.Outcome.next (restartEnds s) = _
      simp [restartEnds, hres, hwaits]
    have hl := withHeld_logged { s.p with mgt := { s.p.mgt with waits := [] } }
    have hframe : SameLog _ (withHeld { s.p with mgt := { s.p.mgt with waits := [] } }) := foldl_logPut_frame _ _
    rw [mgtRestarted_of_restarting (by exact hres)] at hended
    cases hvalid : s.p.mgt.image.valid with
    | true =>
      refine ⟨_, hended, ?_⟩
      rw [if_pos hvalid]
      exact ⟨hl.restarting, hl.held, hl.nextSeq, fun _ => hframe.sameIc_mgt, nofun⟩
    | false =>
      refine ⟨_, hended, ?_⟩
      rw [if_neg (by simp [hvalid])]
      obtain ⟨a, ha⟩ := failPackage_mgt (withHeld { s.p with mgt := { s.p.mgt with waits := [] } })
      rw [ha]
      refine ⟨hl.restarting, hl.held, hl.nextSeq, nofun, fun _ => ?_⟩
      rw [failPackage_boot, hframe.1]
  · have hclosed : mctpOpen s.p = false := by simp [mctpOpen, hres]
    have hwait (a : MctpAsk) (f : Transport → Pkg → Pkg) :
        onMctp via a f s = .next { s with p := { s.p with mgt := { s.p.mgt with waits := s.p.mgt.waits ++ [(via, a)] } } } := by
      simp [onMctp, hclosed, mctpHold, hup]
    refine ⟨hwait (.code 0xF001 []) sensorRead, hwait (.code 0xF002 []) alertRead, hwait (.code 0xF003 body) (keyEnrol body), ?_⟩
    show execResetUnit (.mctp via body) s = _
    simp [execResetUnit, onRoute, hclosed, mctpHold, hup]
  · show ∃ t, execStackScrub k n bad s = _ ∧ _
    have hscrub : scrub k n bad s.p = (bad.filter (· < stackSize)).foldl (fun q off => scrubError k off q) (corrected k n s.p) := by
      simp [scrub, Nat.not_le.2 hk, htrained, hfailed]
    have hkeeps := foldl_view scrubKeeps (f := fun q off => scrubError k off q) (fun q off => scrubError_keeps k off q)
      (bad.filter (· < stackSize)) (corrected k n s.p)
    rw [← hscrub] at hkeeps
    simp only [scrubKeeps, Prod.mk.injEq] at hkeeps
    obtain ⟨hce, hcells, hstep, htasks⟩ := hkeeps
    refine ⟨_, onP_of_eq rfl, hce, hcells, fun x => ?_, fun hnone => ?_, hstep, htasks⟩
    · rw [hscrub, mem_foldl_scrubError]
      simp [corrected, and_assoc]
    · rw [hscrub, hnone]
      rfl
  · show ∃ t, execStackInterfaceLoss k s = _ ∧ _
    have hfails := failStack_of_sound hfailed
    have hmem : (failStack k s.p).mem = { s.p.mem with failed := setBit s.p.mem.failed k } := by
      rw [hfails, (refresh_frame _).1, log_mem]
    have hbit : bit (failStack k s.p).mem.failed k = true := by simp [hmem, bit_setBit]
    refine ⟨failStack k s.p, onP_of_eq (by simp [hk, hoff]), hmem, hbit, fun hphase => ?_, ?_, ?_⟩
    · rw [hfails, refresh_degraded, degradedNow_of_failed, log_boot]
      · simpa using hphase
      · rw [log_mem]
        exact ne_zero_of_bit (i := k) (by simp [bit_setBit])
    · rw [hfails, (refresh_frame _).1, log_step]
    · rw [hfails, (refresh_frame _).1, log_tasks]

end Sys2Proof.Machine
end

section
/-! PROOFS. Firmware, identity, keys and records (O52) and pattern packs (O51). -/

namespace Sys2Proof.Machine

/-! ### Fields that are zero -/

theorem leVal_of_zero {bs : List Byte} (h : ∀ b ∈ bs, b = 0) : leVal bs = 0 := by
  induction bs with
  | nil => rfl
  | cons b bs ih =>
    rw [leVal, ih fun x hx => h x (List.mem_cons_of_mem _ hx), h b List.mem_cons_self]
    rfl

theorem le_of_zeros {b : List Byte} {o n : Nat} (h : zeros b o n = true) : le b o n = 0 :=
  leVal_of_zero fun x hx => beq_iff_eq.1 (List.all_eq_true.1 h x hx)

/-! ### The staging buffer (R578) -/

/-- The staging buffer of the package. -/
def withStage (p : Pkg) (st : Staging) : Pkg := { p with mgt := { p.mgt with stage := st } }

section
variable {w : Who} {b : List Byte} {p : Pkg} (hwriting : p.mgt.stage.writing = none) (hlen : 64 ≤ b.length)
  (hz1 : zeros b 1 3 = true) (hz12 : zeros b 12 4 = true) (hz24 : zeros b 24 40 = true)
  (hsrc : ∀ via, w = .mctp via → le b 16 8 = 0)
include hwriting hlen hz1 hz12 hz24 hsrc

theorem fwStage_of_open (hop : le b 0 1 = 0) (hmin : 4691 ≤ le b 8 4) (hmax : le b 8 4 ≤ 25165824) (set : Settings) :
    fwStage w b set p = answer w stOk 0 0 (withStage p { size := some (le b 8 4) }) := by
  have hlong : ¬ b.length < 64 := by omega
  have hsize : ¬ (le b 8 4 < 4691 ∨ 25165824 < le b 8 4) := by omega
  cases w <;> simp [fwStage, hwriting, hlong, hz1, hz12, hz24, hop, hsize, withStage]
  case mctp via => simp [hsrc via rfl]

theorem fwStage_of_drop (hop : le b 0 1 = 2) (set : Settings) : fwStage w b set p = answer w stOk 0 0 (withStage p {}) := by
  have hlong : ¬ b.length < 64 := by omega
  cases w <;> simp [fwStage, hwriting, hlong, hz1, hz12, hz24, hop, withStage]
  case mctp via => simp [hsrc via rfl]

section
variable {size : Nat} (hop : le b 0 1 = 1) (hsize : p.mgt.stage.size = some size) (hfit : le b 4 4 + le b 8 4 ≤ size)
include hop hsize hfit

/-- A piece of an image is staged out of the stacks. -/
theorem fwStage_of_stack {q num : Nat} (hw : w = .queue q num) (haddr : le b 16 8 < 2 ^ 48)
    (hin : inStack (le b 16 8) (le b 8 4) = true) {set : Settings} (hread : readError set p (le b 16 8) (le b 8 4) = none)
    {pieces : List (Nat × List Byte)}
    (hpieces : (le b 4 4, readMem set p (le b 16 8) (le b 8 4)) :: p.mgt.stage.pieces = pieces) :
    fwStage w b set p = answer w stOk 0 (stagedBytes pieces) (withStage p { p.mgt.stage with pieces }) := by
  have hlong : ¬ b.length < 64 := by omega
  have hlow : ¬ 281474976710656 ≤ le b 16 8 := by omega
  subst hw hpieces
  simp [fwStage, hwriting, hlong, hz1, hz12, hz24, hop, hsize, Nat.not_lt.2 hfit, hlow, hin, hread, withStage]

omit hlen in
/-- A piece of an image is staged out of the request. -/
theorem fwStage_of_inline {via : Transport} (hw : w = .mctp via) (hinline : b.length = 64 + le b 8 4) (hmost : le b 8 4 ≤ 8192)
    {pieces : List (Nat × List Byte)} (hpieces : (le b 4 4, b.drop 64) :: p.mgt.stage.pieces = pieces) (set : Settings) :
    fwStage w b set p = answer w stOk 0 (stagedBytes pieces) (withStage p { p.mgt.stage with pieces }) := by
  have hlong : ¬ b.length < 64 := by omega
  have hbytes : b.length - 64 = le b 8 4 := by omega
  subst hw hpieces
  simp [fwStage, hwriting, hlong, hz1, hz12, hz24, hsrc via rfl, hop, hsize, Nat.not_lt.2 hfit, hbytes, Nat.not_lt.2 hmost,
    withStage]

end

end

/-! ### Images (R577 to R579) -/

section
variable {w : Who} {b : List Byte} {p : Pkg} (hlen : 64 ≤ b.length) (hz : zeros b 1 63 = true) (hop : le b 0 1 < 2)
  (hwriting : p.mgt.stage.writing = none) (hwhole : p.mgt.stage.size = some (stagedBytes p.mgt.stage.pieces))
include hlen hz hop hwriting hwhole

theorem fwInstall_of_unsigned (hsign : verifyImage (stagedImage p.mgt.stage) = none) (set : Settings) :
    fwInstall w b set p = answer w stAuth 0 0 (log 0x0C02 stAuth 0xFFFF [] p) := by
  have hlong : ¬ b.length < 64 := by omega
  simp [fwInstall, hlong, hz, Nat.not_le.2 hop, hwriting, hwhole, hsign]

/-- A whole image whose signature verifies is judged by its stepping and its security version, then written or run. -/
theorem fwInstall_of_signed {i : Image} (hsign : verifyImage (stagedImage p.mgt.stage) = some i) (set : Settings) :
    fwInstall w b set p =
      if i.stepping ≠ set.stepping then answer w stBadParam 0 0 p
      else if i.svn < p.flash.fusedSvn then answer w stRollback 0 0 p
      else if le b 0 1 = 0 then { p with
        mgt := { p.mgt with stage := { p.mgt.stage with writing := some w } }
        flash := { p.flash with image := none } }
      else if p.boot.recovery then answer w stOk 0 0 (runImage i p)
      else answer w stBadState 0 0 p := by
  have hlong : ¬ b.length < 64 := by omega
  have hcase : le b 0 1 = 0 ∨ le b 0 1 = 1 := by omega
  rcases hcase with h | h <;>
    simp [fwInstall, hlong, hz, hwriting, hwhole, hsign, h]

end

theorem flashWritten_of_signed {p : Pkg} {v : Who} {i : Image} (hv : p.mgt.stage.writing = some v)
    (hrecovery : p.boot.recovery = false) (hsign : verifyImage (stagedImage p.mgt.stage) = some i) :
    flashWritten p = answer v stOk 0 0 (log 0x0C01 0 0xFFFF [] { p with
      mgt := { p.mgt with stage := { p.mgt.stage with writing := none } }, flash := { p.flash with image := some i } }) := by
  simp [flashWritten, hv, hsign, hrecovery]

theorem flashWritten_of_unsigned {p : Pkg} (hsign : verifyImage (stagedImage p.mgt.stage) = none) : flashWritten p = p := by
  unfold flashWritten
  rw [hsign]
  cases p.mgt.stage.writing <;> rfl

/-! ### Keys, the log and the crash record (R534, R574, R584) -/

theorem keyEnrol_of_ok {via : Transport} {body : List Byte} {p : Pkg} (hz : zeros body 0 2 = true) (hvia : via ≠ .pcie)
    (hst : keyEnrolStatus p.flash (body.drop 2) = stOk) (hop : le (body.drop 2) 0 1 = 0) :
    keyEnrol body via p = answer (.mctp via) stOk 0 0 (log 0x0C03 0 0xFFFF [] { p with flash := { p.flash with
      keys := p.flash.keys.set (le (body.drop 2) 1 1 - 1) (some ((body.drop 10).take 2592))
      enrol := p.flash.enrol + 1 } }) := by
  simp [keyEnrol, keyChange, hz, hvia, hst, hop, stOk, stAuth]

theorem logRead_of_queue {w : Who} {b : List Byte} {q num : Nat} (hw : w = .queue q num) (hlen : 64 ≤ b.length)
    (hmin : 1 ≤ le b 8 4) (hmax : le b 8 4 ≤ 8192) (hz12 : zeros b 12 4 = true) (hz24 : zeros b 24 40 = true)
    (hdest : le b 16 8 % 64 = 0) (p : Pkg) :
    logRead w b p = answer w stOk (b2n (logLost p (le b 0 8))) (logFrom p (le b 0 8) (le b 8 4)).length
      (hostWrite (le b 16 8) ((logFrom p (le b 0 8) (le b 8 4)).flatMap entryBytes) p) := by
  have hlong : ¬ b.length < 64 := by omega
  have hsome : le b 8 4 ≠ 0 := by omega
  subst hw
  simp [logRead, hlong, hsome, Nat.not_lt.2 hmax, hz12, hz24, destBad, hdest, inlineMost]

section
variable {w : Who} {b : List Byte} (hlen : 64 ≤ b.length) (hz1 : zeros b 1 7 = true) (hz24 : zeros b 24 40 = true)
include hlen hz1 hz24

theorem dumpRead_of_read (hop : le b 0 1 = 0) (hoff : le b 8 4 % 64 = 0) (hmod : le b 12 4 % 64 = 0) (hmin : 1 ≤ le b 12 4)
    (hmax : le b 12 4 ≤ 8192) (hend : le b 8 4 + le b 12 4 ≤ 8388608) (hdest : destBad w (le b 16 8) = false) {p : Pkg}
    (hstate : p.integ.crash.state ≠ 1) :
    dumpRead w b p = answerBlock w (le b 16 8) (le b 12 4) (crashBytes p.integ.crash (le b 8 4) (le b 12 4)) p := by
  have hlong : ¬ b.length < 64 := by omega
  have hsome : le b 12 4 ≠ 0 := by omega
  have hmost : ¬ 1048576 < le b 12 4 := by omega
  cases w <;>
    simp [dumpRead, hlong, hz1, hz24, hop, hoff, hmod, hsome, hmost, Nat.not_lt.2 hmax, Nat.not_lt.2 hend, hdest, hstate]

theorem dumpRead_of_release (hop : le b 0 1 = 1) (hz8 : zeros b 8 16 = true) {p : Pkg} (hstate : p.integ.crash.state = 2) :
    dumpRead w b p = answer w stOk 0 0 (releaseCrash p) := by
  have hlong : ¬ b.length < 64 := by omega
  obtain ⟨hz8, hz12⟩ := Bool.and_eq_true_iff.1 ((zeros_add b 8 4 12).symm.trans hz8)
  obtain ⟨hz12, hz16⟩ := Bool.and_eq_true_iff.1 ((zeros_add b 12 4 8).symm.trans hz12)
  simp [dumpRead, hlong, hz1, hz24, hop, le_of_zeros hz8, le_of_zeros hz12, hz16, hstate]

end

/-- Settles O52: each operation passes its checks in order and comes to its one assignment and answer. -/
theorem firmwareAndRecords : Obligations.FirmwareAndRecords := by
  unfold Obligations.FirmwareAndRecords
  refine fun s r w b p => ⟨fun h hwriting hlen hz1 hz12 hz24 hsrc => ?_, fun h hlen hz hop hwriting hwhole => ?_,
    fun v hv hrecovery => ?_, fun h hlen hz1 hz48 hdest => ?_, fun via body hopen hz hvia hst hop => ?_,
    fun via body hopen hvia => ?_, fun q num h hw hlen hmin hmax hz12 hz24 hdest => ?_, fun h hlen hz1 hz24 => ?_⟩
  · have hexec : exec (.fwStage r) s = .next { s with p := fwStage w b s.set p } :=
      onRoute_takes (fun w b s => { s with p := fwStage w b s.set s.p }) h
    refine ⟨fun hop hmin hmax => ?_, fun hop => ?_, fun size hop hsize hfit =>
      ⟨fun q num hw haddr hin hread => ?_, fun via hw hinline hmost => ?_⟩⟩
    · rw [hexec, fwStage_of_open hwriting hlen hz1 hz12 hz24 hsrc hop hmin hmax]
      rfl
    · rw [hexec, fwStage_of_drop hwriting hlen hz1 hz12 hz24 hsrc hop]
      rfl
    · rw [hexec, fwStage_of_stack hwriting hlen hz1 hz12 hz24 hsrc hop hsize hfit hw haddr hin hread rfl]
      rfl
    · rw [hexec, fwStage_of_inline hwriting hz1 hz12 hz24 hsrc hop hsize hfit hw hinline hmost rfl]
      rfl
  · have hexec : exec (.fwInstall r) s = .next { s with p := fwInstall w b s.set p } :=
      onRoute_takes (fun w b s => { s with p := fwInstall w b s.set s.p }) h
    rw [hexec]
    cases hsign : verifyImage (stagedImage p.mgt.stage) with
    | none => rw [fwInstall_of_unsigned hlen hz hop hwriting hwhole hsign]
    | some i =>
      rw [fwInstall_of_signed hlen hz hop hwriting hwhole hsign]
      rfl
  · show execFwFlashWriteDone s = _
    refine onP_of_eq ?_
    cases hsign : verifyImage (stagedImage s.p.mgt.stage) with
    | none => exact flashWritten_of_unsigned hsign
    | some i => exact flashWritten_of_signed hv hrecovery hsign
  · have hlong : ¬ b.length < 64 := by omega
    refine ⟨fun hop => ?_, fun hop => ?_⟩ <;> show execAttest r s = _ <;>
      rw [execAttest, onRoute_takes _ h, attest] <;> simp [hlong, hz1, hz48, hdest, hop]
  · rw [← keyEnrol_of_ok hz hvia hst hop]
    exact onMctp_of_open (a := .code 0xF003 body) (f := keyEnrol body) hopen
  · have hexec : exec (.keyEnrol via body) s = .next { s with p := keyEnrol body via s.p } :=
      onMctp_of_open (a := .code 0xF003 body) (f := keyEnrol body) hopen
    rw [hexec]
    simp [keyEnrol, hvia]
  · have hexec : exec (.logRead r) s = .next { s with p := logRead w b p } :=
      onRoute_takes (fun w b s => { s with p := logRead w b s.p }) h
    rw [hexec, logRead_of_queue hw hlen hmin hmax hz12 hz24 hdest]
    rfl
  · have hexec : exec (.dumpRead r) s = .next { s with p := dumpRead w b p } :=
      onRoute_takes (fun w b s => { s with p := dumpRead w b s.p }) h
    refine ⟨fun hop hoff hmod hmin hmax hend hdest hstate => ?_, fun hop hz8 hstate => ?_⟩
    · rw [hexec, dumpRead_of_read hlen hz1 hz24 hop hoff hmod hmin hmax hend hdest hstate]
    · rw [hexec, dumpRead_of_release hlen hz1 hz24 hop hz8 hstate]
      rfl

/-! ### PATTERN_LOAD (R508, R511) -/

theorem loadPack_of_sound {b : List Byte} {set : Settings} {p : Pkg} {slot : Nat} (hhead : packHeadBad b = false)
    (hstep : set.stepping.toNat = le b 5 1) (hpats : ∀ n, n < kCount b → patternBad b n = false)
    (hfree : packIn p slot = none) (hroom : b.length ≤ packFree p) (w : Who) :
    loadPack w slot b set p = if packSigned p.flash b then
        answer w stOk 0 0 { p with integ := { p.integ with packs := p.integ.packs ++ [⟨slot, b, le b 4 1⟩] } }
      else answer w stAuth 0 0 (log 0x0C02 stAuth 0xFFFF [] p) := by
  have hnone : (List.range (kCount b)).find? (patternBad b) = none :=
    List.find?_eq_none.2 fun n hn => by simp [hpats n (List.mem_range.1 hn)]
  cases hsigned : packSigned p.flash b <;> simp [loadPack, hhead, hsigned, hstep, hnone, hfree, Nat.not_lt.2 hroom]

theorem patternLoad_of_load {b : List Byte} (hfields : loadBad b = false) (hop : le b 0 1 = 0) {set : Settings} {p : Pkg}
    (hread : readError set p (le b 8 8) (le b 4 4) = none) (w : Who) :
    patternLoad w b set p = loadPack w (le b 1 1) (readMem set p (le b 8 8) (le b 4 4)) set p := by
  simp [patternLoad, hfields, hop, hread]

theorem patternLoad_of_unload {b : List Byte} (hfields : loadBad b = false) (hop : le b 0 1 = 1) {p : Pkg}
    (hin : packIn p (le b 1 1) ≠ none) (w : Who) (set : Settings) :
    patternLoad w b set p = answer w stOk 0 0 { p with integ := { p.integ with
      packs := p.integ.packs.filter fun k => k.slot != le b 1 1 } } := by
  simp [patternLoad, hfields, hop, hin]

/-! ### PATTERN_RUN (R512 to R514) -/

section
variable {w : Who} {b pack : List Byte} {pats : List Nat} {set : Settings} {p : Pkg}

/-- A PATTERN_RUN whose operands are in order runs, but not in P3 and not where its context may not. -/
theorem patternRun_of_operands (hfields : runBad p b = false) (hpack : packBytes p (le b 0 1) = some pack)
    (hpats : patternsOf b pack = some pats) (hroom : ∀ n ∈ pats, patNeed (patternOf pack n) ≤ rSize b / 16) :
    patternRun w b set p =
      if set.envAct == 3 || (if le b 1 1 == 1 then !set.filler else stepBusy p) then answer w stBadState 0 0 p
      else finish set (runPatterns w b pack pats set p) := by
  have hnone : (pats.any fun n => decide (rSize b / 16 < patNeed (patternOf pack n))) = false :=
    List.any_eq_false.2 fun n hn => by simpa using hroom n hn
  simp [patternRun, hfields, hpack, hpats, hnone]

/-- A step of the groves' fold that takes none of them. -/
theorem foldl_none (gs : List Nat) {takes : Nat → Bool} (hnone : ∀ g ∈ gs, takes g = false) {α : Type}
    {run : Nat → Pkg × List (Option α) → Pkg × List (Option α)} (acc : Pkg × List (Option α)) :
    gs.foldl (fun acc g => if takes g then run g acc else (acc.1, acc.2 ++ [none])) acc =
      (acc.1, acc.2 ++ List.replicate gs.length none) := by
  induction gs generalizing acc with
  | nil => simp
  | cons g gs ih =>
    rw [List.foldl_cons, if_neg (by simp [hnone g List.mem_cons_self]), ih fun x hx => hnone x (List.mem_cons_of_mem g hx)]
    simp [List.replicate_succ]

/-- With every grove of the mask fenced nothing runs, and each result says so. -/
theorem runPatterns_of_fenced (hfenced : ∀ g, g < 16 → bit (rMask b) g = true → bit p.integ.fenced g = true)
    (hwrite : writeError set p (rResults b) 512 = none) :
    runPatterns w b pack pats set p = answer w stOk 0xFFFF 0 (writeMem set (rResults b)
      ((List.range 16).flatMap fun g => resultEntry g pack (32 * pats.length) none p) p) := by
  have htakes (g : Nat) (hg : g ∈ List.range 16) :
      ((List.range 16).map fun g => bit (rMask b) g && groveUsable p g).getD g false = false := by
    have hlt := List.mem_range.1 hg
    cases hbit : bit (rMask b) g with
    | false => simp [List.getD_eq_getElem?_getD, hlt, hbit]
    | true => simp [List.getD_eq_getElem?_getD, hlt, groveUsable, hfenced g hlt hbit]
  have hnothing (g : Nat) : (List.replicate 16 (none : Option (List (Nat × Nat)))).getD g none = none := by
    rw [List.getD_eq_getElem?_getD, List.getElem?_replicate]
    split <;> rfl
  have hempty : ((List.range 16).flatMap fun _ => ([] : List (Nat × Nat))) = [] := by simp
  unfold runPatterns
  dsimp only
  rw [foldl_none _ htakes]
  simp only [List.nil_append, List.length_range, hnothing, Option.getD_none, List.map_nil, hempty, List.foldl_nil, hwrite]

end

/-! ### Results (R514) -/

theorem length_resultEntry (g : Nat) (pack : List Byte) (runs : Nat) (fails : Option (List (Nat × Nat))) (p : Pkg) :
    (resultEntry g pack runs fails p).length = 32 := by
  simp [resultEntry]

/-- The status byte of a result. -/
def resultStatus : Option (List (Nat × Nat)) → Nat
  | none => stGroveFenced
  | some [] => stOk
  | some (_ :: _) => stLedger

theorem resultEntry_status {g : Nat} (hg : g < 16) (pack : List Byte) (runs : Nat) (fails : Option (List (Nat × Nat)))
    (p : Pkg) : le (resultEntry g pack runs fails p) 0 1 = g ∧ le (resultEntry g pack runs fails p) 1 1 = resultStatus fails := by
  obtain ⟨rest, hrest⟩ : ∃ rest, resultEntry g pack runs fails p =
      BitVec.ofNat 8 g :: BitVec.ofNat 8 (resultStatus fails) :: rest := by
    rcases fails with _ | _ | _ <;> exact ⟨_, rfl⟩
  have hstatus : resultStatus fails < 256 := by
    rcases fails with _ | _ | _ <;> simp [resultStatus, stGroveFenced, stOk, stLedger]
  rw [hrest]
  simp [le, leVal, Nat.mod_eq_of_lt (show g < 256 by omega), Nat.mod_eq_of_lt hstatus]

/-- Settles O51: a pack that is read passes the checks of R511 in order; PATTERN_RUN comes to `runPatterns`, in which a grove
that is fenced takes no part. -/
theorem patternPacks : Obligations.PatternPacks := by
  unfold Obligations.PatternPacks
  refine ⟨fun s q w b p h hfields => ⟨fun hop hread => ?_, fun hop hin => ?_⟩,
    fun s q w b p pack pats h hfields hpack hpats hroom => ?_, fun g runs pack fails p hg => ?_⟩
  · intro pack hhead hstep hpatterns hfree hpackRoom
    rw [← loadPack_of_sound hhead hstep hpatterns hfree hpackRoom, ← patternLoad_of_load hfields hop hread]
    exact onPacketP_takes patternLoad h
  · rw [← patternLoad_of_unload hfields hop hin w s.set]
    exact onPacketP_takes patternLoad h
  · have hexec : exec (.patternRun q) s = .next { s with p := patternRun w b s.set p } := onPacketP_takes patternRun h
    rw [patternRun_of_operands hfields hpack hpats hroom] at hexec
    refine ⟨fun h3 => ?_, fun h3 hfiller hstep => ?_⟩
    · rw [hexec, if_pos (by simp [h3])]
    · have hmay : (s.set.envAct == 3 || (if le b 1 1 == 1 then !s.set.filler else stepBusy p)) = false := by
        by_cases hj : le b 1 1 = 1
        · simp [h3, hj, hfiller hj]
        · simp [h3, hj, hstep hj]
      rw [hexec, if_neg (Bool.eq_false_iff.1 hmay)]
      exact ⟨rfl, fun hfenced hwrite => by rw [runPatterns_of_fenced hfenced hwrite]⟩
  · obtain ⟨hgrove, hstatus⟩ := resultEntry_status hg pack runs fails p
    refine ⟨length_resultEntry g pack runs fails p, hgrove, hstatus.trans ?_⟩
    rcases fails with _ | _ | _ <;> rfl

end Sys2Proof.Machine
end

section
/-! PROOFS. Fabric time (O27, O26): what each operation of fabric time makes of its state, and that it touches nothing else
but what an event of a source does. -/

namespace Sys2Proof.Machine

/-! ### What operations of fabric time leave alone -/

/-- `q` is `p` but for fabric time and what events of sources do. -/
def FtOnly (p q : Pkg) : Prop := SameIc { p with ft := q.ft } q

/-- The same with the counts of detections. -/
def FtInteg (p q : Pkg) : Prop := SameIc { p with ft := q.ft, integ := q.integ } q

theorem SameIc.withFt {p q : Pkg} (h : SameIc p q) (f : Ft) : SameIc { p with ft := f } { q with ft := f } :=
  ⟨by rw [h.1], h.2⟩

theorem SameIc.withInteg {p q : Pkg} (h : SameIc p q) (g : Integ) : SameIc { p with integ := g } { q with integ := g } :=
  ⟨by rw [h.1], h.2⟩

theorem SameIc.ftOnly {p q : Pkg} (h : SameIc p q) : FtOnly p q := by
  refine SameIc.congr_left h ?_
  rw [h.1]

namespace FtOnly

theorem refl (p : Pkg) : FtOnly p p := SameIc.refl p

theorem trans {p q r : Pkg} (h1 : FtOnly p q) (h2 : FtOnly q r) : FtOnly p r :=
  SameIc.trans (SameIc.withFt h1 r.ft) h2

theorem integ {p q : Pkg} (h : FtOnly p q) : FtInteg p q := SameIc.congr_left h (by rw [h.1])

theorem links {p q : Pkg} (h : FtOnly p q) : q.links = p.links := by rw [h.1]

end FtOnly

theorem FtInteg.links {p q : Pkg} (h : FtInteg p q) : q.links = p.links := by rw [h.1]

theorem FtInteg.trans {p q r : Pkg} (h1 : FtInteg p q) (h2 : FtInteg q r) : FtInteg p r :=
  SameIc.trans (SameIc.withInteg (SameIc.withFt h1 r.ft) r.integ) h2

theorem portUp_congr {p q : Pkg} (h : q.links = p.links) : portUp q = portUp p := by
  funext i
  rw [portUp, portOf, h, portUp, portOf]

theorem upPorts_congr {p q : Pkg} (h : q.links = p.links) : upPorts q = upPorts p := by
  rw [upPorts, portUp_congr h, upPorts]

theorem modFt_frame (f : Ft → Ft) (p : Pkg) : FtOnly p (modFt f p) := SameIc.refl _

theorem setCount_frame (c : Nat) (p : Pkg) : FtOnly p (setCount c p) := by
  unfold setCount
  exact modFt_frame _ p

/-! ### Uncertainty and states (R444, R446, R447) -/

@[simp] theorem setU_ft (u : Option Nat) (p : Pkg) : (setU u p).ft = { p.ft with u := u, uAt := p.ft.count } := by
  unfold setU
  dsimp only
  split
  · rw [raise_ft]
    rfl
  · rfl

theorem setU_frame (u : Option Nat) (p : Pkg) : FtOnly p (setU u p) := by
  unfold setU
  dsimp only
  split
  · exact (modFt_frame _ p).trans (raise_frame _ _).ftOnly
  · exact modFt_frame _ p

@[simp] theorem setFtState_ft (st : FtState) (p : Pkg) : (setFtState st p).ft = { p.ft with state := st } := by
  unfold setFtState
  split
  next h => rw [← beq_iff_eq.1 h]
  next => rw [raise_ft]; rfl

theorem setFtState_frame (st : FtState) (p : Pkg) : FtOnly p (setFtState st p) := by
  unfold setFtState
  split
  · exact .refl p
  · exact (modFt_frame _ p).trans (raise_frame _ _).ftOnly

@[simp] theorem lockFt_ft (u : Nat) (p : Pkg) : (lockFt u p).ft = { p.ft with
    u := some u, uAt := p.ft.count, phase := .idle, everLocked := true, lockedAt := p.ft.count / 65536, good := 0
    state := .locked } := by
  simp [lockFt, modFt]

theorem lockFt_frame (u : Nat) (p : Pkg) : FtOnly p (lockFt u p) :=
  ((setU_frame _ p).trans (modFt_frame _ _)).trans (setFtState_frame _ _)

@[simp] theorem settleU_ft (p : Pkg) : (settleU p).ft = { p.ft with u := uNow p.ft, uAt := p.ft.count } := setU_ft _ p

theorem settleU_frame (p : Pkg) : FtOnly p (settleU p) := setU_frame _ p

section
variable {p : Pkg} (hlocked : p.ft.state = .locked)
include hlocked

theorem enterHoldover_ft : (enterHoldover p).ft = { p.ft with
    unlock := satAdd 0xFFFF p.ft.unlock 1, parent := none, uAt := p.ft.count, good := 0, state := .holdover } := by
  simp [enterHoldover, hlocked, modFt]

theorem enterHoldover_integ : (enterHoldover p).integ =
    { p.integ with detect := modAt p.integ.detect 9 fun v => min 0xFFFFFFFF (v + 1) } := by
  have h := setFtState_frame .holdover (modFt (fun f => { f with
    unlock := satAdd 0xFFFF f.unlock 1, parent := none, uAt := f.count, good := 0 }) p)
  simp only [enterHoldover, hlocked, bne_self_eq_false, Bool.false_eq_true, if_false, detect]
  rw [h.1]
  rfl

end

theorem enterHoldover_of_unlocked {p : Pkg} (h : p.ft.state ≠ .locked) : enterHoldover p = p := by
  simp [enterHoldover, h]

theorem enterHoldover_refclk (p : Pkg) : (enterHoldover p).ft.refclk = p.ft.refclk := by
  by_cases h : p.ft.state = .locked
  · rw [enterHoldover_ft h]
  · rw [enterHoldover_of_unlocked h]

theorem enterHoldover_frame (p : Pkg) : FtInteg p (enterHoldover p) := by
  by_cases h : p.ft.state = .locked
  · have hstate := setFtState_frame .holdover (modFt (fun f => { f with
      unlock := satAdd 0xFFFF f.unlock 1, parent := none, uAt := f.count, good := 0 }) p)
    have hheld := ((modFt_frame _ p).trans hstate).integ
    simp only [enterHoldover, h, bne_self_eq_false, Bool.false_eq_true, if_false]
    exact hheld.withInteg _
  · rw [enterHoldover_of_unlocked h]
    exact SameIc.refl _

/-! ### Second marks (R446) -/

theorem reftimeMark_of_align {p : Pkg} (hphase : p.ft.phase = .align) (hroot : p.ft.root = true)
    (hever : p.ft.everLocked = false) (hclk : p.ft.refclk = true) :
    reftimeMark p = lockFt 0 (modFt (fun f => { f with lastMark := some f.count, markBase := f.count, markOfs := 0 })
      (setCount (nextSecond p.ft.count) p)) := by
  simp [reftimeMark, hphase, hroot, hever, hclk]

/-- A mark that sets nothing is measured against the second it is nearest to. -/
def markedAt (f : Ft) : Ft :=
  { f with
    lastMark := some f.count, markBase := f.count, markOfs := secondOffset f.count
    markOff := min 0xFF (f.markOff + if f.everLocked = true ∧ 6553600 < (secondOffset f.count).natAbs then 1 else 0) }

theorem reftimeMark_of_other {p : Pkg} (h : p.ft.phase ≠ .align ∨ p.ft.refclk = false) :
    (reftimeMark p).ft = markedAt p.ft ∧ FtOnly p (reftimeMark p) := by
  have hno : (p.ft.phase == .align && p.ft.root && !p.ft.everLocked && p.ft.refclk) = false := by
    rcases h with h | h <;> simp [h]
  have hoff : (min 0xFF (p.ft.markOff + if p.ft.everLocked = true ∧ 6553600 < (secondOffset p.ft.count).natAbs then 1 else 0))
      = satAdd 0xFF p.ft.markOff (b2n (p.ft.everLocked && decide (6553600 < (secondOffset p.ft.count).natAbs))) := by
    simp [satAdd, b2n]
  simp only [reftimeMark, hno, markedAt, hoff, Bool.false_eq_true, if_false]
  split
  · exact ⟨by rw [raise_ft]; rfl, (modFt_frame _ p).trans (raise_frame _ _).ftOnly⟩
  · exact ⟨rfl, modFt_frame _ p⟩

/-- Settles O27: each clause is the fabric time that its command's operations give, and `FtOnly` of each of them. -/
theorem reftime : Obligations.Reftime := by
  unfold Obligations.Reftime
  refine fun s => ⟨fun hphase hroot hever hstate hclk => ?_, fun h => ?_, fun hmark hlate => ?_, fun hclk => ?_,
    fun hclk => ?_, fun u hstate hu => ?_⟩
  · show ∃ t, execReftimeMark s = _ ∧ _
    refine ⟨_, onP_of_eq (reftimeMark_of_align hphase hroot hever hclk), ?_⟩
    refine ⟨?_, ?_, ?_, ?_, ?_, ?_, ?_,
      ((setCount_frame (nextSecond s.p.ft.count) s.p).trans (modFt_frame _ _)).trans (lockFt_frame 0 _)⟩ <;>
      rw [lockFt_ft] <;> rfl
  · obtain ⟨hft, hframe⟩ := reftimeMark_of_other h
    show ∃ t, execReftimeMark s = _ ∧ _
    refine ⟨_, onP_of_eq rfl, ?_⟩
    refine ⟨?_, ?_, ?_, ?_, ?_, hframe⟩ <;> rw [hft] <;> rfl
  · show execMarkMiss s = _
    refine onP_of_eq ?_
    simp only [Option.isSome_iff_ne_none.2 hmark, hlate, decide_true, Bool.and_self, if_true]
    rfl
  · show ∃ t, execReftimeLoss s = _ ∧ _
    refine ⟨_, onP_of_eq (if_pos hclk), ?_⟩
    have hframe : FtInteg s.p (enterHoldover (modFt (fun f => { f with refclk := false }) (settleU s.p))) :=
      (((settleU_frame s.p).trans (modFt_frame _ _)).integ).trans (enterHoldover_frame _)
    have hft : (raise 338 (enterHoldover (modFt (fun f => { f with refclk := false }) (settleU s.p)))).ft =
        (enterHoldover (modFt (fun f => { f with refclk := false }) (settleU s.p))).ft := raise_ft _ _
    refine ⟨?_, fun hlocked => ?_, fun hlocked => ?_, hframe.trans (raise_frame _ _).ftOnly.integ⟩ <;> rw [hft]
    · exact enterHoldover_refclk _
    · rw [enterHoldover_ft (by rw [modFt_ft, settleU_ft]; exact hlocked)]
      simp [modFt, satAdd]
    · rw [enterHoldover_of_unlocked (by rw [modFt_ft, settleU_ft]; exact hlocked)]
      simp [modFt]
  · show ∃ t, execReftimeRestore s = _ ∧ _
    refine ⟨_, onP_of_eq (if_neg (by simp [hclk])), ?_, ?_,
      ((settleU_frame s.p).trans (modFt_frame _ _)).trans (raise_frame _ _).ftOnly⟩ <;>
      simp [modFt]
  · show ∃ t, execFtUncert s = _ ∧ _
    refine ⟨_, onP_of_eq (if_pos (by simp [hstate])), ?_, ?_, settleU_frame s.p⟩ <;>
      simp [uNow, hu, hstate]

/-! ### Parents (R440, R447) -/

/-- `chooseParent` reads of a package its ports, the root it follows and the instant, and of each port what it reported. -/
theorem chooseParent_congr {p q : Pkg} (hq : ∀ i, qualifies q i = qualifies p i)
    (hhops : ∀ i, (timeOf q i).hops = (timeOf p i).hops) (except : Option Nat) : chooseParent q except = chooseParent p except := by
  simp only [chooseParent, hq, hhops]

theorem timeOf_modTime (i j : Nat) (f : PortTime → PortTime) (p : Pkg) :
    timeOf (modTime i f p) j = if i = j ∧ j < p.ft.ports.length then f (timeOf p j) else timeOf p j :=
  modAt_getD p.ft.ports i j f {}

/-- The REQ of a port waits no more, and its exchanges in a row count anew. -/
def withoutReq (i : Nat) (p : Pkg) : Pkg := modTime i (fun t => { t with req := none, same := 0 }) p

theorem timeOf_withoutReq (i j : Nat) (p : Pkg) : ∃ r n, timeOf (withoutReq i p) j = { timeOf p j with req := r, same := n } := by
  rw [withoutReq, timeOf_modTime]
  split
  · exact ⟨none, 0, rfl⟩
  · exact ⟨_, _, rfl⟩

theorem chooseParent_withoutReq (i : Nat) (p : Pkg) (except : Option Nat) :
    chooseParent (withoutReq i p) except = chooseParent p except := by
  refine chooseParent_congr (fun j => ?_) (fun j => ?_) except <;> obtain ⟨r, n, h⟩ := timeOf_withoutReq i j p
  · rw [qualifies, h]
    rfl
  · rw [h]

theorem loseParent_of_some {p : Pkg} {j : Nat} (h : chooseParent p p.ft.parent = some j) : loseParent p = setParent (some j) p := by
  simp [loseParent, h]

theorem loseParent_of_none {p : Pkg} (h : chooseParent p p.ft.parent = none) : loseParent p = enterHoldover p := by
  simp [loseParent, h]

theorem setParent_frame (i : Option Nat) (p : Pkg) : FtOnly p (setParent i p) := modFt_frame _ p

theorem loseParent_frame (p : Pkg) : FtInteg p (loseParent p) := by
  unfold loseParent
  split
  · exact (setParent_frame _ p).integ
  · exact enterHoldover_frame p

/-- A parent that is lost leaves the ports' records. -/
theorem loseParent_ports (p : Pkg) : (loseParent p).ft.ports = p.ft.ports := by
  unfold loseParent
  split
  · rfl
  · by_cases h : p.ft.state = .locked
    · rw [enterHoldover_ft h]
    · rw [enterHoldover_of_unlocked h]

/-- What the end of the wait for a RESP makes of the package (R447). -/
def respLate (i : Nat) (p : Pkg) : Pkg :=
  if p.ft.parent ≠ some i then withoutReq i p
  else if p.ft.state = .locked then loseParent (withoutReq i p)
  else modFt (fun f => { f with good := 0 }) (withoutReq i p)

theorem execTimeRespTimeout_of_late {s : State} {i id t1 : Nat} (hreq : (timeOf s.p i).req = some (id, t1))
    (hlate : 65536000000 ≤ (stampDiff (s.p.ft.count % 2 ^ 64) t1).toNat) :
    execTimeRespTimeout i s = .next { s with p := respLate i s.p } := by
  refine onP_of_eq ?_
  have hafter : ¬ (stampDiff (stamp s.p) t1).toNat < 65536000000 := Nat.not_lt.2 hlate
  rw [hreq]
  simp only [hafter, if_false, bne_iff_ne, beq_iff_eq]
  rfl

section
variable {i : Nat} {p : Pkg}

theorem respLate_of_other (h : ¬ (p.ft.state = .locked ∧ p.ft.parent = some i)) :
    (respLate i p).ft.state = p.ft.state ∧ (respLate i p).ft.parent = p.ft.parent := by
  unfold respLate
  by_cases hparent : p.ft.parent = some i
  · rw [if_neg (by simp [hparent]), if_neg fun hs => h ⟨hs, hparent⟩]
    exact ⟨rfl, rfl⟩
  · rw [if_pos hparent]
    exact ⟨rfl, rfl⟩

theorem respLate_of_parent (hstate : p.ft.state = .locked) (hparent : p.ft.parent = some i) :
    respLate i p = loseParent (withoutReq i p) := by
  simp [respLate, hstate, hparent]

theorem respLate_frame (i : Nat) (p : Pkg) : FtInteg p (respLate i p) := by
  have hreq : FtOnly p (withoutReq i p) := modFt_frame _ p
  unfold respLate
  split
  · exact hreq.integ
  · split
    · exact hreq.integ.trans (loseParent_frame _)
    · exact (hreq.trans (modFt_frame _ _)).integ

theorem respLate_ports (i : Nat) (p : Pkg) : (respLate i p).ft.ports = (withoutReq i p).ft.ports := by
  unfold respLate
  split
  · rfl
  · split
    · exact loseParent_ports _
    · rfl

end

/-! ### Elections (R439, R446, R447) -/

/-- An election is not over while an UP neighbour has not reported the same root. -/
theorem checkElect_of_fresh {serial : Nat} {p : Pkg} (hup : upPorts p ≠ []) (hsame : ∀ i, (timeOf p i).same = 0) :
    checkElect serial p = p := by
  obtain ⟨i, hi⟩ := List.exists_mem_of_ne_nil _ hup
  have hopen : electDone p = false :=
    Bool.eq_false_iff.2 fun hdone => absurd (List.all_eq_true.1 hdone i hi) (by simp [hsame i])
  simp [checkElect, hopen]

/-- Elect begins with the best candidate so far. -/
def elects (f : Ft) : Ft := { f with phase := .elect, ports := f.ports.map fun t => { t with same := 0 } }

/-- A package with no UP neighbour ends its election at once. -/
theorem checkElect_of_alone {serial : Nat} {p : Pkg} (hphase : p.ft.phase = .elect) (hup : upPorts p = []) :
    checkElect serial p = endElect serial p := by
  simp [checkElect, electDone, hphase, hup]

theorem same_map_zero (l : List PortTime) (i : Nat) : ((l.map fun t : PortTime => { t with same := 0 }).getD i {}).same = 0 := by
  rw [List.getD_eq_getElem?_getD, List.getElem?_map]
  cases l[i]? <;> rfl

/-- The election of a package that stands anew goes on while it has an UP neighbour. -/
theorem checkElect_standSelf {serial : Nat} {p : Pkg} (hup : upPorts p ≠ []) (phase : FtPhase) :
    checkElect serial (standSelf phase serial p) = standSelf phase serial p :=
  checkElect_of_fresh hup fun i => same_map_zero p.ft.ports i

/-- In HOLDOVER, a package with U below 1 µs stands for root itself. -/
theorem standSelf_of_certain {p : Pkg} {u : Nat} (hstate : p.ft.state = .holdover) (hu : uNow p.ft = some u) (hlow : u < 65536000)
    (phase : FtPhase) (serial : Nat) :
    (standSelf phase serial p).ft.rootSerial = serial ∧ (standSelf phase serial p).ft.rootPrio = p.ft.priority := by
  simp [standSelf, hstate, hu, hlow]

/-- One with a larger U ranks behind every candidate. -/
theorem standSelf_of_uncertain {p : Pkg} {u : Nat} (hstate : p.ft.state = .holdover) (hu : uNow p.ft = some u)
    (hhigh : 65536000 ≤ u) (phase : FtPhase) (serial : Nat) :
    (standSelf phase serial p).ft.rootSerial = 2 ^ 64 - 1 ∧ (standSelf phase serial p).ft.rootPrio = 255 := by
  have hno : decide (u < 65536000) = false := decide_eq_false (Nat.not_lt.2 hhigh)
  unfold standSelf
  rw [hstate, hu]
  dsimp only
  rw [hno]
  exact ⟨rfl, rfl⟩

theorem standSelf_frame (phase : FtPhase) (serial : Nat) (p : Pkg) : FtOnly p (standSelf phase serial p) := modFt_frame _ p

theorem rootLoss_of_silent {p : Pkg} (hstate : p.ft.state = .holdover) (hphase : p.ft.phase = .idle) (hroot : p.ft.root = false)
    (hup : upPorts p ≠ [])
    (hsilent : ∀ j ∈ upPorts p, (timeOf p j).heard = false ∨ (timeOf p j).serial ≠ p.ft.rootSerial ∨
      (timeOf p j).priority ≠ p.ft.rootPrio ∨ 5000000 ≤ sinceNs p (timeOf p j).seqAt) (serial : Nat) :
    rootLoss serial p = standSelf .elect serial p := by
  have hlost : rootSilent p = true := by
    simp only [rootSilent, hstate, hphase, hroot, beq_self_eq_true, Bool.not_false, Bool.and_self, Bool.true_and,
      List.all_eq_true]
    intro j hj
    rcases hsilent j hj with h | h | h | h
    · rw [h]
      rfl
    · rw [bne_iff_ne.2 h, Bool.or_true]
      rfl
    · rw [bne_iff_ne.2 h, Bool.or_true]
      rfl
    · rw [decide_eq_true h, Bool.or_true]
  simp only [rootLoss, hstate, hlost, if_true, checkElect_standSelf hup]

theorem rootLoss_of_locked {p : Pkg} {i : Nat} (hstate : p.ft.state = .locked) (hparent : p.ft.parent = some i)
    (hlate : 5000000 ≤ sinceNs p (timeOf p i).seqAt) (hup : upPorts p ≠ []) (serial : Nat) :
    rootLoss serial p = standSelf .elect serial (enterHoldover p) := by
  have hports := upPorts_congr (enterHoldover_frame p).links
  simp only [rootLoss, hstate, hparent, Nat.not_lt.2 hlate, if_false, checkElect_standSelf (hports ▸ hup)]

/-- A package alone is its own root, with U at 0 before its first mark. -/
theorem endElect_of_first {serial : Nat} {p : Pkg} (hserial : p.ft.rootSerial = serial) (hprio : p.ft.rootPrio = p.ft.priority)
    (hever : p.ft.everLocked = false) :
    endElect serial p = { p with ft := { p.ft with
      root := true, hops := 0, parent := none, phase := .align, u := some 0, uAt := p.ft.count } } := by
  simp [endElect, hserial, hprio, hever, setU, overLimit, modFt]

/-- Settles O26: a lost parent is replaced or HOLDOVER begins, and an election that a lost root or the end of Listen begins goes
on, for no neighbour has agreed yet. -/
theorem locksAreLost : Obligations.LocksAreLost := by
  unfold Obligations.LocksAreLost
  refine fun s => ⟨fun i id t1 hreq hi hlate => ?_, fun i hstate hparent hlate hup => ?_,
    fun hstate hphase hroot hup hsilent => ?_, fun hphase => ⟨fun hup => ?_, fun hup hever hserial hprio => ?_⟩⟩
  · show ∃ t, execTimeRespTimeout i s = _ ∧ _
    have hchoice : chooseParent (withoutReq i s.p) (some i) = chooseParent s.p (some i) := chooseParent_withoutReq i s.p _
    refine ⟨_, execTimeRespTimeout_of_late hreq hlate, ?_, respLate_of_other, fun hstate hparent hnone => ?_,
      fun j hstate hparent hsome => ?_, respLate_frame i s.p⟩
    · rw [timeOf, respLate_ports]
      exact congrArg PortTime.req ((timeOf_modTime i i _ s.p).trans (if_pos ⟨rfl, hi⟩))
    · have hlost : chooseParent (withoutReq i s.p) (withoutReq i s.p).ft.parent = none := by
        rw [show (withoutReq i s.p).ft.parent = some i from hparent, hchoice, hnone]
      have hlocked : (withoutReq i s.p).ft.state = .locked := hstate
      rw [respLate_of_parent hstate hparent, loseParent_of_none hlost, enterHoldover_ft hlocked, enterHoldover_integ hlocked]
      exact ⟨rfl, rfl, rfl, rfl⟩
    · have hfound : chooseParent (withoutReq i s.p) (withoutReq i s.p).ft.parent = some j := by
        rw [show (withoutReq i s.p).ft.parent = some i from hparent, hchoice, hsome]
      rw [respLate_of_parent hstate hparent, loseParent_of_some hfound]
      exact ⟨hstate, rfl, rfl⟩
  · show ∃ t, execRootLoss s = _ ∧ _
    refine ⟨_, onP_of_eq (rootLoss_of_locked hstate hparent hlate hup s.set.serial), ?_⟩
    have hft := enterHoldover_ft hstate
    have hheld : (enterHoldover s.p).ft.state = .holdover := by rw [hft]
    have hnow {u : Nat} (hu : s.p.ft.u = some u) : uNow (enterHoldover s.p).ft = some u := by
      rw [hft]
      simp [uNow, hu]
    have hprio : (enterHoldover s.p).ft.priority = s.p.ft.priority := by rw [hft]
    refine ⟨hheld, rfl, rfl, ?_, ?_, fun u hu hlow => ?_, fun u hu hhigh => ?_,
      (enterHoldover_frame s.p).trans (standSelf_frame _ _ _).integ⟩
    · show (enterHoldover s.p).ft.unlock = _
      rw [hft]
      rfl
    · show (enterHoldover s.p).ft.count = _
      rw [hft]
    · rw [← hprio]
      exact standSelf_of_certain hheld (hnow hu) hlow _ _
    · exact standSelf_of_uncertain hheld (hnow hu) hhigh _ _
  · show ∃ f, execRootLoss s = _ ∧ _
    exact ⟨_, onP_of_eq (rootLoss_of_silent hstate hphase hroot hup hsilent s.set.serial), hstate, rfl, rfl, rfl, rfl, rfl⟩
  · show execListenEnd s = _
    refine onP_of_eq ?_
    rw [hphase, if_pos (by rfl)]
    exact checkElect_of_fresh hup fun i => same_map_zero s.p.ft.ports i
  · show ∃ f, execListenEnd s = _ ∧ _
    have hlisten : execListenEnd s = .next { s with p := endElect s.set.serial (modFt elects s.p) } :=
      onP_of_eq (by rw [hphase, if_pos (by rfl)]; exact checkElect_of_alone rfl hup)
    rw [endElect_of_first (p := modFt elects s.p) hserial hprio hever] at hlisten
    exact ⟨_, hlisten, rfl, rfl, rfl, rfl, rfl, rfl, rfl⟩

end Sys2Proof.Machine
end

section
/-! PROOFS. Frames that leave a port, and the time messages (O25). -/

namespace Sys2Proof.Machine

/-! ### The next frame of a port (R402) -/

/-- What a frame of this package that leaves on a port makes of it: it takes a credit, an LSEQ and a place in the replay buffer. -/
def afterFrame (n : Nat) (f : Frame) (q : Port) : Port :=
  { q with
    lane := (q.lane + 1) % n
    credits := modAt q.credits (slotOf f.vc f.cls) fun c => c - 1
    owed := List.replicate 16 0
    txSeq := (q.txSeq + 1) % 2 ^ 32
    sent := q.sent ++ [(q.txSeq, f, q.owed)]
    own := removeOne f q.own
    lastVc := if 2 ≤ f.vc then f.vc else q.lastVc
    inMsg := q.inMsg.set f.vc (nextTurn q true f).1
    passTurn := q.passTurn.set f.vc (nextTurn q true f).2 }

/-- The 512 bytes that leave, with the stamp of the moment in a frame of VC1. -/
def frameOut (f : Frame) (q : Port) (p : Pkg) : List Byte :=
  frameBytes 1 q.txSeq (ackOf q) 0xFFFFFFFF (if f.vc = 1 then stamp p else 0) q.owed f

/-- The package after a frame of its own has left on a port. -/
def withFrame (n i : Nat) (f : Frame) (p : Pkg) : Pkg :=
  { p with
    links := { p.links with ports := modAt p.links.ports i (afterFrame n f) }
    out := { p.out with frames := p.out.frames ++ [(i, (portOf p i).lane % n, frameOut f (portOf p i) p)] }
    ft := (noteStamp i f true (if f.vc = 1 then stamp p else 0) p).ft }

theorem noteStamp_eq (i : Nat) (f : Frame) (fresh : Bool) (t : Nat) (p : Pkg) :
    noteStamp i f fresh t p = { p with ft := (noteStamp i f fresh t p).ft } := by
  unfold noteStamp
  dsimp only
  split <;> rfl

theorem modPort_congr {i : Nat} {f h : Port → Port} {p : Pkg} (hf : f (portOf p i) = h (portOf p i)) :
    modPort i f p = modPort i h p := by
  rw [modPort, modPort, modAt_congr_getD hf]

theorem modPort_modPort (i : Nat) (f h : Port → Port) (p : Pkg) :
    modPort i h (modPort i f p) = modPort i (fun x => h (f x)) p := by
  rw [modPort, modPort, modPort, modAt_modAt]

theorem noteStamp_ft_congr {p q : Pkg} (h : q.ft = p.ft) (i : Nat) (f : Frame) (fresh : Bool) (t : Nat) :
    (noteStamp i f fresh t q).ft = (noteStamp i f fresh t p).ft := by
  have htime : timeOf q i = timeOf p i := by rw [timeOf, h, timeOf]
  unfold noteStamp
  dsimp only
  rw [htime]
  split
  · rw [modTime, modFt_ft, h]
    rfl
  · exact h

/-- Only a REQ leaves its stamp. -/
theorem noteStamp_of_other {f : Frame} (h : f.vc ≠ 1 ∨ le f.payload 0 1 ≠ 0) (i : Nat) (fresh : Bool) (t : Nat) (p : Pkg) :
    noteStamp i f fresh t p = p := by
  rcases h with h | h <;> simp [noteStamp, h]

theorem sendData_eq (set : Settings) (i : Nat) (fresh : Bool) (seq : Nat) (f : Frame) (owed : List Nat) (p : Pkg) :
    sendData set i fresh seq f owed p =
      { modPort i (fun q => { q with lane := (q.lane + 1) % laneCount set.lanes }) p with
        out := { p.out with frames := p.out.frames ++ [(i, (portOf p i).lane % laneCount set.lanes,
          frameBytes 1 seq (ackOf (portOf p i)) 0xFFFFFFFF (if f.vc = 1 then stamp p else 0) owed f)] }
        ft := (noteStamp i f fresh (if f.vc = 1 then stamp p else 0) p).ft } := by
  unfold sendData
  simp only [beq_iff_eq]
  generalize frameBytes 1 seq _ _ _ owed f = bs
  have hft := noteStamp_ft_congr (p := p) (q := putFrame set i bs p) rfl i f fresh (if f.vc = 1 then stamp p else 0)
  rw [noteStamp_eq, hft]
  rfl

section
variable {set : Settings} {i vc : Nat} {f : Frame} {p : Pkg} (hup : (portOf p i).state = .up)
include hup

theorem transmit_of_own (hroom : (portOf p i).sent.length < 512) (hnext : nextVc (portOf p i) = some vc)
    (hready : vcReady (portOf p i) vc = some (.inl f)) :
    transmit set i p = withFrame (laneCount set.lanes) i f p := by
  have hr : (if (portOf p i).sent.length < 512 then (nextVc (portOf p i)).bind fun vc => vcReady (portOf p i) vc else none)
      = some (.inl f) := by
    rw [if_pos hroom, hnext]
    exact hready
  simp only [transmit, hup, hr, bne_self_eq_false, Bool.false_eq_true, if_false]
  rw [sendData_eq]
  refine congrArg (fun q : Pkg => { q with out := (withFrame (laneCount set.lanes) i f p).out
                                           ft := (withFrame (laneCount set.lanes) i f p).ft })
    ((modPort_modPort i (fun q => { q with lane := (q.lane + 1) % laneCount set.lanes }) _ p).trans
      (modPort_congr (h := afterFrame (laneCount set.lanes) f) ?_))
  rfl

/-- With no frame ready, or no place in the replay buffer, an IDLE frame leaves. -/
theorem transmit_of_none (h : nextVc (portOf p i) = none ∨ 512 ≤ (portOf p i).sent.length) :
    transmit set i p = sendIdle set i 0xFFFFFFFF p := by
  have hnone : (if (portOf p i).sent.length < 512 then (nextVc (portOf p i)).bind fun vc => vcReady (portOf p i) vc else none)
      = none := by
    rcases h with h | h
    · rw [h]
      exact ite_self _
    · exact if_neg (Nat.not_lt.2 h)
  simp only [transmit, hup, hnone, bne_self_eq_false, Bool.false_eq_true, if_false]

end

/-- A frame that a VC would send is of that VC. -/
theorem vc_of_vcReady {q : Port} {vc : Nat} {f : Frame} (h : vcReady q vc = some (.inl f)) : f.vc = vc := by
  have hpass (can : Passing → Bool) (g : Frame) : (q.pass.find? can).map Sum.inr ≠ some (.inl g) := by
    cases q.pass.find? can <;> simp
  have hor {a b : Option (Frame ⊕ Passing)} (h : a.or b = some (.inl f)) : a = some (.inl f) ∨ b = some (.inl f) := by
    cases a <;> simp_all
  have hown : (q.own.find? fun f => f.vc == vc && decide (0 < q.credits.getD (slotOf vc f.cls) 0)).map Sum.inl =
      some (.inl (β := Passing) f) := by
    unfold vcReady at h
    dsimp only at h
    split at h
    · split at h
      · exact (hor h).resolve_left (hpass _ _)
      · exact (hor h).resolve_right (hpass _ _)
    · exact (hor h).resolve_right (hpass _ _)
    · exact (hor h).resolve_left fun h => (hor h).elim (hpass _ _) (hpass _ _)
  obtain ⟨g, hfound, hg⟩ := Option.map_eq_some_iff.1 hown
  obtain rfl := Sum.inl.inj hg
  have hcan := List.find?_some hfound
  simp only [Bool.and_eq_true, beq_iff_eq] at hcan
  exact hcan.1

section
variable {q : Port} {f : Frame} (hown : q.own = [f]) (hpass : q.pass = [])
include hown hpass

/-- The VC of a frame that waits alone is ready when it holds a credit, and no other is. -/
theorem vcReady_of_alone (vc : Nat) :
    vcReady q vc = if f.vc == vc && 0 < q.credits.getD (slotOf vc f.cls) 0 then some (.inl f) else none := by
  have hpassing (can : Passing → Bool) : (q.pass.find? can).map (Sum.inr (α := Frame)) = none := by rw [hpass]; rfl
  unfold vcReady
  dsimp only
  rw [hown, List.find?_singleton]
  simp only [hpassing]
  rcases q.inMsg.getD vc 0 with _ | _ | n <;> split <;> simp

end

/-- The frame of a package whose port has nothing else to send, on the first two VCs. -/
theorem nextVc_of_alone {q : Port} {f : Frame} (hown : q.own = [f]) (hpass : q.pass = []) (hvc : f.vc = 1)
    (hcredit : 0 < q.credits.getD (slotOf 1 f.cls) 0) : nextVc q = some 1 := by
  have h0 : vcCan q 0 = false := by
    rw [vcCan, vcReady_of_alone hown hpass, hvc]
    rfl
  have h1 : vcCan q 1 = true := by
    rw [vcCan, vcReady_of_alone hown hpass, hvc, decide_eq_true hcredit]
    rfl
  simp [nextVc, h0, h1]

/-! ### Time messages (R441) -/

/-- A port that is UP, has nothing else to send and holds a credit of VC1. -/
def TimeFree (q : Port) : Prop := q.own = [] ∧ q.pass = [] ∧ q.sent.length < 512 ∧ 0 < q.credits.getD 2 0

/-- What the frame of a time message makes of a port with nothing else to send. -/
def afterTime (n : Nat) (f : Frame) (q : Port) : Port := afterFrame n f { q with own := q.own ++ [f] }

/-- The package after a time message has left on a port. -/
def withTime (set : Settings) (i : Nat) (m : TimeMsg) (p : Pkg) : Pkg :=
  let f := timeFrame p i m
  { p with
    links := { p.links with ports := modAt p.links.ports i (afterTime (laneCount set.lanes) f) }
    out := { p.out with frames := p.out.frames ++ [(i, (portOf p i).lane % laneCount set.lanes,
      frameBytes 1 (portOf p i).txSeq (ackOf (portOf p i)) 0xFFFFFFFF (stamp p) (portOf p i).owed f)] }
    ft := (noteStamp i f true (stamp p) p).ft }

theorem portOf_modPort_self {i : Nat} {p : Pkg} (hi : i < p.links.ports.length) (f : Port → Port) :
    portOf (modPort i f p) i = f (portOf p i) := by
  rw [portOf_modPort, if_pos ⟨rfl, hi⟩]

theorem portOf_modPort_ne {i j : Nat} (h : j ≠ i) (f : Port → Port) (p : Pkg) : portOf (modPort i f p) j = portOf p j := by
  rw [portOf_modPort, if_neg fun hc => h hc.1.symm]

theorem length_of_portUp {p : Pkg} {i : Nat} (h : portUp p i = true) : i < p.links.ports.length := by
  by_contra hi
  have hout : portOf p i = {} := by
    rw [portOf, List.getD_eq_getElem?_getD, List.getElem?_eq_none (Nat.not_lt.1 hi)]
    rfl
  rw [portUp, hout] at h
  cases h

theorem withTime_ft (set : Settings) (i : Nat) (m : TimeMsg) (p : Pkg) :
    (withTime set i m p).ft = (noteStamp i (timeFrame p i m) true (stamp p) p).ft := rfl

/-- A time message leaves at once in one VC1 frame, with the stamp of the moment. -/
theorem sendTime_of_free {set : Settings} {i : Nat} {p : Pkg} (hup : portUp p i = true) (hfree : TimeFree (portOf p i))
    (m : TimeMsg) : sendTime set i m p = withTime set i m p := by
  obtain ⟨hown, hpass, hroom, hcredit⟩ := hfree
  have hi := length_of_portUp hup
  have hport := portOf_modPort_self hi fun q => { q with own := q.own ++ [timeFrame p i m] }
  have hone : (portOf (modPort i (fun q => { q with own := q.own ++ [timeFrame p i m] }) p) i).own = [timeFrame p i m] := by
    rw [hport, hown]
    rfl
  have hnone : (portOf (modPort i (fun q => { q with own := q.own ++ [timeFrame p i m] }) p) i).pass = [] := by
    rw [hport]
    exact hpass
  have hcan : 0 < (portOf (modPort i (fun q => { q with own := q.own ++ [timeFrame p i m] }) p) i).credits.getD
      (slotOf 1 (timeFrame p i m).cls) 0 := by
    rw [hport]
    exact hcredit
  have hready := vcReady_of_alone hone hnone 1
  rw [decide_eq_true hcan] at hready
  unfold sendTime
  rw [transmit_of_own (by rw [hport]; exact beq_iff_eq.1 hup) (by rw [hport]; exact hroom)
    (nextVc_of_alone hone hnone rfl hcan) hready]
  have hft := noteStamp_ft_congr (p := p) (q := modPort i (fun q => { q with own := q.own ++ [timeFrame p i m] }) p) rfl i
    (timeFrame p i m) true (stamp p)
  have hports := modAt_modAt p.links.ports i (fun q => { q with own := q.own ++ [timeFrame p i m] })
    (afterFrame (laneCount set.lanes) (timeFrame p i m))
  rw [withFrame, hport, withTime, ← hft]
  refine congrArg (fun l : List Port => ({ p with
    links := { p.links with ports := l }, out := _, ft := _ } : Pkg)) hports

theorem le_timeBytes_kind {m : TimeMsg} (h : m.kind < 256) : le (timeBytes m) 0 1 = m.kind := by
  rw [timeBytes]
  simp only [List.append_assoc]
  exact le_field [] _ 0 1 m.kind rfl h

theorem le_timeBytes_reqId (m : TimeMsg) : le (timeBytes m) 24 4 = m.reqId % 2 ^ 32 := by
  have hsplit : timeBytes m = (leBytes 1 m.kind ++ leBytes 1 (b2n m.locked + 2 * b2n m.root) ++ leBytes 1 m.priority ++
      leBytes 1 m.hops ++ leBytes 4 m.seq ++ leBytes 8 m.rootSerial ++ leBytes 8 m.t2) ++
      (leBytes 4 m.reqId ++ (leBytes 4 m.uncert ++ List.replicate 16 0)) := by
    simp only [timeBytes, List.append_assoc]
  rw [hsplit, le_append _ _ 24 4 (by simp), List.take_left' (length_leBytes 4 _), leVal_leBytes]
  rfl

/-- The REQ that leaves is noted with its stamp. -/
theorem noteStamp_of_req {p : Pkg} {i : Nat} {m : TimeMsg} (h : m.kind = 0) (t : Nat) :
    noteStamp i (timeFrame p i m) true t p = modTime i (fun x => { x with req := some (m.reqId % 2 ^ 32, t) }) p := by
  have hkind : le (timeFrame p i m).payload 0 1 = 0 := (le_timeBytes_kind (by omega)).trans h
  have hid : le (timeFrame p i m).payload 24 4 = m.reqId % 2 ^ 32 := le_timeBytes_reqId m
  simp only [noteStamp, hkind, hid, Bool.true_or, Bool.and_true, beq_self_eq_true]
  rfl

/-- A RESP leaves no stamp. -/
theorem noteStamp_of_resp {p : Pkg} {i : Nat} {m : TimeMsg} (h : m.kind = 1) (t : Nat) :
    noteStamp i (timeFrame p i m) true t p = p :=
  noteStamp_of_other (.inr (by rw [show le (timeFrame p i m).payload 0 1 = 1 from (le_timeBytes_kind (by omega)).trans h]; decide))
    i true t p

/-- The frame that leaves is that of a package with the same ports, outputs and count. -/
theorem withTime_sends {p q : Pkg} (hlinks : q.links = p.links) (hframes : q.out.frames = p.out.frames)
    (hcount : q.ft.count = p.ft.count) (set : Settings) (i : Nat) (m : TimeMsg) :
    (withTime set i m q).out.frames = p.out.frames ++ [(i, (portOf p i).lane % laneCount set.lanes,
      frameBytes 1 (portOf p i).txSeq (ackOf (portOf p i)) 0xFFFFFFFF (p.ft.count % 2 ^ 64) (portOf p i).owed
        { vc := 1, cls := 0, som := true, eom := true, dst := (portOf p i).nbr, src := p.links.addr, hops := 0
          payload := timeBytes m })] ∧
      (withTime set i m q).links = { p.links with ports := (withTime set i m q).links.ports } ∧
      ∀ j, j ≠ i → portOf (withTime set i m q) j = portOf p j := by
  have hport (j : Nat) : portOf q j = portOf p j := by rw [portOf, hlinks, portOf]
  refine ⟨?_, ?_, fun j hj => ?_⟩
  · rw [withTime, timeFrame, stamp, hframes, hport, hcount, hlinks]
  · rw [withTime, hlinks]
  · exact (portOf_modPort_ne hj _ q).trans (hport j)

theorem SameIc.withLinks {p q : Pkg} (h : SameIc p q) (l : Links) : SameIc { p with links := l } { q with links := l } :=
  ⟨by rw [h.1], h.2⟩

theorem withTime_frame {p q : Pkg} (h : FtOnly p q) (set : Settings) (i : Nat) (m : TimeMsg) :
    SameIc { p with ft := (withTime set i m q).ft, links := (withTime set i m q).links } (withTime set i m q) :=
  ((SameIc.withFt h (withTime set i m q).ft).withLinks (withTime set i m q).links).trans
    (SameIc.of (p := { q with ft := (withTime set i m q).ft, links := (withTime set i m q).links }) rfl)

/-! ### What a report makes of fabric time (R439, R441) -/

/-- The count stands, and what the ports reported. -/
def SameReports (p q : Pkg) : Prop := FtOnly p q ∧ q.out.frames = p.out.frames ∧ q.ft.count = p.ft.count ∧ q.ft.ports = p.ft.ports

namespace SameReports

theorem refl (p : Pkg) : SameReports p p := ⟨.refl p, rfl, rfl, rfl⟩

theorem trans {p q r : Pkg} (h1 : SameReports p q) (h2 : SameReports q r) : SameReports p r := by
  obtain ⟨hf1, ho1, hc1, hp1⟩ := h1
  obtain ⟨hf2, ho2, hc2, hp2⟩ := h2
  exact ⟨hf1.trans hf2, ho2.trans ho1, hc2.trans hc1, hp2.trans hp1⟩

end SameReports

theorem Emits.frames {p q : Pkg} (h : Emits p q) : q.out.frames = p.out.frames := by
  obtain ⟨ms, fs, h⟩ := h
  rw [h]

theorem setU_emits (u : Option Nat) (p : Pkg) : Emits p (setU u p) := by
  unfold setU
  dsimp only
  split
  · exact (Emits.of_out rfl).trans (raise_emits _ _)
  · exact .of_out rfl

theorem setFtState_emits (st : FtState) (p : Pkg) : Emits p (setFtState st p) := by
  unfold setFtState
  split
  · exact .refl p
  · exact (Emits.of_out rfl).trans (raise_emits _ _)

theorem lockFt_emits (u : Nat) (p : Pkg) : Emits p (lockFt u p) :=
  ((setU_emits _ p).trans (.of_out rfl)).trans (setFtState_emits _ _)

theorem setU_reports (u : Option Nat) (p : Pkg) : SameReports p (setU u p) :=
  ⟨setU_frame u p, (setU_emits u p).frames, by rw [setU_ft], by rw [setU_ft]⟩

theorem lockFt_reports (u : Nat) (p : Pkg) : SameReports p (lockFt u p) :=
  ⟨lockFt_frame u p, (lockFt_emits u p).frames, by rw [lockFt_ft], by rw [lockFt_ft]⟩

theorem endElect_reports (serial : Nat) (p : Pkg) : SameReports p (endElect serial p) := by
  have hmod {f : Ft → Ft} (hcount : (f p.ft).count = p.ft.count) (hports : (f p.ft).ports = p.ft.ports) :
      SameReports p (modFt f p) := ⟨modFt_frame f p, rfl, hcount, hports⟩
  unfold endElect
  split
  · dsimp only
    split
    · exact (hmod rfl rfl).trans (setU_reports _ _)
    · split
      · exact (hmod rfl rfl).trans (lockFt_reports _ _)
      · exact hmod rfl rfl
  · exact hmod rfl rfl

theorem checkElect_reports (serial : Nat) (p : Pkg) : SameReports p (checkElect serial p) := by
  unfold checkElect
  split
  · exact endElect_reports serial p
  · exact .refl p

theorem setParent_reports (i : Option Nat) (p : Pkg) : SameReports p (setParent i p) := ⟨modFt_frame _ p, rfl, rfl, rfl⟩

theorem reparent_reports (p : Pkg) : SameReports p (reparent p) := by
  unfold reparent
  dsimp only
  split
  · exact .refl p
  · split
    · split
      · exact .refl p
      · exact setParent_reports _ p
    · exact setParent_reports _ p

/-- A REQ leaves a free port; the root advances SEQ with that of its lowest UP port. -/
theorem timeReq_of_free {set : Settings} {i : Nat} {p : Pkg} (hup : portUp p i = true) (hfree : TimeFree (portOf p i)) :
    ∃ n, timeReq set i p = withTime set i
      (timeMsg { p with ft := { p.ft with seq := n } } 0 0 p.ft.nextReq)
      { p with ft := { p.ft with seq := n, nextReq := (p.ft.nextReq + 1) % 2 ^ 32 } } := by
  obtain ⟨n, hn⟩ : ∃ n, (if p.ft.root && (upPorts p).head? == some i then
      modFt (fun f => { f with seq := (f.seq + 1) % 2 ^ 32 }) p else p) = { p with ft := { p.ft with seq := n } } := by
    split
    · exact ⟨_, rfl⟩
    · exact ⟨p.ft.seq, rfl⟩
  refine ⟨n, ?_⟩
  rw [timeReq, if_pos hup]
  dsimp only
  rw [hn]
  exact sendTime_of_free (p := { p with ft := { p.ft with seq := n, nextReq := (p.ft.nextReq + 1) % 2 ^ 32 } }) hup hfree _

/-- What a port knows of its neighbour after a report. -/
def heardFrom (m : TimeMsg) (count : Nat) (t : PortTime) : PortTime :=
  { t with
    heard := true, locked := m.locked, priority := m.priority, serial := m.rootSerial, hops := m.hops, seq := m.seq
    uncert := m.uncert, seqAt := if t.heard && t.seq == m.seq then t.seqAt else count }

/-- A report is noted, and may make the package follow another root. -/
theorem hear_cases (i : Nat) (m : TimeMsg) (p : Pkg) :
    hear i m p = modTime i (heardFrom m p.ft.count) p ∨ hear i m p = adopt m (modTime i (heardFrom m p.ft.count) p) := by
  unfold hear
  dsimp only
  split
  · exact .inl rfl
  · split
    · exact .inr rfl
    · split
      · exact .inr rfl
      · exact .inl rfl

/-- A LOCKED package follows no other root. -/
theorem hear_of_locked {p : Pkg} (h : p.ft.state = .locked) (i : Nat) (m : TimeMsg) :
    hear i m p = modTime i (heardFrom m p.ft.count) p := by
  unfold hear
  dsimp only
  rw [if_neg (by simp [modTime, h]), if_neg (by simp [adopts, modTime, h]), if_neg (by simp [modTime, h])]
  rfl

theorem adopt_frame (m : TimeMsg) (p : Pkg) : FtOnly p (adopt m p) := modFt_frame _ p

/-- A report changes fabric time alone, and leaves the count. -/
theorem hear_frame (i : Nat) (m : TimeMsg) (p : Pkg) :
    FtOnly p (hear i m p) ∧ (hear i m p).out = p.out ∧ (hear i m p).ft.count = p.ft.count := by
  rcases hear_cases i m p with h | h <;> rw [h]
  · exact ⟨modFt_frame _ p, rfl, rfl⟩
  · exact ⟨(modFt_frame _ p).trans (adopt_frame m _), rfl, rfl⟩

theorem getD_map_same (l : List PortTime) (i : Nat) :
    ∃ n, (l.map fun t : PortTime => { t with same := 0 }).getD i {} = { l.getD i {} with same := n } := by
  rw [List.getD_eq_getElem?_getD, List.getD_eq_getElem?_getD, List.getElem?_map]
  cases l[i]? with
  | none => exact ⟨0, rfl⟩
  | some t => exact ⟨0, rfl⟩

/-- The port knows what was reported to it. -/
theorem timeOf_hear {i : Nat} {p : Pkg} (hi : i < p.ft.ports.length) (m : TimeMsg) :
    ∃ n, timeOf (hear i m p) i = { heardFrom m p.ft.count (timeOf p i) with same := n } := by
  have hself : timeOf (modTime i (heardFrom m p.ft.count) p) i = heardFrom m p.ft.count (timeOf p i) := by
    rw [timeOf_modTime, if_pos ⟨rfl, hi⟩]
  rcases hear_cases i m p with h | h <;> rw [h]
  · exact ⟨_, by rw [hself]⟩
  · obtain ⟨n, hn⟩ := getD_map_same (modTime i (heardFrom m p.ft.count) p).ft.ports i
    exact ⟨n, hn.trans (congrArg (fun t : PortTime => { t with same := n }) hself)⟩

/-- The package after a REQ is taken in, before its RESP leaves. -/
def tookReq (serial i : Nat) (m : TimeMsg) (p : Pkg) : Pkg := checkElect serial (reparent (hear i m p))

theorem tookReq_reports (serial i : Nat) (m : TimeMsg) (p : Pkg) : SameReports (hear i m p) (tookReq serial i m p) :=
  (reparent_reports _).trans (checkElect_reports serial _)

/-! ### A RESP of the parent (R443, R444) -/

theorem exchange_of_locked {p : Pkg} {m : TimeMsg} {theta : Int} (hstate : p.ft.state = .locked) (hlocked : m.locked = true)
    (hserial : m.rootSerial = p.ft.rootSerial) (hprio : m.priority = p.ft.rootPrio) (hsmall : theta.natAbs ≤ 65536000)
    (i : Nat) (delta : Int) (t4 : Nat) :
    exchange i m theta delta t4 p = setU (some (followerU m theta)) (modFt (fun f => { f with
      theta := theta, delta := delta, slew := theta, seq := m.seq, hops := m.hops + 1 }) p) := by
  have hkeeps : (!m.locked || m.rootSerial != p.ft.rootSerial || m.priority != p.ft.rootPrio ||
      decide (65536000 < theta.natAbs)) = false := by
    simp [hlocked, hserial, hprio, hsmall]
  simp only [exchange, modFt_ft, hstate, hkeeps]
  rfl

/-- What a RESP makes of its port: what it reported, and one exchange more that names the root in force. -/
def afterResp (m : TimeMsg) (count : Nat) (t : PortTime) : PortTime :=
  { heardFrom m count t with req := none, same := t.same + 1 }

section
variable {i t1 : Nat} {m : TimeMsg} {p : Pkg} (hup : portUp p i = true) (hkind : m.kind = 1)
  (hreq : (timeOf p i).req = some (m.reqId, t1)) (hstate : p.ft.state = .locked) (hparent : p.ft.parent = some i)
  (hroot : p.ft.root = false) (hphase : p.ft.phase = .idle) (hlocked : m.locked = true)
  (hserial : m.rootSerial = p.ft.rootSerial) (hprio : m.priority = p.ft.rootPrio)
include hup hkind hreq hstate hparent hroot hphase hlocked hserial hprio

/-- A locked follower slews its parent's offset away, and takes its U, SEQ and HOPS. -/
theorem timeResp_of_locked {t4 : Nat} {theta : Int} (htheta : offsetOfExchange t1 m.t2 m.tstamp t4 = theta)
    (hsmall : theta.natAbs ≤ 65536000) (serial : Nat) :
    timeResp serial i m t4 p = setU (some (followerU m theta)) (modFt (fun f => { f with
      theta := theta, delta := delayOfExchange t1 m.t2 m.tstamp t4, slew := theta, seq := m.seq, hops := m.hops + 1
      ports := modAt p.ft.ports i (afterResp m p.ft.count) }) p) := by
  have hport : modTime i (fun t => { t with same := if m.rootSerial == (modTime i (fun t => { t with req := none })
        (hear i m p)).ft.rootSerial && m.priority == (modTime i (fun t => { t with req := none }) (hear i m p)).ft.rootPrio
        then t.same + 1 else 0 }) (modTime i (fun t => { t with req := none }) (hear i m p)) =
      modTime i (afterResp m p.ft.count) p := by
    rw [hear_of_locked hstate]
    simp only [modTime, hserial, hprio, beq_self_eq_true, Bool.and_self, if_true, modFt, modAt_modAt]
    rfl
  have helect : checkElect serial (modTime i (afterResp m p.ft.count) p) = modTime i (afterResp m p.ft.count) p := by
    simp [checkElect, modTime, modFt, hphase]
  have hseek : reparent (modTime i (afterResp m p.ft.count) p) = modTime i (afterResp m p.ft.count) p := by
    simp [reparent, modTime, modFt, hroot, hphase, hstate]
  have hwith : withParent i (modTime i (afterResp m p.ft.count) p) = true := by
    simp [withParent, modTime, modFt, hparent, hroot, hstate]
  simp only [timeResp, hreq, hkind, hup, bne_self_eq_false, Bool.not_true, Bool.or_self, Bool.false_eq_true, if_false]
  rw [hport, helect, hseek, if_pos hwith, htheta]
  rw [exchange_of_locked (p := modTime i (afterResp m p.ft.count) p) hstate hlocked hserial hprio hsmall]
  rfl

end

/-- Settles O25: a time message goes to a free port, whose next frame it is; what was heard before it left stands but for
fabric time. -/
theorem timeExchanges : Obligations.TimeExchanges := by
  unfold Obligations.TimeExchanges
  intro s i hi hup q now sends
  refine ⟨fun hown hpass hroom hcredit => ⟨?_, fun m hkind => ?_⟩, ?_⟩
  · obtain ⟨n, hn⟩ := timeReq_of_free (set := s.set) hup ⟨hown, hpass, hroom, hcredit⟩
    let p1 : Pkg := { s.p with ft := { s.p.ft with seq := n } }
    let p2 : Pkg := { p1 with ft := { p1.ft with nextReq := (s.p.ft.nextReq + 1) % 2 ^ 32 } }
    have hft : (withTime s.set i (timeMsg p1 0 0 s.p.ft.nextReq) p2).ft =
        (modTime i (fun x => { x with req := some (s.p.ft.nextReq % 2 ^ 32, now) }) p2).ft := by
      rw [withTime_ft, noteStamp_of_req rfl]
      rfl
    have hreq : (timeOf (withTime s.set i (timeMsg p1 0 0 s.p.ft.nextReq) p2) i).req =
        some (s.p.ft.nextReq % 2 ^ 32, now) := by
      rw [timeOf, hft]
      exact congrArg PortTime.req ((timeOf_modTime i i _ p2).trans (if_pos ⟨rfl, hi⟩))
    refine ⟨withTime s.set i (timeMsg p1 0 0 s.p.ft.nextReq) p2, timeMsg p1 0 0 s.p.ft.nextReq, ?_,
      withTime_sends (p := s.p) (q := p2) rfl rfl rfl s.set i _, rfl, rfl, ?_, hreq, ?_, rfl⟩
    · show execTimeReqSend i s = _
      exact onP_of_eq hn
    · rw [hft]
      rfl
    · rw [hft]
      rfl
  · obtain ⟨hframe, hout, hcount⟩ := hear_frame i m s.p
    obtain ⟨hframe', hframes, hcount', hports⟩ := tookReq_reports s.set.serial i m s.p
    obtain ⟨n, hheard⟩ := timeOf_hear hi m
    let p1 := tookReq s.set.serial i m s.p
    have hlinks : p1.links = s.p.links := (hframe.trans hframe').links
    have hup' : portUp p1 i = true := by rw [portUp_congr hlinks, hup]
    have hfree : TimeFree (portOf p1 i) := by
      rw [portOf, hlinks]
      exact ⟨hown, hpass, hroom, hcredit⟩
    let r := timeMsg p1 1 now m.reqId
    have hft : (withTime s.set i r p1).ft = p1.ft := by
      rw [withTime_ft, noteStamp_of_resp rfl]
    have hport : timeOf (withTime s.set i r p1) i = { heardFrom m s.p.ft.count (timeOf s.p i) with same := n } := by
      rw [timeOf, hft, hports]
      exact hheard
    refine ⟨withTime s.set i r p1, r, ?_, withTime_sends hlinks (hframes.trans (congrArg Out.frames hout))
      (hcount'.trans hcount) s.set i r, rfl, rfl, rfl, ?_, ?_, ?_, ?_, ?_⟩
    · show Host.Outcome.next { s with p := takeReq s.set i m (stamp s.p) s.p } = _
      rw [takeReq, hup, hkind, if_pos (by rfl)]
      exact congrArg (fun q => Host.Outcome.next { s with p := q }) (sendTime_of_free hup' hfree r)
    · rw [hport]
      rfl
    · rw [hport]
      rfl
    · rw [hport]
      rfl
    · rw [hft]
      exact hcount'.trans hcount
    · exact withTime_frame (hframe.trans hframe') s.set i r
  · intro m t1 hkind hreq hstate hparent hroot hphase hlocked hserial hprio theta hsmall
    have hexec : exec (.timeRespReceive i m) s = .next { s with p := timeResp s.set.serial i m now s.p } := rfl
    rw [timeResp_of_locked hup hkind hreq hstate hparent hroot hphase hlocked hserial hprio rfl hsmall] at hexec
    have hreq : (timeOf (modTime i (afterResp m s.p.ft.count) s.p) i).req = none :=
      congrArg PortTime.req ((timeOf_modTime i i _ s.p).trans (if_pos ⟨rfl, hi⟩))
    refine ⟨_, hexec, ?_, ?_, ?_, ?_, ?_, ?_, ?_, ?_, ?_, (modFt_frame _ s.p).trans (setU_frame _ _)⟩
    case refine_3.refine_1 =>
      rw [setU_ft]
      exact hstate
    case refine_3.refine_9 =>
      rw [timeOf, setU_ft]
      exact hreq
    all_goals
      rw [setU_ft]
      rfl

end Sys2Proof.Machine
end

section
/-! PROOFS. Peer ports (O53): training and agreement, frames that leave and frames that arrive. -/

namespace Sys2Proof.Machine

/-! ### What the ports' operations leave alone -/

/-- `q` is `p` but for the peer fabric and what events of sources do. -/
def LinksOnly (p q : Pkg) : Prop := SameIc { p with links := q.links } q

namespace LinksOnly

theorem refl (p : Pkg) : LinksOnly p p := SameIc.refl p

theorem trans {p q r : Pkg} (h1 : LinksOnly p q) (h2 : LinksOnly q r) : LinksOnly p r :=
  SameIc.trans (SameIc.withLinks h1 r.links) h2

end LinksOnly

theorem SameIc.linksOnly {p q : Pkg} (h : SameIc p q) : LinksOnly p q := SameIc.congr_left h (by rw [h.1])

theorem modPort_frame (i : Nat) (f : Port → Port) (p : Pkg) : LinksOnly p (modPort i f p) := SameIc.refl _

theorem setPortState_frame (i : Nat) (st : PortState) (p : Pkg) : LinksOnly p (setPortState i st p) := by
  unfold setPortState
  split
  · exact .refl p
  · exact (modPort_frame i _ p).trans (raise_frame _ _).linksOnly

theorem portOf_congr {p q : Pkg} (h : q.links = p.links) (j : Nat) : portOf q j = portOf p j := by
  rw [portOf, h, portOf]

theorem portOf_raise (n j : Nat) (p : Pkg) : portOf (raise n p) j = portOf p j := portOf_congr (raise_links n p) j

theorem portOf_setPortState_ne {i j : Nat} (h : j ≠ i) (st : PortState) (p : Pkg) :
    portOf (setPortState i st p) j = portOf p j := by
  unfold setPortState
  split
  · rfl
  · rw [portOf_raise, portOf_modPort_ne h]

theorem portOf_setPortState_self {i : Nat} {p : Pkg} (hi : i < p.links.ports.length) (st : PortState) :
    portOf (setPortState i st p) i = { portOf p i with state := st } := by
  unfold setPortState
  split
  next h => rw [← beq_iff_eq.1 h]
  next => rw [portOf_raise, portOf_modPort_self hi]

@[simp] theorem modPort_length (i : Nat) (f : Port → Port) (p : Pkg) : (modPort i f p).links.ports.length = p.links.ports.length :=
  length_modAt _ _ _

/-! ### Training (R390 to R392) -/

/-- A port whose training fails. -/
def failedPort (reason : Nat) (q : Port) : Port := { q with reason := reason, level := 0, state := .down }

theorem trainFail_frame (i reason : Nat) (p : Pkg) : LinksOnly p (trainFail i reason p) :=
  (modPort_frame i _ p).trans (setPortState_frame i _ _)

theorem portOf_trainFail_self {i : Nat} {p : Pkg} (hi : i < p.links.ports.length) (reason : Nat) :
    portOf (trainFail i reason p) i = failedPort reason (portOf p i) := by
  rw [trainFail, portOf_setPortState_self (by simpa using hi), portOf_modPort_self hi]
  rfl

theorem portOf_trainFail_ne {i j : Nat} (h : j ≠ i) (reason : Nat) (p : Pkg) : portOf (trainFail i reason p) j = portOf p j := by
  rw [trainFail, portOf_setPortState_ne h, portOf_modPort_ne h]

/-- A training phase ends and the next begins. -/
def phaseNext (set : Settings) (i : Nat) (rev : Bool) (deskew : List Nat) (p : Pkg) : TrainPhase → Pkg
  | .detect => modPort i (fun q => { q with phase := .equalise }) p
  | .equalise => modPort i (fun q => { q with phase := .lock }) p
  | .lock => sendHello set i (modPort i (fun q => { q with phase := .agree, laneRev := rev, deskew := deskew }) p)
  | .agree => p

theorem phaseEnd_of_training {set : Settings} {i : Nat} {rev : Bool} {deskew : List Nat} {p : Pkg}
    (hstate : (portOf p i).state = .training ∨ (portOf p i).state = .retrain) (hclk : p.ft.refclk = true) :
    phaseEnd set i rev deskew p = phaseNext set i rev deskew p (portOf p i).phase := by
  have htrains : (((portOf p i).state != .training && (portOf p i).state != .retrain) || !p.ft.refclk) = false := by
    rcases hstate with h | h <;> simp [h, hclk]
  unfold phaseEnd
  dsimp only
  rw [htrains, if_neg (by simp)]
  cases (portOf p i).phase <;> rfl

/-! ### Frames that are sent again (R398, R412) -/

/-- Frames that leave a port again turn its lane, count as replays and leave their stamps; no other port changes. -/
def Resends (i : Nat) (p q : Pkg) : Prop :=
  q = { p with links := { p.links with ports := q.links.ports }, out := { p.out with frames := q.out.frames }, ft := q.ft } ∧
    (∀ j, portOf q j = { portOf p j with lane := (portOf q j).lane, replay := (portOf q j).replay }) ∧
    ∀ j, j ≠ i → portOf q j = portOf p j

namespace Resends

theorem refl (i : Nat) (p : Pkg) : Resends i p p := ⟨rfl, fun _ => rfl, fun _ _ => rfl⟩

theorem trans {i : Nat} {p q r : Pkg} (h1 : Resends i p q) (h2 : Resends i q r) : Resends i p r := by
  obtain ⟨hf1, hp1, hn1⟩ := h1
  obtain ⟨hf2, hp2, hn2⟩ := h2
  exact ⟨by rw [hf2, hf1], fun j => by rw [hp2, hp1], fun j hj => (hn2 j hj).trans (hn1 j hj)⟩

/-- After changes of the ports alone. -/
theorem frame {i : Nat} {p q r : Pkg} (h1 : LinksOnly p q) (h2 : Resends i q r) :
    SameIc { p with links := r.links, ft := r.ft } r :=
  ((SameIc.withLinks h1 r.links).withFt r.ft).trans (.of (by rw [h2.1]))

end Resends

theorem sendData_resends (set : Settings) (i : Nat) (fresh : Bool) (seq : Nat) (f : Frame) (owed : List Nat) (p : Pkg) :
    Resends i p (sendData set i fresh seq f owed p) := by
  have hlinks : (sendData set i fresh seq f owed p).links =
      (modPort i (fun q => { q with lane := (q.lane + 1) % laneCount set.lanes }) p).links := by rw [sendData_eq]
  refine ⟨by rw [sendData_eq]; rfl, fun j => ?_, fun j hj => ?_⟩
  · rw [portOf_congr hlinks, portOf_modPort]
    split <;> rfl
  · rw [portOf_congr hlinks, portOf_modPort_ne hj]

theorem resend_resends (set : Settings) (i : Nat) (l : List (Nat × Frame × List Nat)) (p : Pkg) : Resends i p (resend set i l p) := by
  have hstart : Resends i p (modPort i (fun q => { q with replay := satAdd 0xFFFF q.replay l.length }) p) := by
    refine ⟨rfl, fun j => ?_, fun j hj => portOf_modPort_ne hj _ p⟩
    simp only [portOf_modPort]
    split <;> rfl
  exact List.foldlRecOn (motive := Resends i p) l _ hstart fun q hq e _ => hq.trans (sendData_resends ..)

/-! ### Agreement (R391, R412) -/

/-- What a HELLO shows of the neighbour. -/
def helloShown (h : Hello) (q : Port) : Port := { q with nbr := h.addr, nbrPort := h.port, nbrPlan := h.plan }

/-- A port whose Agree phase ends well at start-up. -/
def agreedPort (lanes : Nat) (q : Port) : Port :=
  { q with reason := 0, level := 1, credits := List.replicate 16 (bufferFrames lanes), skipping := false, hold := [], state := .up }

theorem portAgreed_training {set : Settings} {i : Nat} {p : Pkg} (hi : i < p.links.ports.length)
    (hstate : (portOf p i).state = .training) :
    ∃ q, LinksOnly p q ∧ portOf q i = agreedPort set.lanes (portOf p i) ∧ (∀ j, j ≠ i → portOf q j = portOf p j) ∧
      Resends i q (portAgreed set i p) := by
  refine ⟨_, ?_, ?_, fun j hj => ?_, resend_resends set i _ _⟩
  · exact (modPort_frame i _ p).trans (setPortState_frame i _ _)
  · rw [portOf_setPortState_self (by simpa using hi), portOf_modPort_self hi, hstate]
    rfl
  · rw [portOf_setPortState_ne hj, portOf_modPort_ne hj]

theorem takeHello_of_up {set : Settings} {i : Nat} {h : Hello} {p : Pkg} (hstate : (portOf p i).state = .up) :
    takeHello i h set p = modPort i (fun q => { q with nbr := h.addr }) p := by
  simp only [takeHello, hstate, beq_self_eq_true, if_true]

theorem takeHello_of_noClock {set : Settings} {i : Nat} {h : Hello} {p : Pkg} (hstate : (portOf p i).state ≠ .up)
    (hclk : p.ft.refclk = false) : takeHello i h set p = p := by
  simp only [takeHello, beq_eq_false_iff_ne.2 hstate, hclk, Bool.and_false, Bool.false_eq_true, if_false]

section
variable {set : Settings} {i : Nat} {h : Hello} {p : Pkg} (hstate : (portOf p i).state = .training)
  (hphase : (portOf p i).phase = .agree) (hclk : p.ft.refclk = true)
include hstate hphase hclk

theorem takeHello_of_agreed (hagree : agreeReason set.lanes i h = none) :
    takeHello i h set p = portAgreed set i (modPort i (helloShown h) p) := by
  simp only [takeHello, hstate, hphase, hclk, hagree]
  rfl

theorem takeHello_of_refused {reason : Nat} (hagree : agreeReason set.lanes i h = some reason) :
    takeHello i h set p = trainFail i reason (modPort i (helloShown h) p) := by
  simp only [takeHello, hstate, hphase, hclk, hagree]
  rfl

end

/-! ### IDLE frames (R394) -/

/-- The package after an IDLE frame has left on a port. -/
def withIdle (n i nak : Nat) (p : Pkg) : Pkg :=
  modPort i (fun q => { q with owed := List.replicate 16 0, lane := (q.lane + 1) % n })
    { p with out := { p.out with frames := p.out.frames ++
      [(i, (portOf p i).lane % n, frameBytes 0 0 (ackOf (portOf p i)) nak 0 (portOf p i).owed idleFrame)] } }

theorem sendIdle_eq (set : Settings) (i nak : Nat) (p : Pkg) : sendIdle set i nak p = withIdle (laneCount set.lanes) i nak p :=
  modPort_modPort i _ _ _

theorem portOf_detect (k j : Nat) (p : Pkg) : portOf (detect k p) j = portOf p j := rfl

theorem withIdle_out (n i nak : Nat) (p : Pkg) : (withIdle n i nak p).out = { p.out with frames := p.out.frames ++
    [(i, (portOf p i).lane % n, frameBytes 0 0 (ackOf (portOf p i)) nak 0 (portOf p i).owed idleFrame)] } := rfl

theorem portOf_withIdle {n i : Nat} {p : Pkg} (hi : i < p.links.ports.length) (nak : Nat) :
    portOf (withIdle n i nak p) i = { portOf p i with owed := List.replicate 16 0, lane := ((portOf p i).lane + 1) % n } :=
  portOf_modPort_self (p := { p with out := (withIdle n i nak p).out }) hi
    fun q => { q with owed := List.replicate 16 0, lane := (q.lane + 1) % n }

/-! ### A retrain that fails (R392, R393) -/

/-- The places that forwarded frames free change owed credits alone. -/
theorem portOf_freed (l : List Passing) (p : Pkg) (j : Nat) :
    ∃ o, portOf (l.foldl (fun p g =>
      modPort g.inPort (fun q => { q with owed := modAt q.owed (slotOf g.frame.vc g.inCls) (· + 1) }) p) p) j =
        { portOf p j with owed := o } := by
  induction l generalizing p with
  | nil => exact ⟨_, rfl⟩
  | cons g l ih =>
    obtain ⟨o, ho⟩ := ih (modPort g.inPort (fun q => { q with owed := modAt q.owed (slotOf g.frame.vc g.inCls) (· + 1) }) p)
    refine ⟨o, ho.trans ?_⟩
    rw [portOf_modPort]
    split <;> rfl

theorem discardFrames_frame (i : Nat) (p : Pkg) : LinksOnly p (discardFrames i p) := by
  unfold discardFrames
  exact List.foldlRecOn (motive := LinksOnly p) _ _ (modPort_frame i _ p) fun q hq g _ => hq.trans (modPort_frame g.inPort _ q)

theorem discardFrames_length (i : Nat) (p : Pkg) : (discardFrames i p).links.ports.length = p.links.ports.length := by
  unfold discardFrames
  exact List.foldlRecOn (motive := fun q : Pkg => q.links.ports.length = p.links.ports.length) _ _ (modPort_length ..)
    fun q hq g _ => (modPort_length ..).trans hq

theorem portOf_discardFrames {i : Nat} {p : Pkg} (hi : i < p.links.ports.length) :
    (portOf (discardFrames i p) i).own = [] ∧ (portOf (discardFrames i p) i).sent = [] ∧
      (portOf (discardFrames i p) i).pass = [] ∧ (portOf (discardFrames i p) i).state = (portOf p i).state := by
  obtain ⟨o, ho⟩ := portOf_freed (portOf p i).pass
    (modPort i (fun q => { q with own := [], pass := [], sent := [], hold := [], inMsg := List.replicate 8 0 }) p) i
  rw [portOf_modPort_self hi] at ho
  rw [discardFrames, ho]
  exact ⟨rfl, rfl, rfl, rfl⟩

theorem timePortDown_frame (serial i : Nat) (p : Pkg) : FtInteg p (timePortDown serial i p) := by
  have hgone : FtOnly p (modTime i (fun _ => {}) p) := modFt_frame _ p
  unfold timePortDown
  dsimp only
  split
  · split
    · exact hgone.integ.trans (loseParent_frame _)
    · exact hgone.integ
  · split
    · exact ((hgone.trans (standSelf_frame _ _ _)).trans (endElect_reports _ _).1).integ
    · exact ((hgone.trans (reparent_reports _).1).trans (checkElect_reports _ _).1).integ

theorem portFails_of_retrain {set : Settings} {i : Nat} {p : Pkg} (h : (portOf p i).state = .retrain) :
    portFails i set p = finish set (timePortDown set.serial i (failLive 0 stHung (log 0x0101 stHung (0x0500 + i) []
      (trainFail i (if p.ft.refclk then 8 else 2) (discardFrames i p))))) := by
  simp only [portFails, h, bne_self_eq_false, Bool.false_eq_true, if_false]

/-- `failLive` changes the step alone, and only one that is live. -/
theorem failLive_frame (b status : Nat) (p : Pkg) : failLive b status p = { p with step := (failLive b status p).step } := by
  unfold failLive
  split <;> rfl

theorem resumeJ1_step (set : Settings) (p : Pkg) : (resumeJ1 set p).step = p.step := rfl

theorem resumeJ1_mem (set : Settings) (p : Pkg) : (resumeJ1 set p).mem = p.mem := rfl

theorem resumeJ1_insts (set : Settings) (p : Pkg) : (resumeJ1 set p).tasks.insts = p.tasks.insts := rfl

section
variable {s : State} {i : Nat} (hi : i < s.p.links.ports.length) (hstate : (portOf s.p i).state = .retrain)
  (hdue : s.p.step.abortDue = false) (hheld : s.p.step.commitHeld = false) (hseal : s.p.step.state ≠ .sealing)
include hi hstate hdue hheld hseal

/-- A port whose retrain fails is DOWN, its frames are discarded, and an OPEN step fails. -/
theorem portFails_leaves : let t := portFails i s.set s.p
    (portOf t i).state = .down ∧ (portOf t i).reason = (if s.p.ft.refclk then 8 else 2) ∧ (portOf t i).own = [] ∧
      (portOf t i).sent = [] ∧ (portOf t i).pass = [] ∧ (s.p.step.state = .opened → bit t.step.failMask 0 = true) ∧
      (s.p.step.state ≠ .opened → t.step = s.p.step) ∧ t.mem = s.p.mem ∧ t.tasks.insts = s.p.tasks.insts := by
  intro t
  have hfails := portFails_of_retrain (set := s.set) hstate
  have hdown := portOf_trainFail_self (p := discardFrames i s.p) (by rw [discardFrames_length]; exact hi)
    (if s.p.ft.refclk then 8 else 2)
  have hq : LinksOnly s.p (trainFail i (if s.p.ft.refclk then 8 else 2) (discardFrames i s.p)) :=
    (discardFrames_frame i s.p).trans (trainFail_frame i _ _)
  generalize trainFail i (if s.p.ft.refclk then 8 else 2) (discardFrames i s.p) = q at hfails hdown hq
  have hlog := log_frame 0x0101 stHung (0x0500 + i) [] q
  generalize log 0x0101 stHung (0x0500 + i) [] q = l at hfails hlog
  have hu := timePortDown_frame s.set.serial i (failLive 0 stHung l)
  generalize timePortDown s.set.serial i (failLive 0 stHung l) = u at hfails hu
  have hlstep : l.step = s.p.step := by rw [hlog.1, hq.1]
  have hustep : u.step = (failLive 0 stHung l).step := by rw [hu.1]
  have hulinks : u.links = q.links := by rw [hu.1, failLive_frame, hlog.1]
  have humem : u.mem = s.p.mem := by rw [hu.1, failLive_frame, hlog.1, hq.1]
  have hutasks : u.tasks = s.p.tasks := by rw [hu.1, failLive_frame, hlog.1, hq.1]
  have hfail : (failLive 0 stHung l).step.abortDue = false ∧ (failLive 0 stHung l).step.commitHeld = false ∧
      (s.p.step.state = .opened → bit (failLive 0 stHung l).step.failMask 0 = true) ∧
      (s.p.step.state ≠ .opened → (failLive 0 stHung l).step = s.p.step) := by
    by_cases hopen : s.p.step.state = .opened
    · rw [failLive, if_pos (by rw [stepLive, hlstep, hopen]; rfl)]
      simp [failStep, hlstep, hdue, hheld, hopen, bit_setBit]
    · rw [failLive, if_neg (by simp [stepLive, hlstep, hopen, hseal]), hlstep]
      exact ⟨hdue, hheld, fun h => absurd h hopen, fun _ => rfl⟩
  obtain ⟨hnone, hcommit, hset, hkeep⟩ := hfail
  have ht : t = resumeJ1 s.set u :=
    hfails.trans (finish_quiet s.set (hustep ▸ hnone) (by rw [hustep, hcommit]; rfl))
  have hport : portOf t i = failedPort (if s.p.ft.refclk then 8 else 2) (portOf (discardFrames i s.p) i) := by
    rw [ht, portOf_congr (p := q) (q := resumeJ1 s.set u) hulinks, hdown]
  obtain ⟨hown, hsent, hpass, -⟩ := portOf_discardFrames hi
  refine ⟨?_, ?_, ?_, ?_, ?_, fun h => ?_, fun h => ?_, ?_, ?_⟩
  · rw [hport, failedPort]
  · rw [hport, failedPort]
  · rw [hport, failedPort, hown]
  · rw [hport, failedPort, hsent]
  · rw [hport, failedPort, hpass]
  · rw [ht, resumeJ1_step, hustep, hset h]
  · rw [ht, resumeJ1_step, hustep, hkeep h]
  · rw [ht, resumeJ1_mem, humem]
  · rw [ht, resumeJ1_insts, hutasks]

end

/-! ### Frames that arrive (R395, R396, R398) -/

/-- A frame's LSEQ, ACK and CREDITS are taken in, and the receive place it held is noted. -/
def TookFrame (q r : Port) : Prop :=
  r = { q with rxSeq := (q.rxSeq + 1) % 2 ^ 32, skipping := false, credits := r.credits, sent := r.sent
               frontReplays := r.frontReplays, owed := r.owed, withheld := r.withheld } ∧ r.frontReplays ≤ q.frontReplays

theorem takeLink_of_noNak {bs : List Byte} (hnak : le bs 476 4 = 0xFFFFFFFF) (set : Settings) (i : Nat) (p : Pkg) :
    ∃ f : Port → Port, takeLink set i bs p = modPort i f p ∧ ∀ q, (f q).frontReplays ≤ q.frontReplays ∧
      f q = { q with credits := (f q).credits, sent := (f q).sent, frontReplays := (f q).frontReplays } := by
  refine ⟨_, by rw [takeLink, hnak]; rfl, fun q => ⟨?_, rfl⟩⟩
  dsimp only
  split
  · exact Nat.zero_le _
  · exact Nat.le_refl _

theorem takeUp_eq (i : Nat) (f : Frame) (p : Pkg) : ∃ g : Port → Port, takeUp i f p = modPort i g p ∧
    ∀ q, g q = { q with owed := (g q).owed, withheld := (g q).withheld } := by
  unfold takeUp
  dsimp only
  split
  · exact ⟨_, rfl, fun _ => rfl⟩
  · exact ⟨_, rfl, fun _ => rfl⟩

/-- A frame that is a whole message for this package is handed on. -/
theorem takeData_of_whole {i : Nat} {f : Frame} {p : Pkg} (hvc : f.vc ≠ 1) (haddr : p.links.addr ≠ 0xFFFFFFFF)
    (hdst : f.dst = p.links.addr) (hsom : f.som = true) (heom : f.eom = true) (set : Settings) (t rx : Nat) :
    ∃ parts, takeData set i f t rx p = { takeUp i f p with
      links := { (takeUp i f p).links with parts := parts }
      out := { (takeUp i f p).out with loop := (takeUp i f p).out.loop ++ [(f.vc, f.payload)] } } := by
  have hset : needsAddr p f = false := by simp [needsAddr, haddr]
  have hne : (f.vc == 1) = false := beq_eq_false_iff_ne.2 hvc
  refine ⟨(takeUp i f p).links.parts.filter fun x => !(x.src == f.src && x.vc == f.vc), ?_⟩
  rw [takeData, hne, hset, hdst]
  simp only [Bool.false_eq_true, if_false, beq_self_eq_true, if_true, assemble, hsom, heom, handOn, List.nil_append]

section
variable {set : Settings} {i : Nat} {bs : List Byte} {p : Pkg} (hi : i < p.links.ports.length)
  (hkind : le bs 0 1 = 1)
include hi hkind

/-- The frame that a port awaits, with none held behind it. -/
theorem goodFrame_of_next {f : Frame} (hf : parseFrame bs = f) (hseq : le bs 12 4 = (portOf p i).rxSeq)
    (hnak : le bs 476 4 = 0xFFFFFFFF) (hhold : (portOf p i).hold = []) (hvc : f.vc ≠ 1) (haddr : p.links.addr ≠ 0xFFFFFFFF)
    (hdst : f.dst = p.links.addr) (hsom : f.som = true) (heom : f.eom = true) (rx : Nat) :
    ∃ t, goodFrame set i bs rx p = t ∧
      t = { p with links := t.links, out := { p.out with loop := p.out.loop ++ [(f.vc, f.payload)] } } ∧
      TookFrame (portOf p i) (portOf t i) ∧ ∀ j, j ≠ i → portOf t j = portOf p j := by
  have hgood : goodFrame set i bs rx p = acceptFrame set i bs rx p := by
    simp only [goodFrame, hkind, goodData, hseq, beq_self_eq_true, if_true, hhold, List.length_nil, takeHeld]
  obtain ⟨g, hlink, hg⟩ := takeLink_of_noNak hnak set i
    (modPort i (fun q => { q with rxSeq := (q.rxSeq + 1) % 2 ^ 32, skipping := false }) p)
  rw [hgood, acceptFrame, hf, hlink, modPort_modPort]
  obtain ⟨k, hup, hk⟩ := takeUp_eq i f
    (modPort i (fun q => g { q with rxSeq := (q.rxSeq + 1) % 2 ^ 32, skipping := false }) p)
  obtain ⟨parts, hdata⟩ := takeData_of_whole (i := i)
    (p := modPort i (fun q => g { q with rxSeq := (q.rxSeq + 1) % 2 ^ 32, skipping := false }) p) hvc haddr hdst hsom heom set
    (le bs 480 8) rx
  rw [hup, modPort_modPort] at hdata
  refine ⟨_, hdata, rfl, ?_, fun j hj => portOf_modPort_ne hj _ p⟩
  have hport := portOf_modPort_self hi fun q => k (g { q with rxSeq := (q.rxSeq + 1) % 2 ^ 32, skipping := false })
  refine (congrArg (TookFrame (portOf p i)) hport).mpr ?_
  generalize hx : ({ portOf p i with rxSeq := ((portOf p i).rxSeq + 1) % 2 ^ 32, skipping := false } : Port) = x
  obtain ⟨hfront, hgx⟩ := hg x
  refine ⟨?_, ?_⟩
  · rw [hk (g x), hgx, ← hx]
  · rw [hk (g x)]
    exact hfront.trans (by rw [← hx])

omit hi in
/-- A later frame of those that may be under way is held. -/
theorem goodFrame_of_later (hseq : le bs 12 4 ≠ (portOf p i).rxSeq) (hskip : (portOf p i).skipping = false)
    (hnear : (le bs 12 4 + 2 ^ 32 - (portOf p i).rxSeq) % 2 ^ 32 < 512)
    (hnew : ∀ x ∈ (portOf p i).hold, x.1 ≠ le bs 12 4) (rx : Nat) :
    goodFrame set i bs rx p = modPort i (fun q => { q with hold := q.hold ++ [(le bs 12 4, bs, rx)] }) p := by
  have hfree : ((portOf p i).hold.any fun x => x.1 == le bs 12 4) = false :=
    List.any_eq_false.2 fun x hx => by simpa using hnew x hx
  have hne : (le bs 12 4 == (portOf p i).rxSeq) = false := beq_eq_false_iff_ne.2 hseq
  simp only [goodFrame, hkind, goodData, hne, hskip, hfree, Nat.not_le.2 hnear, decide_false, Bool.or_self,
    Bool.false_eq_true, if_false]

end

/-- The port has counted the symbols that its code corrected. -/
def counted (n : Nat) (q : Port) : Port := { q with fecCorr := satAdd 0xFFFFFFFF q.fecCorr n }

section
variable {i lane n : Nat} {bs : List Byte} {fecOk : Bool} {set : Settings} {p : Pkg} (hup : (portOf p i).state = .up)
include hup

/-- A frame that passes its CRC on an UP port. -/
theorem takeFrame_of_good (hlen : bs.length = 512) (hcrc : le bs 504 8 = crc64 (bs.take 504)) :
    takeFrame i lane bs true n set p =
      replayLimit i (goodFrame set i bs (receiveStamp (modPort i (counted n) p) i lane) (modPort i (counted n) p)) := by
  simp only [takeFrame, portUp, hup, hlen, hcrc, beq_self_eq_true, Bool.and_self, Bool.not_true, Bool.false_eq_true, if_false,
    if_true]
  rfl

theorem takeFrame_of_bad (hbad : fecOk = false ∨ bs.length ≠ 512 ∨ le bs 504 8 ≠ crc64 (bs.take 504)) :
    takeFrame i lane bs fecOk n set p = badFrame set i fecOk (modPort i (counted n) p) := by
  have hgood : (fecOk && bs.length == 512 && le bs 504 8 == crc64 (bs.take 504)) = false := by
    rcases hbad with h | h | h <;> simp [h]
  simp only [takeFrame, portUp, hup, hgood, beq_self_eq_true, Bool.not_true, Bool.false_eq_true, if_false]
  rfl

end

theorem replayLimit_of_few {i : Nat} {p : Pkg} (h : (portOf p i).frontReplays < 16) : replayLimit i p = p := by
  rw [replayLimit, if_neg (Nat.not_le.2 h)]

/-- What a frame that fails makes of its port; a NAK names the frame awaited. -/
def spoiled (fecOk : Bool) (q : Port) : Port :=
  { q with fecUncorr := satAdd 0xFF q.fecUncorr (b2n !fecOk), skipping := true, hold := [] }

theorem badFrame_eq (set : Settings) (i : Nat) (fecOk : Bool) (p : Pkg) :
    badFrame set i fecOk p = detect 3 (withIdle (laneCount set.lanes) i (portOf p i).rxSeq (modPort i (spoiled fecOk) p)) := by
  rw [badFrame, sendIdle_eq]
  rfl

/-! ### The obligation -/

section
variable {s : State} {i : Nat} (hi : i < s.p.links.ports.length)
include hi

theorem helloReceive_agrees {h : Hello} (hstate : (portOf s.p i).state = .training) (hphase : (portOf s.p i).phase = .agree)
    (hclk : s.p.ft.refclk = true) (hagree : agreeReason s.set.lanes i h = none) :
    ∃ t : Pkg, exec (.helloReceive i h) s = .next { s with p := t } ∧
      (portOf t i).state = .up ∧ (portOf t i).reason = 0 ∧ (portOf t i).nbr = h.addr ∧ (portOf t i).nbrPort = h.port ∧
      (portOf t i).nbrPlan = h.plan ∧ (portOf t i).credits = List.replicate 16 (bufferFrames s.set.lanes) ∧
      (∀ j, j ≠ i → portOf t j = portOf s.p j) ∧ SameIc { s.p with links := t.links, ft := t.ft } t := by
  have hshown := portOf_modPort_self hi (helloShown h)
  obtain ⟨q, hq, hself, hne, hsent⟩ := portAgreed_training (set := s.set) (p := modPort i (helloShown h) s.p) (by simpa using hi)
    (by rw [hshown]; exact hstate)
  refine ⟨_, onP_of_eq (takeHello_of_agreed hstate hphase hclk hagree), ?_⟩
  have hport := hsent.2.1 i
  rw [hself, hshown] at hport
  rw [hport]
  exact ⟨rfl, rfl, rfl, rfl, rfl, rfl,
    fun j hj => (hsent.2.2 j hj).trans ((hne j hj).trans (portOf_modPort_ne hj _ _)), hsent.frame ((modPort_frame i _ s.p).trans hq)⟩

theorem helloReceive_refuses {h : Hello} {reason : Nat} (hstate : (portOf s.p i).state = .training)
    (hphase : (portOf s.p i).phase = .agree) (hclk : s.p.ft.refclk = true)
    (hagree : agreeReason s.set.lanes i h = some reason) :
    ∃ t : Pkg, exec (.helloReceive i h) s = .next { s with p := t } ∧ (portOf t i).state = .down ∧
      (portOf t i).reason = reason ∧ (portOf t i).nbr = h.addr ∧ (portOf t i).nbrPort = h.port ∧
      (portOf t i).nbrPlan = h.plan ∧ (∀ j, j ≠ i → portOf t j = portOf s.p j) ∧ SameIc { s.p with links := t.links } t := by
  have hport := portOf_trainFail_self (p := modPort i (helloShown h) s.p) (by simpa using hi) reason
  rw [portOf_modPort_self hi] at hport
  refine ⟨_, onP_of_eq (takeHello_of_refused hstate hphase hclk hagree), ?_⟩
  rw [hport]
  exact ⟨rfl, rfl, rfl, rfl, rfl, fun j hj => (portOf_trainFail_ne hj reason _).trans (portOf_modPort_ne hj _ _),
    (modPort_frame i _ s.p).trans (trainFail_frame i reason _)⟩

theorem trainingTimeout_fails (hstate : (portOf s.p i).state = .training) :
    ∃ t : Pkg, exec (.portTrainingTimeout i) s = .next { s with p := t } ∧ (portOf t i).state = .down ∧
      (portOf t i).reason = phaseReason s.p (portOf s.p i).phase ∧ (∀ j, j ≠ i → portOf t j = portOf s.p j) ∧
      SameIc { s.p with links := t.links } t := by
  have hport := portOf_trainFail_self hi (phaseReason s.p (portOf s.p i).phase)
  have hfail : trainTimeout i s.set s.p = trainFail i (phaseReason s.p (portOf s.p i).phase) s.p := by
    simp only [trainTimeout, hstate, beq_self_eq_true, if_true]
  refine ⟨_, onP_of_eq hfail, ?_⟩
  rw [hport]
  exact ⟨rfl, rfl, fun j hj => portOf_trainFail_ne hj _ _, trainFail_frame i _ _⟩

theorem portRetrain_begins (hstate : (portOf s.p i).state = .up) :
    ∃ t : Pkg, exec (.portRetrain i) s = .next { s with p := t } ∧ (portOf t i).state = .retrain ∧
      (portOf t i).phase = .equalise ∧ (portOf t i).retrains = min 0xFF ((portOf s.p i).retrains + 1) ∧
      (portOf t i).sent = (portOf s.p i).sent ∧ (∀ j, j ≠ i → portOf t j = portOf s.p j) ∧
      SameIc { s.p with links := t.links } t := by
  show ∃ t, execPortRetrain i s = _ ∧ _
  refine ⟨_, onP_of_eq (if_pos (beq_iff_eq.2 hstate)), ?_⟩
  rw [portOf_setPortState_self (by simpa using hi), portOf_modPort_self hi]
  exact ⟨rfl, rfl, rfl, rfl, fun j hj => (portOf_setPortState_ne hj _ _).trans (portOf_modPort_ne hj _ _),
    (modPort_frame i _ s.p).trans (setPortState_frame i _ _)⟩

theorem frameForward_sends {vc : Nat} {f : Frame} (hstate : (portOf s.p i).state = .up)
    (hroom : (portOf s.p i).sent.length < 512) (hnext : nextVc (portOf s.p i) = some vc)
    (hready : vcReady (portOf s.p i) vc = some (.inl f)) :
    ∃ t : Pkg, exec (.frameForward i) s = .next { s with p := t } ∧
      t.out = { s.p.out with frames := s.p.out.frames ++ [(i, (portOf s.p i).lane % laneCount s.set.lanes,
        frameOut f (portOf s.p i) s.p)] } ∧
      portOf t i = afterFrame (laneCount s.set.lanes) f (portOf s.p i) ∧
      (∀ j, j ≠ i → portOf t j = portOf s.p j) ∧ (vc ≠ 1 → t.ft = s.p.ft) ∧
      t = { s.p with links := t.links, out := t.out, ft := t.ft } := by
  show ∃ t, execFrameForward i s = _ ∧ _
  refine ⟨withFrame (laneCount s.set.lanes) i f s.p, onP_of_eq (transmit_of_own hstate hroom hnext hready), rfl,
    portOf_modPort_self hi (afterFrame _ f), fun j hj => portOf_modPort_ne hj (afterFrame _ f) s.p, fun hvc => ?_, rfl⟩
  rw [withFrame, noteStamp_of_other (.inl (vc_of_vcReady hready ▸ hvc))]

section
variable {bs : List Byte} {lane n : Nat} (hstate : (portOf s.p i).state = .up)
include hstate

theorem frameReceive_takes {f : Frame} (hlen : bs.length = 512) (hcrc : le bs 504 8 = crc64 (bs.take 504))
    (hkind : le bs 0 1 = 1) (hfew : (portOf s.p i).frontReplays < 16) (hseq : le bs 12 4 = (portOf s.p i).rxSeq)
    (hnak : le bs 476 4 = 0xFFFFFFFF) (hhold : (portOf s.p i).hold = []) (hf : parseFrame bs = f) (hvc : f.vc ≠ 1)
    (haddr : s.p.links.addr ≠ 0xFFFFFFFF) (hdst : f.dst = s.p.links.addr) (hsom : f.som = true) (heom : f.eom = true) :
    ∃ t : Pkg, exec (.hppFrameReceive i bs true n lane) s = .next { s with p := t } ∧
      t.out = { s.p.out with loop := s.p.out.loop ++ [(f.vc, f.payload)] } ∧
      (portOf t i).rxSeq = ((portOf s.p i).rxSeq + 1) % 2 ^ 32 ∧
      (portOf t i).fecCorr = min 0xFFFFFFFF ((portOf s.p i).fecCorr + n) ∧
      (∀ j, j ≠ i → portOf t j = portOf s.p j) ∧ t = { s.p with links := t.links, out := t.out } := by
  have hcount := portOf_modPort_self hi (counted n)
  obtain ⟨t, ht, hframe, htook, hne⟩ := goodFrame_of_next (set := s.set) (p := modPort i (counted n) s.p) (by simpa using hi)
    hkind hf (by rw [hcount]; exact hseq) hnak (by rw [hcount]; exact hhold) hvc haddr hdst hsom heom
    (receiveStamp (modPort i (counted n) s.p) i lane)
  obtain ⟨hport, hfront⟩ := htook
  rw [hcount] at hport hfront
  have htake : takeFrame i lane bs true n s.set s.p = t := by
    rw [takeFrame_of_good hstate hlen hcrc, ht, replayLimit_of_few (Nat.lt_of_le_of_lt hfront hfew)]
  refine ⟨t, onP_of_eq htake, ?_, ?_, ?_, fun j hj => (hne j hj).trans (portOf_modPort_ne hj _ _), ?_⟩
  · rw [hframe]
    rfl
  · rw [hport]
    rfl
  · rw [hport]
    rfl
  · rw [hframe]
    rfl

theorem frameReceive_holds (hlen : bs.length = 512) (hcrc : le bs 504 8 = crc64 (bs.take 504))
    (hkind : le bs 0 1 = 1) (hfew : (portOf s.p i).frontReplays < 16) (hseq : le bs 12 4 ≠ (portOf s.p i).rxSeq)
    (hskip : (portOf s.p i).skipping = false) (hnear : (le bs 12 4 + 2 ^ 32 - (portOf s.p i).rxSeq) % 2 ^ 32 < 512)
    (hnew : ∀ x ∈ (portOf s.p i).hold, x.1 ≠ le bs 12 4) :
    exec (.hppFrameReceive i bs true n lane) s = .next { s with p := modPort i (fun q => { q with
      fecCorr := min 0xFFFFFFFF ((portOf s.p i).fecCorr + n)
      hold := (portOf s.p i).hold ++ [(le bs 12 4, bs, receiveStamp s.p i lane)] }) s.p } := by
  have hcount := portOf_modPort_self hi (counted n)
  have hstamp : receiveStamp (modPort i (counted n) s.p) i lane = receiveStamp s.p i lane := by
    rw [receiveStamp, hcount]
    rfl
  have hheld := goodFrame_of_later (set := s.set) (p := modPort i (counted n) s.p) hkind
    (by rw [hcount]; exact hseq) (by rw [hcount]; exact hskip) (by rw [hcount]; exact hnear) (by rw [hcount]; exact hnew)
    (receiveStamp s.p i lane)
  refine onP_of_eq (f := takeFrame i lane bs true n) ?_
  rw [takeFrame_of_good hstate hlen hcrc, hstamp, hheld, modPort_modPort, replayLimit_of_few]
  · exact modPort_congr rfl
  · rw [portOf_modPort_self hi]
    exact hfew

theorem frameReceive_spoils {fecOk : Bool}
    (hbad : fecOk = false ∨ bs.length ≠ 512 ∨ le bs 504 8 ≠ crc64 (bs.take 504)) :
    ∃ t : Pkg, exec (.hppFrameReceive i bs fecOk n lane) s = .next { s with p := t } ∧
      t.out = { s.p.out with frames := s.p.out.frames ++ [(i, (portOf s.p i).lane % laneCount s.set.lanes,
        frameBytes 0 0 (ackOf (portOf s.p i)) (portOf s.p i).rxSeq 0 (portOf s.p i).owed idleFrame)] } ∧
      (portOf t i).skipping = true ∧ (portOf t i).rxSeq = (portOf s.p i).rxSeq ∧
      (portOf t i).fecUncorr = (if fecOk then min 0xFF (portOf s.p i).fecUncorr else min 0xFF ((portOf s.p i).fecUncorr + 1)) ∧
      t.integ = { s.p.integ with detect := modAt s.p.integ.detect 3 fun v => min 0xFFFFFFFF (v + 1) } ∧
      t = { s.p with links := t.links, out := t.out, integ := t.integ } := by
  have hspoiled := portOf_modPort_self hi fun q => spoiled fecOk (counted n q)
  have htake : takeFrame i lane bs fecOk n s.set s.p = detect 3 (withIdle (laneCount s.set.lanes) i (portOf s.p i).rxSeq
      (modPort i (fun q => spoiled fecOk (counted n q)) s.p)) := by
    rw [takeFrame_of_bad hstate hbad, badFrame_eq, portOf_modPort_self hi, modPort_modPort]
    rfl
  have hidle := portOf_withIdle (n := laneCount s.set.lanes) (p := modPort i (fun q => spoiled fecOk (counted n q)) s.p)
    (by simpa using hi) (portOf s.p i).rxSeq
  have hout := withIdle_out (laneCount s.set.lanes) i (portOf s.p i).rxSeq (modPort i (fun q => spoiled fecOk (counted n q)) s.p)
  rw [hspoiled] at hidle hout
  refine ⟨_, onP_of_eq (f := takeFrame i lane bs fecOk n) htake, hout, ?_, ?_, ?_, rfl, rfl⟩ <;> rw [portOf_detect, hidle]
  · rfl
  · rfl
  · cases fecOk <;> rfl

end

end

/-- Settles O53: the port that a command names changes as its lemma says; the rest of the package stands. -/
theorem peerPorts : Obligations.PeerPorts := by
  unfold Obligations.PeerPorts
  intro s i hi o lanes
  refine ⟨fun hstate hclk rev deskew => ⟨fun hphase => ?_, fun hphase => ?_, fun hphase => ?_⟩,
    fun h hstate hphase hclk => ⟨helloReceive_agrees hi hstate hphase hclk, fun reason => helloReceive_refuses hi hstate hphase hclk⟩,
    fun h hstate hclk => ?_, fun h hstate => ?_, trainingTimeout_fails hi, portRetrain_begins hi,
    fun hstate hdue hheld hseal => ⟨_, onP_of_eq rfl, portFails_leaves hi hstate hdue hheld hseal⟩,
    fun vc f hstate hroom hnext hready => ?_, fun hstate hnone => ?_, fun bs lane n hstate hlen hcrc hkind hfew => ⟨?_, ?_⟩,
    fun bs fecOk lane n hstate => frameReceive_spoils hi hstate⟩
  · exact onP_of_eq (f := fun set p => phaseEnd set i rev deskew p) (by rw [phaseEnd_of_training hstate hclk, hphase]; rfl)
  · exact onP_of_eq (f := fun set p => phaseEnd set i rev deskew p) (by rw [phaseEnd_of_training hstate hclk, hphase]; rfl)
  · exact onP_of_eq (f := fun set p => phaseEnd set i rev deskew p) (by rw [phaseEnd_of_training hstate hclk, hphase]; rfl)
  · exact onP_of_eq (f := takeHello i h) (takeHello_of_noClock hstate hclk)
  · exact onP_of_eq (f := takeHello i h) (takeHello_of_up hstate)
  · obtain ⟨t, hexec, hout, hport, hne, hft, hframe⟩ := frameForward_sends hi hstate hroom hnext hready
    refine ⟨t, hexec, hout, ?_, ?_, ?_, ?_, ?_, hne, hft, hframe⟩ <;> rw [hport]
    · rfl
    · rfl
    · rfl
    · rfl
    · rw [← vc_of_vcReady hready]
      rfl
  · show execFrameForward i s = _
    refine onP_of_eq ?_
    rw [transmit_of_none hstate hnone, sendIdle_eq]
    exact modPort_congr rfl
  · intro hseq hnak hhold f hvc haddr hdst hsom heom
    exact frameReceive_takes hi hstate hlen hcrc hkind hfew hseq hnak hhold rfl hvc haddr hdst hsom heom
  · exact fun hseq hskip hnear hnew => frameReceive_holds hi hstate hlen hcrc hkind hfew hseq hskip hnear hnew

end Sys2Proof.Machine
end

section
/-! PROOFS. O58: the holds that lower ENV_ACT, their release, LIMIT, and the cores that park (R543 to R548, R558). -/

namespace Sys2Proof.Machine

/-! ### Alert bits that stay -/

theorem bit_alert_self (b : Nat) (p : Pkg) : bit (alert b p).mgt.alert b = true := by
  simp [alert, bit_setBit]

theorem bit_alert_keeps {b : Nat} {p : Pkg} (c : Nat) (h : bit p.mgt.alert b = true) : bit (alert c p).mgt.alert b = true := by
  simp [alert, bit_setBit, h]

theorem logPut_keepsAlert {b : Nat} {p : Pkg} (e : LogEntry) (h : bit p.mgt.alert b = true) :
    bit (logPut e p).mgt.alert b = true := by
  unfold logPut
  dsimp only
  rw [raise_mgt]
  split
  · exact bit_alert_keeps alLog h
  · exact h

theorem log_keepsAlert {b : Nat} {p : Pkg} (kind status unit : Nat) (items : List (List Byte)) (h : bit p.mgt.alert b = true) :
    bit (log kind status unit items p).mgt.alert b = true := by
  unfold log logAt
  dsimp only
  split
  · split <;> exact h
  · exact logPut_keepsAlert _ h

theorem bit_notice_alert (cause : Nat) (p : Pkg) : bit (notice cause p).mgt.alert cause = true := by
  rw [notice, raise_mgt]
  exact log_keepsAlert _ _ _ _ (bit_alert_self cause p)

theorem notice_frame (cause : Nat) (p : Pkg) : SameLog p (notice cause p) :=
  (SameLog.of (q := alert cause p) rfl).trans ((log_frame ..).trans (raise_frame ..).log)

/-! ### ENV_ACT -/

theorem setEnvAct_kept (e : Nat) (s : State) :
    (setEnvAct e s).p.pwr = s.p.pwr ∧ (setEnvAct e s).p.mem = s.p.mem ∧ (setEnvAct e s).p.step = s.p.step ∧
      (setEnvAct e s).p.mgt = s.p.mgt := by
  unfold setEnvAct
  dsimp only
  split <;> exact ⟨rfl, rfl, rfl, rfl⟩

theorem lowerEnv_of_clocks {s : State} (h : clocksOn s.p = true) :
    lowerEnv s = setEnvAct (max s.set.envAct (envGiven s.set.env s.p.pwr)) s := if_pos h

theorem off_of_clocks {p : Pkg} (h : clocksOn p = true) : p.boot.off = false := by
  simp only [clocksOn, Bool.and_eq_true, Bool.not_eq_true'] at h
  exact h.2

/-! ### A hold that is set -/

/-- The hold of `w` is set: it counts, ENV_ACT is lowered at once to what R545 gives, and THERMAL is told of (R545, R552, R558). -/
def HoldTaken (s t : State) (w : Pwr) : Prop :=
  t.p.pwr = { w with holds := min 0xFF (s.p.pwr.holds + 1) } ∧
    t.set = { s.set with envAct := max s.set.envAct (envGiven s.set.env t.p.pwr) } ∧ t.pending = s.pending ∧
    t.p.mem = s.p.mem ∧ t.p.step = s.p.step ∧ bit t.p.mgt.alert alThermal = true

/-- A hold set once a reading was taken (`g`). -/
theorem holdSet_takes {s : State} (hclk : clocksOn s.p = true) (f g : Pwr → Pwr) (hholds : (g s.p.pwr).holds = s.p.pwr.holds) :
    HoldTaken s (holdSet f { s with p := modPwr g s.p }) (f (g s.p.pwr)) := by
  have hframe := notice_frame alThermal (modPwr (fun w => { f w with holds := satAdd 0xFF w.holds 1 }) (modPwr g s.p))
  have halert := bit_notice_alert alThermal (modPwr (fun w => { f w with holds := satAdd 0xFF w.holds 1 }) (modPwr g s.p))
  unfold holdSet
  dsimp only
  generalize notice alThermal (modPwr (fun w => { f w with holds := satAdd 0xFF w.holds 1 }) (modPwr g s.p)) = q at hframe halert ⊢
  have hpwr : q.pwr = { f (g s.p.pwr) with holds := satAdd 0xFF (g s.p.pwr).holds 1 } := congrArg Pkg.pwr hframe.1
  have hmem : q.mem = s.p.mem := (congrArg Pkg.mem hframe.1).trans rfl
  have hstep : q.step = s.p.step := (congrArg Pkg.step hframe.1).trans rfl
  have hboot : q.boot = s.p.boot := (congrArg Pkg.boot hframe.1).trans rfl
  rw [lowerEnv_of_clocks (by simpa [clocksOn, hboot] using hclk)]
  obtain ⟨hkpwr, hkmem, hkstep, hkmgt⟩ := setEnvAct_kept (max s.set.envAct (envGiven s.set.env q.pwr)) { s with p := q }
  refine ⟨?_, ?_, rfl, hkmem.trans hmem, hkstep.trans hstep, ?_⟩
  · rw [hkpwr, ← hholds]
    exact hpwr
  · rw [hkpwr]
    rfl
  · rw [hkmgt]
    exact halert

/-- A hold that names an envelope, set once a reading was taken (`g`), where it named another before. -/
theorem holdAt_takes {s : State} (hclk : clocksOn s.p = true) {old : Option Nat} (hold : old ≠ some (oneLower s.set))
    (f : Option Nat → Pwr → Pwr) (g : Pwr → Pwr) (hholds : (g s.p.pwr).holds = s.p.pwr.holds) :
    HoldTaken s (holdAt old f { s with p := modPwr g s.p }) (f (some (oneLower s.set)) (g s.p.pwr)) := by
  rw [show holdAt old f { s with p := modPwr g s.p } = holdSet (f (some (oneLower s.set))) { s with p := modPwr g s.p } from
    if_neg (by simpa [oneLower] using hold)]
  exact holdSet_takes hclk _ g hholds

/-! ### The holds of R545 -/

section
variable {s : State} (hclk : clocksOn s.p = true)
include hclk

theorem currentHold_takes {a b : Nat} (hover : 14000 < a + b) (hnew : s.p.pwr.current ≠ some (oneLower s.set)) :
    HoldTaken s (currentHold a b s) { s.p.pwr with iinA := a, iinB := b, current := some (oneLower s.set) } := by
  have hoff := off_of_clocks hclk
  rw [show currentHold a b s = holdAt s.p.pwr.current (fun e w => { w with current := e })
    { s with p := modPwr (fun w => { w with iinA := a, iinB := b }) s.p } from
      if_pos (by simp [setCurrents, modPwr, hover, hoff])]
  exact holdAt_takes hclk hnew (fun e w => { w with current := e }) (fun w => { w with iinA := a, iinB := b }) rfl

theorem powerHold_takes {w : Nat} (hover : envPower s.set.envAct * 105 < w * 100) (hnew : s.p.pwr.power ≠ some (oneLower s.set)) :
    HoldTaken s (powerHold w s) { s.p.pwr with
      pin := w, pins := (upNs s.p, w) :: recentPins (upNs s.p) s.p.pwr, power := some (oneLower s.set) } := by
  have hoff := off_of_clocks hclk
  rw [show powerHold w s = holdAt s.p.pwr.power (fun e v => { v with power := e })
    { s with p := modPwr (fun v => { v with pin := w, pins := (upNs s.p, w) :: recentPins (upNs s.p) v }) s.p } from
      if_pos (by simp [setPower, modPwr, hover, hoff])]
  exact holdAt_takes hclk hnew (fun e v => { v with power := e })
    (fun v => { v with pin := w, pins := (upNs s.p, w) :: recentPins (upNs s.p) v }) rfl

theorem connectorOpen_takes {a b : Nat} (ha : a < 500) (hb : 2000 < b) (hnew : s.p.pwr.connector = false) :
    HoldTaken s (connectorOpen a b s) { s.p.pwr with iinA := a, iinB := b, aOpen := true, connector := true } := by
  have hopen : openA a b = true := by simp [openA, ha, hb]
  have hother : openA b a = false := by
    simp only [openA, Bool.and_eq_false_imp, decide_eq_true_eq, decide_eq_false_iff_not]
    omega
  have h := holdSet_takes hclk (fun w => { w with connector := true })
    (fun w => { w with iinA := a, iinB := b, aOpen := w.aOpen || openA a b, bOpen := w.bOpen || openA b a }) rfl
  have hexec : connectorOpen a b s = holdSet (fun w => { w with connector := true }) { s with
      p := modPwr (fun w => { w with iinA := a, iinB := b, aOpen := w.aOpen || openA a b, bOpen := w.bOpen || openA b a }) s.p } := by
    simp [connectorOpen, setCurrents, modPwr, hopen, off_of_clocks hclk, hnew]
  rw [hexec]
  simpa [hopen, hother] using h

theorem limit_takes {v : Nat} (hv : v ≠ 0) (hlow : 24 ≤ v) (hhigh : v ≤ 46) (hnew : s.p.pwr.limit = 0) :
    HoldTaken s (setLimit v s) { s.p.pwr with limit := v } := by
  have hexec : setLimit v s = holdSet (fun w => { w with limit := v }) { s with p := modPwr id s.p } := by
    have hmod : v % 256 = v := Nat.mod_eq_of_lt (by omega)
    have hin : ¬ (v < 24 ∨ 46 < v) := by omega
    simp [setLimit, hmod, hv, hin, hnew, modPwr]
  rw [hexec]
  exact holdSet_takes hclk (fun w => { w with limit := v }) id rfl

/-- A write of LIMIT that sets no hold: ENV_ACT still falls at once where the new LIMIT asks for it. -/
theorem limit_lowers {v : Nat} (hv : v = 0 ∨ (24 ≤ v ∧ v ≤ 46)) (hno : v = 0 ∨ s.p.pwr.limit ≠ 0) :
    setLimit v s = setEnvAct (max s.set.envAct (envGiven s.set.env { s.p.pwr with limit := v }))
      { s with p := modPwr (fun w => { w with limit := v }) s.p } := by
  have hmod : v % 256 = v := Nat.mod_eq_of_lt (by omega)
  have hin : ¬ (v ≠ 0 ∧ (v < 24 ∨ 46 < v)) := by omega
  have hset : ¬ (v ≠ 0 ∧ s.p.pwr.limit = 0) := by omega
  unfold setLimit
  simp only [hmod, bne_iff_ne, Bool.and_eq_true, Bool.or_eq_true, decide_eq_true_eq, beq_iff_eq, if_neg hin, if_neg hset]
  exact lowerEnv_of_clocks hclk

/-! ### Sensors -/

theorem thermalHold_takes {i : Nat} {t : Int} (hi : i < 64) (hvalid : sensorValid s.p i = true) (hhot : holdTemp i < t)
    (hdue : thermalDue s.p = true) (hnew : s.p.pwr.thermal ≠ some (oneLower s.set)) :
    HoldTaken s (thermalHold i t s) { s.p.pwr with
      temps := s.p.pwr.temps.set i t, thermal := some (oneLower s.set)
      releaseSecs := if s.p.pwr.thermal.isNone then releaseTime s.p else s.p.pwr.releaseSecs
      thermalSetAt := some (upNs s.p) } := by
  have h := holdAt_takes hclk hnew (fun e w => { w with
      thermal := e, releaseSecs := if s.p.pwr.thermal.isNone then releaseTime s.p else s.p.pwr.releaseSecs
      thermalSetAt := some (upNs s.p) }) (fun w => { w with temps := w.temps.set i t }) rfl
  have hin : ¬ (64 ≤ i) := by omega
  have hdue' : thermalDue (setTemp i t s.p) = true := hdue
  unfold thermalHold
  simp only [hin, hvalid, hdue', Int.not_le.2 hhot, decide_false, Bool.not_true, Bool.or_self, Bool.false_eq_true, if_false]
  exact h

end

theorem setTemps_of_all {ts : List Int} (hlen : ts.length = 64) (p : Pkg) : setTemps ts p = modPwr (fun w => { w with temps := ts }) p := by
  have htemps (old : List Int) : ((List.range 64).map fun i => ts.getD i (old.getD i 0)) = ts := by
    refine List.ext_getElem (by simp [hlen]) fun k h1 h2 => ?_
    simp [h2]
  simp only [setTemps, htemps]

theorem coolEnough_iff (p : Pkg) (l : List Nat) :
    coolEnough p l = true ↔ ∀ i ∈ l, sensorValid p i = true → p.pwr.temps.getD i 0 ≤ releaseTemp i := by
  simp only [coolEnough, List.all_eq_true, Bool.or_eq_true, Bool.not_eq_true', decide_eq_true_eq]
  refine forall₂_congr fun i _ => ?_
  cases sensorValid p i <;> simp

theorem thermalRelease_leaves {s : State} {ts : List Int} (hlen : ts.length = 64) (hhold : s.p.pwr.thermal ≠ none)
    (hcool : ∀ i, i < 64 → sensorValid s.p i = true → ts.getD i 0 ≤ releaseTemp i) :
    exec (.thermalHoldRelease ts) s = .next { s with p := { s.p with pwr := { s.p.pwr with
      temps := ts, thermal := none, thermalReleasedAt := some (upNs s.p) } } } := by
  have hall : coolEnough (setTemps ts s.p) (List.range 64) = true := by
    rw [setTemps_of_all hlen]
    exact (coolEnough_iff _ _).2 fun i hi => hcool i (List.mem_range.1 hi)
  have hsome : (setTemps ts s.p).pwr.thermal.isSome = true := Option.isSome_iff_ne_none.2 hhold
  show execThermalHoldRelease ts s = _
  refine onP_of_eq ?_
  rw [if_pos (by rw [hall, hsome]; rfl), setTemps_of_all hlen]
  rfl

end Sys2Proof.Machine
end

section
/-! PROOFS. O58. -/

namespace Sys2Proof.Machine

/-- Settles O58: each command takes its hold or leaves it, and ENV_ACT follows. -/
theorem holdsLowerTheEnvelope : Obligations.HoldsLowerTheEnvelope := by
  unfold Obligations.HoldsLowerTheEnvelope
  intro s hclk
  have hoff := off_of_clocks hclk
  refine ⟨fun a b hover hnew => ⟨_, rfl, currentHold_takes hclk hover hnew⟩, fun a b hlow => ?_, fun a b hlow => ?_,
    fun w hover hnew => ⟨_, rfl, powerHold_takes hclk hover hnew⟩, fun w e he hlow => ?_,
    fun a b ha hb hnew => ⟨_, rfl, connectorOpen_takes hclk ha hb hnew⟩, fun a b ha hb => ?_,
    fun i t hi hvalid hhot hnew => ⟨_, rfl, ?_⟩, fun i t e hi hvalid hhot he hne hdue => ⟨_, rfl, ?_⟩,
    fun ts hlen hhold hcool => thermalRelease_leaves hlen hhold hcool, fun hopen v hv => ⟨fun hne hnew => ?_, fun hno => ?_⟩,
    fun v hlt hne hout => ?_, fun hlow => ?_, fun c hp3 => ?_⟩
  · have hle : ¬ (14000 < a + b) := by omega
    show Host.Outcome.next (currentHold a b s) = _
    rw [currentHold, if_neg (by simp [hle])]
    rfl
  · show execCurrentHoldRelease a b s = _
    refine onP_of_eq ?_
    rw [if_pos hlow]
    rfl
  · show execPowerHoldRelease w s = _
    refine onP_of_eq ?_
    simp [setPower, modPwr, he, hlow]
  · show execConnectorHoldRelease a b s = _
    refine onP_of_eq ?_
    rw [if_pos (by simp [ha, hb])]
    rfl
  · have h := thermalHold_takes hclk hi hvalid hhot (by simp [thermalDue, hnew]) (by simp [hnew])
    rwa [if_pos (by rw [hnew]; rfl)] at h
  · have h := thermalHold_takes hclk hi hvalid hhot hdue (by simpa [he, oneLower] using hne)
    rwa [if_neg (by rw [he]; exact Bool.false_ne_true)] at h
  · have hin : 24 ≤ v ∧ v ≤ 46 := hv.resolve_left hne
    refine ⟨setLimit v s, ?_, limit_takes hclk hne hin.1 hin.2 hnew⟩
    simp [exec, execPwrLimitWrite, hopen]
  · refine ⟨setLimit v s, ?_, ?_⟩
    · simp [exec, execPwrLimitWrite, hopen]
    · rw [limit_lowers hclk hv hno]
      have hpwr := (setEnvAct_kept (max s.set.envAct (envGiven s.set.env { s.p.pwr with limit := v }))
        { s with p := modPwr (fun w => { w with limit := v }) s.p }).1
      rw [hpwr]
      exact ⟨rfl, rfl, rfl⟩
  · have hmod : v % 256 = v := Nat.mod_eq_of_lt hlt
    have hsame : setLimit v s = s := by
      unfold setLimit
      simp only [hmod]
      exact if_pos (by simp [hne, hout])
    show Host.Outcome.next (if !hostOpen s.p then s else setLimit v s) = _
    rw [hsame, ite_self]
  · have hexec : riseEnv s = setEnvAct (s.set.envAct - 1) s := if_pos (by simp [hclk, hlow])
    exact ⟨_, congrArg Host.Outcome.next hexec, rfl, rfl, (setEnvAct_kept _ s).1⟩
  · show execCorePark c s = _
    refine onP_of_eq ?_
    rw [if_pos (by simp [hp3, hclk])]
    rfl

end Sys2Proof.Machine
end

section
/-! PROOFS. What events, failing work and the abort that may follow it leave alone: start-up's state, power, flash, the
fences, the states of the dies, the ports, alerts, and the marks of the step. For O54, O55, O56 and O59. -/

namespace Sys2Proof.Machine

/-! ### Flits go to dies that are UP -/

/-- Only the die `d` differs. -/
def ReachesDie (d : Nat) (p q : Pkg) : Prop :=
  q.dies.length = p.dies.length ∧ ∀ e, e ≠ d → q.dies.getD e {} = p.dies.getD e {}

namespace ReachesDie

theorem of_dies {d : Nat} {p q : Pkg} (h : q.dies = p.dies) : ReachesDie d p q := ⟨by rw [h], fun e _ => by rw [h]⟩

theorem trans {d : Nat} {p q r : Pkg} (h1 : ReachesDie d p q) (h2 : ReachesDie d q r) : ReachesDie d p r :=
  ⟨h2.1.trans h1.1, fun e he => (h2.2 e he).trans (h1.2 e he)⟩

end ReachesDie

theorem modDie_reaches (d : Nat) (f : Die → Die) (p : Pkg) : ReachesDie d p (modDie d f p) :=
  ⟨modDie_length d f p, fun _ he => die_modDie_ne he.symm f p⟩

theorem modLaneGroup_reaches (d g : Nat) (f : Group → Group) (p : Pkg) : ReachesDie d p (modLaneGroup d g f p) :=
  modDie_reaches d _ p

theorem putFlit_reaches (d g : Nat) (h : FlitHdr) (data : List Byte) (p : Pkg) : ReachesDie d p (putFlit d g h data p) := by
  rw [putFlit_eq]
  exact (modLaneGroup_reaches d g afterFlit p).trans (.of_dies rfl)

theorem launchFlit_reaches (d g : Nat) (x : FlitHdr × List Byte) (p : Pkg) : ReachesDie d p (launchFlit d g x p) :=
  (modLaneGroup_reaches d g _ p).trans (putFlit_reaches d g _ _ _)

theorem drainFlits_reaches (d g : Nat) (p : Pkg) : ReachesDie d p (drainFlits d g p) :=
  List.foldlRecOn (motive := ReachesDie d p) _ _ (modLaneGroup_reaches d g _ p) fun q hq x _ =>
    hq.trans (launchFlit_reaches d g x q)

theorem sendFlit_reaches (d g type flow tag dest : Nat) (data : List Byte) (p : Pkg) :
    ReachesDie d p (sendFlit d g type flow tag dest data p) :=
  (modLaneGroup_reaches d g _ p).trans (drainFlits_reaches d g _)

theorem sendRequest_reaches (d : Nat) (o : Option (Nat × Nat × Nat)) (r : WdiReq) (p : Pkg) :
    ReachesDie d p (sendRequest d o r p) :=
  (modDie_reaches d _ p).trans (sendFlit_reaches d 124 1 0 0 0 _ _)

/-- Dies that are not UP stand as they are. -/
def SparesDown (p q : Pkg) : Prop :=
  q.dies.length = p.dies.length ∧ ∀ d, (p.dies.getD d {}).state ≠ .up → q.dies.getD d {} = p.dies.getD d {}

namespace SparesDown

theorem of_dies {p q : Pkg} (h : q.dies = p.dies) : SparesDown p q := ⟨by rw [h], fun d _ => by rw [h]⟩

theorem refl (p : Pkg) : SparesDown p p := .of_dies rfl

theorem trans {p q r : Pkg} (h1 : SparesDown p q) (h2 : SparesDown q r) : SparesDown p r :=
  ⟨h2.1.trans h1.1, fun d hd => (h2.2 d (by rw [h1.2 d hd]; exact hd)).trans (h1.2 d hd)⟩

theorem of_reaches {d : Nat} {p q : Pkg} (h : ReachesDie d p q) (hup : (p.dies.getD d {}).state = .up) : SparesDown p q :=
  ⟨h.1, fun e he => h.2 e fun heq => he (heq ▸ hup)⟩

end SparesDown

theorem icTake_dies (s : Nat) (p : Pkg) : (icTake s p).dies = p.dies := by
  unfold icTake
  split <;> rfl

theorem sendMsix_dies (v : Nat) (p : Pkg) : (sendMsix v p).dies = p.dies := by
  unfold sendMsix
  split <;> rfl

theorem icDeliver_sparesDown (t : Nat) (p : Pkg) : SparesDown p (icDeliver t p) := by
  unfold icDeliver
  cases hup : targetUp p t with
  | false => exact .refl p
  | true =>
    rw [if_pos rfl]
    split
    · exact .refl p
    · dsimp only
      split
      next ht =>
        have hstate : (p.dies.getD (t / 4) {}).state = .up := by
          simpa [targetUp, Nat.not_le.2 ht] using hup
        exact (SparesDown.of_dies rfl).trans (.of_reaches (sendRequest_reaches _ _ _ _) hstate)
      next => exact .of_dies rfl

theorem icAct_sparesDown (s : Nat) (p : Pkg) : SparesDown p (icAct s p) := by
  unfold icAct
  split
  · split
    · exact .of_dies (sendMsix_dies _ p)
    · exact icDeliver_sparesDown _ p
  · exact .refl p

theorem raise_sparesDown (s : Nat) (p : Pkg) : SparesDown p (raise s p) := by
  unfold raise
  split
  · exact .refl p
  · split
    · exact .of_dies rfl
    · exact List.foldlRecOn (motive := SparesDown p) _ _ (.of_dies (icTake_dies s _)) fun q hq x _ =>
        hq.trans (icAct_sparesDown x q)

/-! ### What failing work spares -/

theorem any_zip_range {α : Type} (l : List α) (a : α) (f : Nat → α → Bool) :
    ((List.range l.length).zip l).any (fun x => f x.1 x.2) = (List.range l.length).any fun d => f d (l.getD d a) := by
  have hzip : (List.range l.length).zip l = (List.range l.length).map fun d => (d, l.getD d a) :=
    List.ext_getElem (by simp) fun k h _ => by
      have hk : k < l.length := by simpa using h
      simp [hk]
  rw [hzip, List.any_map]
  rfl

theorem degradedNow_eq (p : Pkg) : degradedNow p =
    (((List.range p.dies.length).any fun d => (p.dies.getD d {}).state != .up && !(rungResets p).elem d) ||
      p.integ.fenced != 0 || p.mem.failed != 0) := by
  rw [degradedNow, any_zip_range p.dies {} fun d x => x.state != .up && !(rungResets p).elem d]

/-- A die that events may send flits to while it is UP. -/
def KeptDie (a b : Die) : Prop := SameDie a b ∧ (a.state ≠ .up → b = a)

/-- Failing work, and what follows it, reaches none of this. -/
structure Spares (p q : Pkg) : Prop where
  boot : q.boot = p.boot
  pwr : q.pwr = p.pwr
  flash : q.flash = p.flash
  integ : q.integ = { p.integ with detect := q.integ.detect }
  failed : q.mem.failed = p.mem.failed
  length : q.dies.length = p.dies.length
  die : ∀ d, KeptDie (p.dies.getD d {}) (q.dies.getD d {})
  ports : q.links.ports.length = p.links.ports.length
  alert : ∀ b, bit p.mgt.alert b = true → bit q.mgt.alert b = true
  state : q.step.state = p.step.state
  mask : ∀ b, bit p.step.failMask b = true → bit q.step.failMask b = true

namespace Spares

/-- Only the work, the records of the host interface and what has left the package differ. -/
theorem of {p q : Pkg} (h : q = { p with
    host := q.host, out := q.out, ft := q.ft, cal := q.cal, ic := q.ic, tasks := q.tasks, upd := q.upd, hollow := q.hollow
    rings := q.rings, pipe := q.pipe, colls := q.colls, reshard := q.reshard, free := q.free }) : Spares p q := by
  have hinteg : q.integ = p.integ := (congrArg Pkg.integ h).trans rfl
  have hmem : q.mem = p.mem := (congrArg Pkg.mem h).trans rfl
  have hdies : q.dies = p.dies := (congrArg Pkg.dies h).trans rfl
  have hlinks : q.links = p.links := (congrArg Pkg.links h).trans rfl
  have hmgt : q.mgt = p.mgt := (congrArg Pkg.mgt h).trans rfl
  have hstep : q.step = p.step := (congrArg Pkg.step h).trans rfl
  exact ⟨(congrArg Pkg.boot h).trans rfl, (congrArg Pkg.pwr h).trans rfl, (congrArg Pkg.flash h).trans rfl, by rw [hinteg],
    by rw [hmem], by rw [hdies], fun d => by rw [hdies]; exact ⟨rfl, fun _ => rfl⟩, by rw [hlinks], fun _ hb => by rwa [hmgt],
    by rw [hstep], fun _ hb => by rwa [hstep]⟩

theorem refl (p : Pkg) : Spares p p := of rfl

theorem trans {p q r : Pkg} (h1 : Spares p q) (h2 : Spares q r) : Spares p r where
  boot := h2.boot.trans h1.boot
  pwr := h2.pwr.trans h1.pwr
  flash := h2.flash.trans h1.flash
  integ := by rw [h2.integ, h1.integ]
  failed := h2.failed.trans h1.failed
  length := h2.length.trans h1.length
  die := fun d => ⟨(h1.die d).1.trans (h2.die d).1, fun hd => by
    have hsame := (h1.die d).2 hd
    exact ((h2.die d).2 (by rwa [hsame])).trans hsame⟩
  ports := h2.ports.trans h1.ports
  alert := fun b hb => h2.alert b (h1.alert b hb)
  state := h2.state.trans h1.state
  mask := fun b hb => h2.mask b (h1.mask b hb)

theorem foldl {α : Type} {f : Pkg → α → Pkg} (hf : ∀ p a, Spares p (f p a)) (l : List α) (p : Pkg) :
    Spares p (l.foldl f p) :=
  List.foldlRecOn (motive := Spares p) l f (refl p) fun q hq a _ => hq.trans (hf q a)

/-- An event. -/
theorem of_ic {p q : Pkg} (h : SameIc p q) (hdown : SparesDown p q) : Spares p q := by
  have e := h.1
  have hinteg : q.integ = p.integ := (congrArg Pkg.integ e).trans rfl
  have hmem : q.mem = p.mem := (congrArg Pkg.mem e).trans rfl
  have hlinks : q.links = p.links := (congrArg Pkg.links e).trans rfl
  have hmgt : q.mgt = p.mgt := (congrArg Pkg.mgt e).trans rfl
  have hstep : q.step = p.step := (congrArg Pkg.step e).trans rfl
  exact ⟨(congrArg Pkg.boot e).trans rfl, (congrArg Pkg.pwr e).trans rfl, (congrArg Pkg.flash e).trans rfl, by rw [hinteg],
    by rw [hmem], hdown.1, fun d => ⟨h.2 d, hdown.2 d⟩, by rw [hlinks], fun _ hb => by rwa [hmgt],
    by rw [hstep], fun _ hb => by rwa [hstep]⟩

/-- Only the management subsystem differs, and no alert is lost. -/
theorem of_mgt {p q : Pkg} (h : q = { p with mgt := q.mgt })
    (halert : ∀ b, bit p.mgt.alert b = true → bit q.mgt.alert b = true) : Spares p q := by
  have e : Spares p { q with mgt := p.mgt } := .of (by rw [h])
  exact { e with alert := halert }

/-- Only memory differs, and no stack fails. -/
theorem of_mem {p q : Pkg} (h : q = { p with mem := q.mem }) (hfailed : q.mem.failed = p.mem.failed) : Spares p q := by
  have e : Spares p { q with mem := p.mem } := .of (by rw [h])
  exact { e with failed := hfailed }

/-- Only the links differ, over the same ports. -/
theorem of_links {p q : Pkg} (h : q = { p with links := q.links }) (hports : q.links.ports.length = p.links.ports.length) :
    Spares p q := by
  have e : Spares p { q with links := p.links } := .of (by rw [h])
  exact { e with ports := hports }

/-- Only the step differs: its state stands and its marks stay. -/
theorem of_step {p q : Pkg} (h : q = { p with step := q.step }) (hstate : q.step.state = p.step.state)
    (hmask : ∀ b, bit p.step.failMask b = true → bit q.step.failMask b = true) : Spares p q := by
  have e : Spares p { q with step := p.step } := .of (by rw [h])
  exact { e with state := hstate, mask := hmask }

/-- Whether the package is DEGRADED is the same. -/
theorem degradedNow {p q : Pkg} (h : Spares p q) : degradedNow q = degradedNow p := by
  have hresets : rungResets q = rungResets p := by
    rw [rungResets, h.integ]
    rfl
  have hfenced : q.integ.fenced = p.integ.fenced := by rw [h.integ]
  have hstate (d : Nat) : (q.dies.getD d {}).state = (p.dies.getD d {}).state := by rw [(h.die d).1]
  simp only [degradedNow_eq, hresets, hfenced, hstate, h.length, h.failed]

end Spares

/-! ### Events and the log -/

theorem raise_spares (s : Nat) (p : Pkg) : Spares p (raise s p) := .of_ic (raise_frame s p) (raise_sparesDown s p)

theorem alert_spares (c : Nat) (p : Pkg) : Spares p (alert c p) := .of_mgt rfl fun _ => bit_alert_keeps c

theorem logPut_spares (e : LogEntry) (p : Pkg) : Spares p (logPut e p) := by
  unfold logPut
  dsimp only
  refine .trans ?_ (raise_spares 344 _)
  split
  · exact .of_mgt rfl fun _ h => bit_alert_keeps (p := p) alLog h
  · exact .of_mgt rfl fun _ h => h

theorem log_spares (kind status unit : Nat) (items : List (List Byte)) (p : Pkg) : Spares p (log kind status unit items p) := by
  unfold log logAt
  dsimp only
  split
  · split <;> exact .of_mgt rfl fun _ h => h
  · exact logPut_spares _ p

theorem detect_spares (k : Nat) (p : Pkg) : Spares p (detect k p) :=
  { Spares.refl p with integ := rfl }

theorem answer_spares (w : Who) (st d c : Nat) (p : Pkg) : Spares p (answer w st d c p) := by
  rw [answer_frame]
  exact .of rfl

/-! ### Memory and messages -/

theorem memError_spares (set : Settings) (a : Nat) (p : Pkg) : Spares p (memError set a p) := by
  unfold memError memErrorKey memErrorAt
  refine .trans (.trans ?_ (detect_spares 0 _)) (log_spares ..)
  exact .of_mem rfl rfl

theorem writeBlock_spares (set : Settings) (a : Nat) (bs : List Byte) (p : Pkg) : Spares p (writeBlock set a bs p) := by
  unfold writeBlock
  split
  · exact memError_spares _ _ _
  · exact .of_mem rfl rfl

theorem dropFrame_spares (f : Frame) (p : Pkg) : Spares p (dropFrame f p) := by
  refine .trans ?_ (log_spares ..)
  exact .of_links rfl rfl

theorem queueOwn_spares (f : Frame) (p : Pkg) : Spares p (queueOwn f p) := by
  unfold queueOwn
  split
  · exact dropFrame_spares f p
  · split
    · split
      · exact .of_links rfl (length_modAt ..)
      · exact dropFrame_spares f p
    · exact dropFrame_spares f p

theorem sendMessage_spares (vc dst : Nat) (bs : List Byte) (p : Pkg) : Spares p (sendMessage vc dst bs p) := by
  unfold sendMessage
  split
  · exact .of rfl
  · exact .foldl (fun q f => queueOwn_spares f q) _ _

theorem sendCredit_spares (n : Nat) (grad : Bool) (slot : Nat) (p : Pkg) : Spares p (sendCredit n grad slot p) := by
  unfold sendCredit sendStage
  dsimp only
  split
  · exact .of rfl
  · exact sendMessage_spares _ _ _ _

/-! ### Instances that end (R77, R80, R112, R296) -/

theorem notify_spares (f : Fixture) (status : Nat) (p : Pkg) : Spares p (notify f status p) := by
  unfold notify
  split <;> exact .of rfl

theorem freeSlots_spares (iid stage : Nat) (p : Pkg) : Spares p (freeSlots iid stage p) :=
  .trans (q := modStage stage _ p) (.of rfl) (.foldl (fun q _ => sendCredit_spares _ _ _ q) _ _)

theorem endFixture_spares (set : Settings) (iid stage entry status : Nat) (p : Pkg) :
    Spares p (endFixture set iid stage entry status p) := by
  unfold endFixture
  split
  · exact freeSlots_spares _ _ p
  · dsimp only
    refine .trans (.trans (.trans ?_ (freeSlots_spares _ _ _)) (notify_spares _ _ _)) (.of rfl)
    split
    · exact .refl p
    · exact writeBlock_spares _ _ _ p

theorem addInst_spares (set : Settings) (i : Inst) (p : Pkg) : Spares p (addInst set i p) := .of rfl

theorem launchGraph_spares (set : Settings) (g : Graph) (num : Nat) (origin : Origin) (step : Option Nat) (inStep : Bool)
    (p : Pkg) : Spares p (launchGraph set g num origin step inStep p) := by
  refine .trans ?_ (addInst_spares set _ _)
  split
  · split <;> exact .of rfl
  · exact .refl p

theorem startHeld_spares (set : Settings) (p : Pkg) : Spares p (startHeld set p) := by
  refine .foldl (fun q h => ?_) _ p
  dsimp only
  split
  · exact .refl q
  · split
    · exact .trans (.of rfl) (launchGraph_spares ..)
    · exact .refl q

theorem endInst_spares (set : Settings) (iid status : Nat) (p : Pkg) : Spares p (endInst set iid status p) := by
  unfold endInst
  split
  · exact .refl p
  · refine .trans (.trans (.of (q := withoutInst iid p) rfl) ?_) (startHeld_spares set _)
    split
    · exact answer_spares _ _ _ _ _
    · exact endFixture_spares _ _ _ _ _ _

theorem checkInst_spares (set : Settings) (iid : Nat) (p : Pkg) : Spares p (checkInst set iid p) := by
  unfold checkInst
  split
  · exact .refl p
  · split
    · exact endInst_spares _ _ _ p
    · exact .refl p

/-! ### Tasks that fail (R112, R211) -/

theorem failStep_spares (b status : Nat) (p : Pkg) : Spares p (failStep b status p) :=
  .of_step rfl rfl fun c h => by simp [failStep, modStep, bit_setBit, h]

theorem failLive_spares (b status : Nat) (p : Pkg) : Spares p (failLive b status p) := by
  unfold failLive
  split
  · exact failStep_spares b status p
  · exact .refl p

theorem tearCommit_spares (status : Nat) (p : Pkg) : Spares p (tearCommit status p) := by
  unfold tearCommit
  split
  · exact .of_step rfl rfl fun _ h => h
  · exact .refl p

theorem retractStep_spares (p : Pkg) : Spares p (retractStep p) := by
  refine .foldl (fun q x => .trans (q := markRetracted x.1 x.2.1 q) (.of rfl) ?_) _ p
  unfold sendRetract
  dsimp only
  split
  · exact .of rfl
  · exact .trans (.of rfl) (sendMessage_spares _ _ _ _)

theorem noteFailure_spares (iid task status unit : Nat) (p : Pkg) : Spares p (noteFailure iid task status unit p) := by
  unfold noteFailure
  split
  · exact .refl p
  · dsimp only
    have hmod (f : Inst → Inst) : Spares p (modInst iid f p) := .of rfl
    split
    · exact hmod _
    · split
      · exact ((hmod _).trans (failStep_spares 0 status _)).trans (retractStep_spares _)
      · exact (hmod _).trans (failStep_spares 0 status _)

theorem failTask_spares (set : Settings) (iid task status unit : Nat) (p : Pkg) :
    Spares p (failTask set iid task status unit p) := (noteFailure_spares ..).trans (checkInst_spares ..)

theorem feed_spares (set : Settings) (g rid status : Nat) (p : Pkg) : Spares p (feed set g rid status p) := by
  refine .foldl (fun q iid => ?_) _ p
  unfold feedInst
  split
  · exact .refl q
  · dsimp only
    split
    · exact .refl q
    · split
      · exact failTask_spares ..
      · split
        · exact failTask_spares ..
        · exact .trans (.of rfl) (checkInst_spares ..)

theorem retireColl_spares (c : Coll) (stats : Option (W32 × W32)) (p : Pkg) : Spares p (retireColl c stats p) := by
  unfold retireColl
  dsimp only
  split <;> exact .of rfl

theorem failRun_spares (set : Settings) (iid task status : Nat) (p : Pkg) : Spares p (failRun set iid task status p) := by
  unfold failRun
  split
  · exact .refl p
  · have hdrops (q : Pkg) : Spares q (pruneRings (dropRun iid task q)) := .of rfl
    dsimp only
    cases collAt p iid task with
    | none => exact (hdrops p).trans (failTask_spares ..)
    | some c => exact (((retireColl_spares c none p).trans (hdrops _)).trans (failTask_spares ..)).trans (feed_spares ..)

theorem failRuns_spares (set : Settings) (f : Run → Bool) (status : Run → Nat) (p : Pkg) : Spares p (failRuns set f status p) :=
  .foldl (fun q _ => failRun_spares _ _ _ _ q) _ p

/-! ### The abort that follows (R235), and a commit that looks again (R263) -/

theorem abortInst_spares (set : Settings) (iid : Nat) (p : Pkg) : Spares p (abortInst set iid p) :=
  .trans (.of rfl) (endInst_spares ..)

theorem abortHeld_spares (set : Settings) (p : Pkg) : Spares p (abortHeld set p) := by
  unfold abortHeld
  dsimp only
  refine .trans (q := { p with tasks := { p.tasks with held := p.tasks.held.filter fun h => !h.inStep } }) (.of rfl)
    (.foldl (fun q h => ?_) _ _)
  split
  · exact answer_spares _ _ _ _ q
  · exact endFixture_spares _ _ _ _ _ q

theorem beginAbort_spares (set : Settings) (p : Pkg) : Spares p (beginAbort set p) := by
  unfold beginAbort
  dsimp only
  refine .trans (.trans (.trans (.trans (.trans (.trans (.trans ?_ (retractStep_spares _)) (.of (q := haltGroups _) rfl))
    (abortHeld_spares set _)) (.foldl (fun q c => retireColl_spares c none q) _ _))
    (.foldl (fun q iid => abortInst_spares set iid q) _ _)) (.foldl (fun q c => feed_spares set _ _ _ q) _ _)) (.of rfl)
  exact .of_step rfl rfl fun _ h => h

/-- The slots that a commit chooses, and whether it waits for one. -/
theorem slots_spares {f : Step → Step} (hf : ∀ t, f t = { t with chosen := (f t).chosen, commitHeld := (f t).commitHeld })
    (p : Pkg) : Spares p (modStep f p) := by
  have hstep : (modStep f p).step = { p.step with chosen := (f p.step).chosen, commitHeld := (f p.step).commitHeld } := hf _
  exact .of_step rfl (by rw [hstep]) fun _ h => by rwa [hstep]

theorem forceOut_spares (r : Ring) (v : Version) (p : Pkg) : Spares p (forceOut r v p) := by
  refine .trans ?_ (log_spares ..)
  exact .of rfl

theorem takeSlot_spares (id n : Nat) (p : Pkg) : Spares p (takeSlot id n p) := by
  induction n generalizing p with
  | zero =>
    unfold takeSlot
    split
    · exact .refl p
    · split
      · exact slots_spares (fun _ => rfl) p
      next h => cases h
      · exact slots_spares (fun _ => rfl) p
  | succ n ih =>
    unfold takeSlot
    split
    · exact .refl p
    · split
      · exact slots_spares (fun _ => rfl) p
      next h =>
        cases h
        exact (forceOut_spares _ _ p).trans (ih _)
      · exact slots_spares (fun _ => rfl) p

theorem retrySlots_spares (p : Pkg) : Spares p (retrySlots p) := by
  unfold retrySlots
  split
  · have hprunes : Spares p (pruneRings p) := .of rfl
    refine (hprunes.trans (slots_spares (fun _ => rfl) _)).trans (.foldl (fun q id => ?_) _ _)
    unfold chooseSlot
    split
    · exact .refl q
    · exact takeSlot_spares _ _ q
  · exact .refl p

theorem resumeJ1_spares (set : Settings) (p : Pkg) : Spares p (resumeJ1 set p) := .of rfl

theorem finish_spares (set : Settings) (p : Pkg) : Spares p (finish set p) := by
  refine .trans (.trans ?_ (retrySlots_spares _)) (resumeJ1_spares set _)
  split
  · exact beginAbort_spares set p
  · exact .refl p

end Sys2Proof.Machine
end

section
/-! PROOFS. The interface of one die: what an operation on it leaves of the package and of the other dies, and the flits that
leave on its CTRL group when its exchange is done anew (R427, R428, R431). For O54 and O56. -/

namespace Sys2Proof.Machine

/-! ### Operations on one die -/

/-- `q` is `p` but for the die `d` and what events of sources do; what has left the package stays. -/
structure OnlyDie (d : Nat) (p q : Pkg) : Prop where
  rest : q = { p with ic := q.ic, out := q.out, dies := q.dies }
  length : q.dies.length = p.dies.length
  others : ∀ e, e ≠ d → SameDie (p.dies.getD e {}) (q.dies.getD e {})
  emits : Emits p q

namespace OnlyDie

theorem trans {d : Nat} {p q r : Pkg} (h1 : OnlyDie d p q) (h2 : OnlyDie d q r) : OnlyDie d p r :=
  ⟨by rw [h2.rest, h1.rest], h2.length.trans h1.length, fun e he => (h1.others e he).trans (h2.others e he),
    h1.emits.trans h2.emits⟩

theorem refl (d : Nat) (p : Pkg) : OnlyDie d p p := ⟨rfl, rfl, fun _ _ => rfl, .refl p⟩

end OnlyDie

theorem raise_onlyDie (d k : Nat) (p : Pkg) : OnlyDie d p (raise k p) :=
  ⟨(raise_frame k p).1, (raise_sparesDown k p).1, fun e _ => (raise_frame k p).2 e, raise_emits k p⟩

theorem modDie_onlyDie (d : Nat) (f : Die → Die) (p : Pkg) : OnlyDie d p (modDie d f p) :=
  ⟨rfl, modDie_length d f p, fun e he => by rw [die_modDie_ne he.symm]; rfl, .of_out rfl⟩

theorem sendFlit_onlyDie (d g type flow tag dest : Nat) (data : List Byte) (p : Pkg) :
    OnlyDie d p (sendFlit d g type flow tag dest data p) :=
  ⟨(sendFlit_frame ..).1, (sendFlit_reaches ..).1, fun e _ => (sendFlit_frame ..).2 e, sendFlit_emits ..⟩

theorem sendCap_onlyDie (set : Settings) (d : Nat) (p : Pkg) : OnlyDie d p (sendCap set d p) :=
  (modDie_onlyDie d _ p).trans (sendFlit_onlyDie d 124 4 2 0 0 _ _)

theorem sendRoles_onlyDie (d : Nat) (p : Pkg) : OnlyDie d p (sendRoles d p) := sendFlit_onlyDie d 124 5 2 0 0 _ p

theorem setDie_onlyDie (d : Nat) (st : DieState) (reason : Nat) (p : Pkg) : OnlyDie d p (setDie d st reason p) := by
  unfold setDie
  split
  · exact modDie_onlyDie d _ p
  · exact (modDie_onlyDie d _ p).trans (raise_onlyDie d _ _)

/-- The die's interface apart from what flits change. -/
theorem SameDie.of_eq {a b : Die} (h : b = a) : SameDie a b := by
  rw [h]
  rfl

theorem setDie_die {d : Nat} {p : Pkg} (hd : d < p.dies.length) (st : DieState) (reason : Nat) :
    SameDie { p.dies.getD d {} with state := st, reason := reason } ((setDie d st reason p).dies.getD d {}) := by
  unfold setDie
  split
  next h =>
    rw [die_modDie_self hd, ← beq_iff_eq.1 h]
    rfl
  next =>
    have h := (raise_frame (368 + d) (modDie d (fun x => { x with state := st, reason := reason }) p)).2 d
    rwa [die_modDie_self hd] at h

theorem sendCap_die (set : Settings) {d : Nat} {p : Pkg} (hd : d < p.dies.length) :
    SameDie (p.dies.getD d {}) ((sendCap set d p).dies.getD d {}) := by
  have h := (sendFlit_frame d 124 4 2 0 0 (baseCap set)
    (modDie d (fun x => { x with groups := [], waiting := [], lastTag := 0 }) p)).2 d
  rw [die_modDie_self hd] at h
  exact SameDie.trans (b := { p.dies.getD d {} with groups := [], waiting := [], lastTag := 0 }) rfl h

/-! ### Room on the CTRL group -/

/-- At least `n` flits may leave at once on a lane group. -/
def RoomFor (n : Nat) (y : Group) : Prop := y.retraining = false ∧ y.queue = [] ∧ y.sent.length + n ≤ 512

theorem RoomFor.roomOn {n : Nat} {y : Group} (h : RoomFor (n + 1) y) : RoomOn y := by
  obtain ⟨htrain, hqueue, hlen⟩ := h
  exact ⟨htrain, hqueue, by omega⟩

theorem RoomFor.mono {n m : Nat} {y : Group} (h : RoomFor n y) (hle : m ≤ n) : RoomFor m y := by
  obtain ⟨htrain, hqueue, hlen⟩ := h
  exact ⟨htrain, hqueue, by omega⟩

/-- A flit that leaves at once takes one place. -/
theorem sendFlit_roomFor {n d g : Nat} {p : Pkg} (hd : d < p.dies.length) (h : RoomFor (n + 1) (laneGroup p d g))
    (type flow tag dest : Nat) (data : List Byte) : RoomFor n (laneGroup (sendFlit d g type flow tag dest data p) d g) := by
  have hgroup := laneGroup_modLaneGroup_self (f := afterLaunch ⟨type, flow, 0, 0, false, 0, 0, tag, dest⟩ data) hd
    (laneGroup_id p d g)
  rw [sendFlit_of_room hd h.roomOn]
  obtain ⟨htrain, hqueue, hlen⟩ := h
  refine (congrArg (RoomFor n) hgroup).mpr ⟨htrain, hqueue, ?_⟩
  simp only [afterLaunch, afterFlit, List.length_append, List.length_singleton]
  omega

/-- An interrupt delivered to a core of the die takes at most one place. -/
theorem icDeliver_roomFor {n d : Nat} {p : Pkg} (hd : d < p.dies.length) (h : RoomFor (n + 1) (laneGroup p d 124)) (t : Nat) :
    RoomFor n (laneGroup (icDeliver t p) d 124) := by
  unfold icDeliver
  split
  · exact h.mono (by omega)
  next src _ =>
    dsimp only
    split
    · by_cases ht : t / 4 = d
      · subst ht
        unfold sendRequest
        refine sendFlit_roomFor (by rw [modDie_length]; exact hd) ?_ 1 0 0 0 _
        rw [laneGroup, die_modDie_self (by exact hd)]
        exact h
      · have hother := (sendRequest_reaches (t / 4) none ⟨0x0200 + t, 7, 0, 0, 0, 0, 0, leBytes 2 src ++
          leBytes 1 (p.ic.prio.getD src 0) ++ leBytes 1 (t % 4)⟩ { icClear src p with ic := { (icClear src p).ic with
            running := modAt (icClear src p).ic.running t fun st => p.ic.prio.getD src 0 :: st } }).2 d (Ne.symm ht)
        rw [laneGroup, hother]
        exact h.mono (by omega)
    · exact h.mono (by omega)

theorem icAct_roomFor {n d : Nat} {p : Pkg} (hd : d < p.dies.length) (h : RoomFor (n + 1) (laneGroup p d 124)) (s : Nat) :
    RoomFor n (laneGroup (icAct s p) d 124) := by
  unfold icAct
  split
  · split
    · rw [laneGroup, sendMsix_dies]
      exact h.mono (by omega)
    · exact icDeliver_roomFor hd h _
  · exact h.mono (by omega)

/-- One event delivers at most one interrupt. -/
theorem raise_roomFor {n d : Nat} {p : Pkg} (hd : d < p.dies.length) (h : RoomFor (n + 1) (laneGroup p d 124)) (s : Nat) :
    RoomFor n (laneGroup (raise s p) d 124) := by
  unfold raise
  split
  · exact h.mono (by omega)
  · split
    · exact h.mono (by omega)
    · unfold icChange
      have htake : RoomFor (n + 1) (laneGroup (icTake s { p with ic := { p.ic with pend := putWordBit p.ic.pend s true } }) d 124) := by
        rw [laneGroup, icTake_dies]
        exact h
      simp only [List.filter_cons, List.filter_nil]
      split
      · exact icAct_roomFor (by rw [icTake_dies]; exact hd) htake s
      · exact htake.mono (by omega)

/-! ### The exchange (R427, R428) -/

/-- A flit of a type and data leaves on group 124 of a die. -/
def Leaves (p q : Pkg) (d type : Nat) (data : List Byte) : Prop :=
  ∃ f ∈ q.out.wdi.drop p.out.wdi.length, f.die = d ∧ f.group = 124 ∧ f.h.type = type ∧ f.data = data

/-- What has left before and after stays left. -/
theorem Leaves.widen {p q q' r : Pkg} {d type : Nat} {data : List Byte} (h : Leaves q q' d type data) (h1 : Emits p q)
    (h2 : Emits q' r) : Leaves p r d type data := by
  obtain ⟨f, hf, hrest⟩ := h
  obtain ⟨fs, hfs⟩ := h1.wdi
  obtain ⟨gs, hgs⟩ := h2.wdi
  refine ⟨f, ?_, hrest⟩
  have hsplit : q'.out.wdi.drop q.out.wdi.length <:+ q'.out.wdi.drop p.out.wdi.length := by
    rw [hfs, List.length_append, ← List.drop_drop]
    exact List.drop_suffix _ _
  have hle : (q'.out.wdi.drop p.out.wdi.length) ⊆ r.out.wdi.drop p.out.wdi.length := by
    rw [hgs, List.drop_append]
    exact List.subset_append_left _ _
  exact hle (hsplit.subset hf)

theorem sendFlit_leaves {d type flow : Nat} {data : List Byte} {p : Pkg} (hd : d < p.dies.length)
    (hroom : RoomOn (laneGroup p d 124)) : Leaves p (sendFlit d 124 type flow 0 0 data p) d type (padTo 128 data) := by
  rw [sendFlit_of_room hd hroom]
  exact ⟨flitOut d 124 (laneGroup p d 124) ⟨type, flow, (laneGroup p d 124).txSeq, 0, false, 0, 0, 0, 0⟩ data, by simp,
    rfl, rfl, rfl, rfl⟩

/-- The groups of the die are new. -/
theorem emptied_roomFor {d : Nat} {p : Pkg} (hd : d < p.dies.length) :
    RoomFor 512 (laneGroup (modDie d (fun x => { x with groups := [], waiting := [], lastTag := 0 }) p) d 124) := by
  rw [laneGroup, die_modDie_self hd]
  exact ⟨rfl, rfl, le_rfl⟩

theorem sendCap_leaves (set : Settings) {d : Nat} {p : Pkg} (hd : d < p.dies.length) :
    Leaves p (sendCap set d p) d 4 (padTo 128 (baseCap set)) := by
  unfold sendCap
  exact (sendFlit_leaves (by rw [modDie_length]; exact hd) (emptied_roomFor hd).roomOn).widen (.of_out rfl) (.refl _)

theorem sendCap_roomFor (set : Settings) {d : Nat} {p : Pkg} (hd : d < p.dies.length) :
    RoomFor 511 (laneGroup (sendCap set d p) d 124) := by
  unfold sendCap
  exact sendFlit_roomFor (by rw [modDie_length]; exact hd) (emptied_roomFor hd) ..

theorem setDie_roomFor {n d : Nat} {p : Pkg} (hd : d < p.dies.length) (h : RoomFor (n + 1) (laneGroup p d 124))
    (st : DieState) (reason : Nat) : RoomFor n (laneGroup (setDie d st reason p) d 124) := by
  unfold setDie
  split
  · rw [laneGroup, die_modDie_self hd]
    exact h.mono (by omega)
  · refine raise_roomFor (by rw [modDie_length]; exact hd) ?_ _
    rw [laneGroup, die_modDie_self hd]
    exact h

/-- The plan of R422 leaves for a die that has come UP after its exchange. -/
theorem sendRoles_leaves (set : Settings) {d : Nat} {p : Pkg} (hd : d < p.dies.length) {f : Die → Die}
    (hf : ∀ x, (f x).groups = x.groups) :
    Leaves p (sendRoles d (modDie d f (setDie d .up 0 (sendCap set d p)))) d 5
      (padTo 128 ((List.range 128).map fun g => BitVec.ofNat 8 (roleOf g))) := by
  have hup := (sendCap_onlyDie set d p).trans (setDie_onlyDie d .up 0 _)
  have hd' : d < (setDie d .up 0 (sendCap set d p)).dies.length := by
    rw [hup.length]
    exact hd
  have hroom := setDie_roomFor (n := 510) (by rw [(sendCap_onlyDie set d p).length]; exact hd) (sendCap_roomFor set hd) .up 0
  refine (sendFlit_leaves (flow := 2) (by rw [modDie_length]; exact hd') ?_).widen (hup.trans (modDie_onlyDie d f _)).emits
    (.refl _)
  rw [laneGroup, die_modDie_self hd', groupAt, hf]
  exact hroom.roomOn

end Sys2Proof.Machine
end

section
/-! PROOFS. Start-up and package reset (O56). -/

namespace Sys2Proof.Machine

/-! ### Phase 3: the dies are released (R427, R428) -/

/-- The role codes of the 128 groups. -/
def planBytes : List Byte := (List.range 128).map fun g => BitVec.ofNat 8 (roleOf g)

/-- What the checks of R428 make of a die. -/
def DieReleased (r : DieReport) (x : Die) : Prop :=
  match releaseReason r with
  | none => x.state = .up ∧ x.level = 1 ∧ x.cap = r.cap
  | some reason => x.state = .notReleased ∧ x.reason = reason

theorem DieReleased.of_same {r : DieReport} {x y : Die} (h : DieReleased r x) (hsame : SameDie x y) : DieReleased r y := by
  have hstate : y.state = x.state := by rw [hsame]
  have hreason : y.reason = x.reason := by rw [hsame]
  have hlevel : y.level = x.level := by rw [hsame]
  have hcap : y.cap = x.cap := by rw [hsame]
  revert h
  unfold DieReleased
  cases releaseReason r with
  | none => exact fun h => ⟨hstate.trans h.1, hlevel.trans h.2.1, hcap.trans h.2.2⟩
  | some reason => exact fun h => ⟨hstate.trans h.1, hreason.trans h.2⟩

/-- Between `p` and `q` the exchange of a die took place and its checks were done. -/
structure Released (set : Settings) (d : Nat) (r : DieReport) (p q : Pkg) : Prop where
  die : DieReleased r (q.dies.getD d {})
  cap : Leaves p q d 4 (padTo 128 (baseCap set))
  plan : releaseReason r = none → Leaves p q d 5 (padTo 128 planBytes)

theorem Released.widen {set : Settings} {d : Nat} {r : DieReport} {p q q' t : Pkg} (h : Released set d r q q')
    (h1 : Emits p q) (h2 : Emits q' t) (hsame : SameDie (q'.dies.getD d {}) (t.dies.getD d {})) : Released set d r p t :=
  ⟨h.die.of_same hsame, h.cap.widen h1 h2, fun hr => (h.plan hr).widen h1 h2⟩

theorem releaseDie_onlyDie (set : Settings) (d : Nat) (r : DieReport) (p : Pkg) : OnlyDie d p (releaseDie set d r p) := by
  unfold releaseDie
  dsimp only
  split
  · exact (sendCap_onlyDie set d p).trans (modDie_onlyDie d _ _)
  · exact (((sendCap_onlyDie set d p).trans (setDie_onlyDie d .up 0 _)).trans (modDie_onlyDie d _ _)).trans
      (sendRoles_onlyDie d _)

theorem releaseDie_released (set : Settings) {d : Nat} (r : DieReport) {p : Pkg} (hd : d < p.dies.length) :
    Released set d r p (releaseDie set d r p) := by
  have hcap := sendCap_onlyDie set d p
  have hd1 : d < (sendCap set d p).dies.length := by
    rw [hcap.length]
    exact hd
  have hleft := sendCap_leaves set hd
  unfold releaseDie
  dsimp only
  cases hr : releaseReason r with
  | some reason =>
    refine ⟨?_, hleft.widen (.refl p) (modDie_onlyDie d _ _).emits, fun h => by cases hr ▸ h⟩
    rw [DieReleased, hr, die_modDie_self hd1]
    exact ⟨rfl, rfl⟩
  | none =>
    let f (x : Die) : Die := { x with level := 1, cap := r.cap, failedGroup := 0xFF }
    have hup := setDie_onlyDie d .up 0 (sendCap set d p)
    have hd2 : d < (setDie d .up 0 (sendCap set d p)).dies.length := by
      rw [hup.length]
      exact hd1
    have hsame := (sendFlit_frame d 124 5 2 0 0 planBytes (modDie d f (setDie d .up 0 (sendCap set d p)))).2 d
    rw [die_modDie_self hd2] at hsame
    refine ⟨DieReleased.of_same ?_ hsame, hleft.widen (.refl p) ((hup.trans (modDie_onlyDie d f _)).trans
      (sendRoles_onlyDie d _)).emits, fun _ => sendRoles_leaves set hd fun _ => rfl⟩
    rw [DieReleased, hr]
    have hstate : ((setDie d .up 0 (sendCap set d p)).dies.getD d {}).state = .up := by rw [setDie_die hd1 .up 0]
    exact ⟨hstate, rfl, rfl⟩

/-- The dies are released one after the other. -/
theorem foldl_releaseDie (set : Settings) (reports : Nat → DieReport) (l : List Nat) (hl : l.Nodup) (p : Pkg)
    (hlt : ∀ d ∈ l, d < p.dies.length) :
    let q := l.foldl (fun q d => releaseDie set d (reports d) q) p
    q = { p with ic := q.ic, out := q.out, dies := q.dies } ∧ q.dies.length = p.dies.length ∧ Emits p q ∧
      (∀ e, e ∉ l → SameDie (p.dies.getD e {}) (q.dies.getD e {})) ∧ ∀ d ∈ l, Released set d (reports d) p q := by
  induction l generalizing p with
  | nil => exact ⟨rfl, rfl, .refl p, fun _ _ => rfl, fun _ h => absurd h List.not_mem_nil⟩
  | cons d l ih =>
    obtain ⟨hnot, hrest⟩ := List.nodup_cons.1 hl
    have hone := releaseDie_onlyDie set d (reports d) p
    obtain ⟨hframe, hlen, hemits, hothers, hdone⟩ := ih hrest (releaseDie set d (reports d) p)
      fun e he => by
        rw [hone.length]
        exact hlt e (List.mem_cons_of_mem d he)
    refine ⟨by rw [List.foldl_cons, hframe, hone.rest], hlen.trans hone.length, hone.emits.trans hemits, fun e he => ?_,
      fun e he => ?_⟩
    · obtain ⟨hne, hel⟩ := not_or.1 fun h => he (List.mem_cons.2 h)
      exact (hone.others e hne).trans (hothers e hel)
    · rcases List.mem_cons.1 he with rfl | hel
      · exact (releaseDie_released set (reports e) (hlt e List.mem_cons_self)).widen (.refl p) hemits (hothers e hnot)
      · exact (hdone e hel).widen hone.emits (.refl _) rfl

/-- DEGRADED is brought up to date, and dies that are not UP stand. -/
theorem refresh_sparesDown (p : Pkg) : SparesDown p (refresh p) := by
  have h := raise_sparesDown 384 { p with boot := { p.boot with degraded := degradedNow p && decide (4 ≤ p.boot.phase) } }
  unfold refresh
  dsimp only
  split
  · exact .refl p
  · split <;> exact h

theorem refresh_emits (p : Pkg) : Emits p (refresh p) := by
  have h := raise_emits 384 { p with boot := { p.boot with degraded := degradedNow p && decide (4 ≤ p.boot.phase) } }
  unfold refresh
  dsimp only
  split
  · exact .refl p
  · split <;> exact h

/-- DEGRADED says what R486 says of the package that it leaves. -/
theorem degradedNow_refresh (p : Pkg) : degradedNow (refresh p) = degradedNow p := by
  have h := refresh_frame p
  have hsame : Spares { p with boot := (refresh p).boot, mgt := (refresh p).mgt } (refresh p) := .of_ic h (refresh_sparesDown p)
  exact hsame.degradedNow

theorem phase3_releases (set : Settings) (reports : List DieReport) {p : Pkg} (hoff : p.boot.off = false)
    (hphase : p.boot.phase = 3) (hlen : p.dies.length = 4) :
    (phase3 reports set p).boot.phase = 4 ∧ (phase3 reports set p).boot.degraded = degradedNow (phase3 reports set p) ∧
      (phase3 reports set p).mem = p.mem ∧
      ∀ d, d < 4 → Released set d (reports.getD d ⟨none, none⟩) p (phase3 reports set p) := by
  have hin : inPhase p 3 = true := by simp [inPhase, hoff, hphase]
  have hexec : phase3 reports set p = refresh (modBoot (fun b => { b with phase := 4 })
      ((List.range 4).foldl (fun q d => releaseDie set d (reports.getD d ⟨none, none⟩) q) p)) := by
    rw [phase3, hin]
    rfl
  obtain ⟨hframe, -, hemits, -, hdone⟩ := foldl_releaseDie set (fun d => reports.getD d ⟨none, none⟩) (List.range 4)
    List.nodup_range p (by simp [hlen])
  rw [hexec]
  generalize (List.range 4).foldl (fun q d => releaseDie set d (reports.getD d ⟨none, none⟩) q) p = q at *
  have hmem : q.mem = p.mem := (congrArg Pkg.mem hframe).trans rfl
  have hsame := refresh_frame (modBoot (fun b => { b with phase := 4 }) q)
  refine ⟨by rw [refresh_degraded]; rfl, ?_, ((congrArg Pkg.mem hsame.1).trans rfl).trans hmem, fun d hd => ?_⟩
  · rw [degradedNow_refresh, refresh_degraded]
    exact Bool.and_true _
  · exact (hdone d (List.mem_range.2 hd)).widen (.refl p)
      ((Emits.of_out (p := q) rfl).trans (refresh_emits (modBoot (fun b => { b with phase := 4 }) q))) (hsame.2 d)

end Sys2Proof.Machine
end

section
/-! PROOFS. Stacks that fail and groves that are fenced (R382, R517), for O55, O56 and O59. -/

namespace Sys2Proof.Machine

/-! ### Stacks -/

theorem bit_foldl_setBit (l : List Nat) (v k : Nat) : bit (l.foldl setBit v) k = (bit v k || decide (k ∈ l)) := by
  induction l generalizing v with
  | nil => simp
  | cons i l ih =>
    rw [List.foldl_cons, ih, bit_setBit]
    by_cases h : i = k
    · simp [h]
    · simp [h, Ne.symm h]

/-- Only the boot record's DEGRADED and what fails to do with it differ. -/
theorem refresh_spares (p : Pkg) : Spares { p with boot := (refresh p).boot } (refresh p) := by
  have h := raise_spares 384 { p with boot := { p.boot with degraded := degradedNow p && decide (4 ≤ p.boot.phase) } }
  rw [refresh_degraded]
  unfold refresh
  dsimp only
  split
  next heq =>
    rw [beq_iff_eq.1 heq]
    exact .refl p
  next =>
    split
    · exact h.trans (alert_spares alDegraded _)
    · exact h

/-- The record of start-up apart from DEGRADED. -/
def SameButDegraded (a b : Boot) : Prop := b = { a with degraded := b.degraded }

theorem refresh_boot (p : Pkg) : SameButDegraded p.boot (refresh p).boot := by
  rw [refresh_degraded]
  rfl

theorem refresh_mem (p : Pkg) : (refresh p).mem = p.mem := (congrArg Pkg.mem (refresh_frame p).1).trans rfl

theorem refresh_tasks (p : Pkg) : (refresh p).tasks = p.tasks := (congrArg Pkg.tasks (refresh_frame p).1).trans rfl

theorem refresh_integ (p : Pkg) : (refresh p).integ = p.integ := (congrArg Pkg.integ (refresh_frame p).1).trans rfl

theorem refresh_step (p : Pkg) : (refresh p).step = p.step := (congrArg Pkg.step (refresh_frame p).1).trans rfl

theorem refresh_pwr (p : Pkg) : (refresh p).pwr = p.pwr := (congrArg Pkg.pwr (refresh_frame p).1).trans rfl

/-- A stack that fails is marked, and the alerts stay. -/
theorem failStack_marks (k : Nat) (p : Pkg) :
    (failStack k p).mem = { p.mem with failed := (failStack k p).mem.failed } ∧
      (∀ j, bit (failStack k p).mem.failed j = (bit p.mem.failed j || decide (k = j))) ∧
      SameButDegraded p.boot (failStack k p).boot ∧ (failStack k p).pwr = p.pwr ∧
      ∀ b, bit p.mgt.alert b = true → bit (failStack k p).mgt.alert b = true := by
  cases hk : bit p.mem.failed k with
  | true =>
    rw [failStack, if_pos hk]
    refine ⟨rfl, fun j => ?_, rfl, rfl, fun _ h => h⟩
    by_cases h : k = j
    · simp [← h, hk]
    · simp [h]
  | false =>
    rw [failStack_of_sound hk]
    let q : Pkg := { p with mem := { p.mem with failed := setBit p.mem.failed k } }
    have hlog := log_spares 0x0202 stMem (0x0600 + k) [] q
    have hmem : (refresh (log 0x0202 stMem (0x0600 + k) [] q)).mem = q.mem := by rw [refresh_mem, log_mem]
    have hboot := refresh_boot (log 0x0202 stMem (0x0600 + k) [] q)
    have halert := (refresh_spares (log 0x0202 stMem (0x0600 + k) [] q)).alert
    rw [hmem, refresh_pwr, hlog.pwr]
    rw [hlog.boot] at hboot
    exact ⟨rfl, fun j => by rw [bit_setBit, Bool.or_comm], hboot, rfl, fun b hb => halert b (hlog.alert b hb)⟩

/-- Stacks that fail one after the other. -/
theorem foldl_failStack (l : List Nat) (p : Pkg) :
    let q := l.foldl (fun q k => failStack k q) p
    q.mem = { p.mem with failed := q.mem.failed } ∧ (∀ j, bit q.mem.failed j = (bit p.mem.failed j || decide (j ∈ l))) ∧
      SameButDegraded p.boot q.boot ∧ q.pwr = p.pwr := by
  induction l generalizing p with
  | nil => exact ⟨rfl, fun j => by simp, rfl, rfl⟩
  | cons k l ih =>
    obtain ⟨hmem1, hbits1, hboot1, hpwr1, -⟩ := failStack_marks k p
    obtain ⟨hmem, hbits, hboot, hpwr⟩ := ih (failStack k p)
    refine ⟨by rw [List.foldl_cons, hmem, hmem1], fun j => ?_, ?_, hpwr.trans hpwr1⟩
    · rw [List.foldl_cons, hbits, hbits1, Bool.or_assoc]
      congr 1
      by_cases h : k = j
      · simp [h]
      · simp [h, Ne.symm h]
    · unfold SameButDegraded at *
      rw [List.foldl_cons, hboot, hboot1]

/-! ### Groves (R517) -/

namespace Spares

theorem withBoot {p q : Pkg} (h : Spares p q) (b : Boot) : Spares { p with boot := b } { q with boot := b } :=
  { h with boot := rfl }

end Spares

/-- The package whose grove is marked as fenced. -/
def withFence (g : Nat) (byHost : Bool) (p : Pkg) : Pkg :=
  { p with integ := { p.integ with
    fenced := setBit p.integ.fenced g, byHost := if byHost then setBit p.integ.byHost g else p.integ.byHost } }

/-- The grove's work has failed, the log and DEGRADED follow. -/
def groveLost (set : Settings) (g : Nat) (p : Pkg) : Pkg :=
  refresh (log 0x0D01 stGroveFenced (0x0200 + g) [] (tearCommit stGroveFenced
    (failRuns set (fun r => groveOfUnit r.unit == some g) (fun _ => stGroveFenced) p)))

theorem fenceGrove_of_open {set : Settings} {g : Nat} {byHost : Bool} {p : Pkg} (h : bit p.integ.fenced g = false) :
    fenceGrove set g byHost p = if (groveLost set g (withFence g byHost p)).boot.degraded == p.boot.degraded then
      raise 384 (groveLost set g (withFence g byHost p)) else groveLost set g (withFence g byHost p) := by
  rw [fenceGrove, if_neg (by simp [h])]
  rfl

theorem groveLost_spares (set : Settings) (g : Nat) (p : Pkg) :
    Spares { p with boot := (groveLost set g p).boot } (groveLost set g p) ∧
      SameButDegraded p.boot (groveLost set g p).boot := by
  have hwork := ((failRuns_spares set (fun r => groveOfUnit r.unit == some g) (fun _ => stGroveFenced) p).trans
    (tearCommit_spares stGroveFenced _)).trans (log_spares 0x0D01 stGroveFenced (0x0200 + g) [] _)
  have hboot := refresh_boot (log 0x0D01 stGroveFenced (0x0200 + g) [] (tearCommit stGroveFenced
    (failRuns set (fun r => groveOfUnit r.unit == some g) (fun _ => stGroveFenced) p)))
  rw [hwork.boot] at hboot
  exact ⟨(hwork.withBoot _).trans (refresh_spares _), hboot⟩

/-- A grove is fenced: that mark and DEGRADED apart, what failing work spares stands. -/
theorem fenceGrove_spares (set : Settings) (g : Nat) (byHost : Bool) {p : Pkg} (h : bit p.integ.fenced g = false) :
    Spares { withFence g byHost p with boot := (fenceGrove set g byHost p).boot } (fenceGrove set g byHost p) ∧
      SameButDegraded p.boot (fenceGrove set g byHost p).boot := by
  obtain ⟨hspares, hboot⟩ := groveLost_spares set g (withFence g byHost p)
  rw [fenceGrove_of_open h]
  split
  · rw [raise_boot]
    exact ⟨hspares.trans (raise_spares 384 _), hboot⟩
  · exact ⟨hspares, hboot⟩

theorem failRuns_of_none {set : Settings} {f : Run → Bool} {status : Run → Nat} {p : Pkg} (h : ∀ r ∈ p.tasks.runs, f r = false) :
    failRuns set f status p = p := by
  rw [failRuns, List.filter_eq_nil_iff.2 fun r hr => by simp [h r hr]]
  rfl

/-- A grove on which nothing runs is fenced. -/
theorem fenceGrove_of_idle {set : Settings} {g : Nat} {byHost : Bool} {p : Pkg}
    (hidle : ∀ r ∈ p.tasks.runs, groveOfUnit r.unit ≠ some g) :
    (fenceGrove set g byHost p).mem = p.mem ∧ (fenceGrove set g byHost p).tasks = p.tasks ∧
      (fenceGrove set g byHost p).integ.detect = p.integ.detect ∧
      (fenceGrove set g byHost p).step.abortDue = p.step.abortDue := by
  cases h : bit p.integ.fenced g with
  | true =>
    rw [fenceGrove, if_pos h]
    exact ⟨rfl, rfl, rfl, rfl⟩
  | false =>
    have hruns := failRuns_of_none (set := set) (status := fun _ => stGroveFenced) (p := withFence g byHost p)
      (f := fun r => groveOfUnit r.unit == some g) fun r hr => by simpa using hidle r hr
    have htorn (q : Pkg) : (tearCommit stGroveFenced q).mem = q.mem ∧ (tearCommit stGroveFenced q).tasks = q.tasks ∧
        (tearCommit stGroveFenced q).integ = q.integ ∧ (tearCommit stGroveFenced q).step.abortDue = q.step.abortDue := by
      unfold tearCommit
      split <;> exact ⟨rfl, rfl, rfl, rfl⟩
    obtain ⟨hmem, htasks, hinteg, hdue⟩ := htorn (withFence g byHost p)
    have hlost : (groveLost set g (withFence g byHost p)).mem = p.mem ∧ (groveLost set g (withFence g byHost p)).tasks = p.tasks ∧
        (groveLost set g (withFence g byHost p)).integ.detect = p.integ.detect ∧
        (groveLost set g (withFence g byHost p)).step.abortDue = p.step.abortDue := by
      rw [groveLost, hruns, refresh_mem, refresh_tasks, refresh_integ, refresh_step, log_mem, log_tasks, log_integ, log_step,
        hmem, htasks, hinteg, hdue]
      exact ⟨rfl, rfl, rfl, rfl⟩
    rw [fenceGrove_of_open h]
    split
    · rw [raise_mem, raise_tasks, raise_integ, raise_step]
      exact hlost
    · exact hlost

end Sys2Proof.Machine
end

section
/-! PROOFS. Start-up and package reset (O56): the phases but the third. -/

namespace Sys2Proof.Machine

/-! ### Phase 1: the boot ROM (R553, R570) -/

theorem phase1_boots {s : State} (hoff : s.p.boot.off = false) (hphase : s.p.boot.phase = 1) (hcal : s.p.cal.stopFlag = false)
    (hup : s.p.mgt.restarting = false) :
    ∃ t : Pkg, exec (.phase1End true) s = .next { s with set := { s.set with lanes := s.set.nextPlan }, p := t } ∧
      t.boot = { s.p.boot with phase := 2, qualFails := 0 } ∧
      t.flash = { s.p.flash with bootCount := (s.p.flash.bootCount + 1) % 2 ^ 32 } ∧
      t.ft = { s.p.ft with
        priority := s.p.flash.ftPriority, parentMask := s.p.flash.ftMask, uncertLimit := s.p.flash.ftLimit } ∧
      t.mgt.nextSeq = s.p.mgt.nextSeq + 1 ∧
      SameIc { s.p with boot := t.boot, flash := t.flash, ft := t.ft, mgt := t.mgt } t := by
  let n := (s.p.flash.bootCount + 1) % 2 ^ 32
  let q : Pkg := { s.p with
    flash := { s.p.flash with bootCount := n }
    ft := { s.p.ft with
      priority := s.p.flash.ftPriority, parentMask := s.p.flash.ftMask, uncertLimit := s.p.flash.ftLimit } }
  have hin : inPhase s.p 1 = true := by simp [inPhase, hoff, hphase]
  have hrom : bootRom (latchFlash s).p = log 0x0C04 0 0xFFFF [d4 n] q := by
    unfold bootRom
    dsimp only
    rw [if_neg (by simp [latchFlash, hcal])]
    rfl
  have hexec : exec (.phase1End true) s = .next { s with
      set := { s.set with lanes := s.set.nextPlan }
      p := modBoot (fun b => { b with phase := 2, qualFails := 0 }) (log 0x0C04 0 0xFFFF [d4 n] q) } := by
    rw [← hrom]
    simp only [exec, execPhase1End, phase1, hin, Bool.not_true, Bool.false_eq_true, if_false, if_true]
    rfl
  have hframe := log_frame 0x0C04 0 0xFFFF [d4 n] q
  have hseq : (log 0x0C04 0 0xFFFF [d4 n] q).mgt.nextSeq = q.mgt.nextSeq + 1 := by
    unfold log logAt
    dsimp only
    rw [if_neg (by simp [q, hup])]
    exact (logPut_logged _ q).nextSeq
  refine ⟨_, hexec, ?_⟩
  generalize log 0x0C04 0 0xFFFF [d4 n] q = t at *
  obtain ⟨hrest, hdies⟩ := hframe
  have hboot : t.boot = s.p.boot := (congrArg Pkg.boot hrest).trans rfl
  exact ⟨by rw [← hboot]; rfl, (congrArg Pkg.flash hrest).trans rfl, (congrArg Pkg.ft hrest).trans rfl, hseq,
    ⟨by rw [hrest]; rfl, hdies⟩⟩

/-! ### Phase 4: the stacks (R555, R587) -/

theorem phase4_empties {s : State} (failed : List Nat) (hoff : s.p.boot.off = false) (hphase : s.p.boot.phase = 4) :
    ∃ t : State, exec (.phase4End failed) s = .next t ∧ t.p.boot.phase = 5 ∧ t.p.mem.cells = [] ∧ t.p.mem.bad = [] ∧
      (∀ k, k < 16 → (bit t.p.mem.trained k = true ↔ k ∉ failed)) ∧
      (∀ k, k < 16 → k ∈ failed → bit t.p.mem.failed k = true) ∧
      t.set = { s.set with envAct := envGiven s.set.env s.p.pwr } ∧ t.pending = s.pending := by
  let l := (List.range 16).filter failed.elem
  let trained := ((List.range 16).filter fun k => !l.elem k).foldl setBit 0
  let p : Pkg := { s.p with mem := { s.p.mem with cells := [], bad := [], trained := trained } }
  have hin : inPhase s.p 4 = true := by simp [inPhase, hoff, hphase]
  have hl (k : Nat) (hk : k < 16) : k ∈ l ↔ k ∈ failed := by simp [l, hk]
  have htrained (k : Nat) (hk : k < 16) : bit trained k = true ↔ k ∉ failed := by
    simp [trained, bit_foldl_setBit, bit_zero, hk, hl]
  obtain ⟨hmem, hbits, hboot, hpwr⟩ := foldl_failStack l p
  have hexec : exec (.phase4End failed) s = .next (setEnvAct (envGiven s.set.env s.p.pwr)
      { s with p := modBoot (fun b => { b with phase := 5 }) (l.foldl (fun q k => failStack k q) p) }) := by
    simp only [exec, execPhase4End, phase4, hin, Bool.not_true, Bool.false_eq_true, if_false]
    exact congrArg (fun w => Host.Outcome.next (setEnvAct (envGiven s.set.env w) _)) hpwr
  have hkept := setEnvAct_kept (envGiven s.set.env s.p.pwr)
    { s with p := modBoot (fun b => { b with phase := 5 }) (l.foldl (fun q k => failStack k q) p) }
  have hphase5 (e : Nat) (u : State) : (setEnvAct e u).p.boot = u.p.boot := by
    unfold setEnvAct
    dsimp only
    split <;> rfl
  refine ⟨_, hexec, ?_, ?_, ?_, fun k hk => ?_, fun k hk hin => ?_, rfl, rfl⟩
  · rw [hphase5]
    rfl
  all_goals
    rw [hkept.2.1]
    show _
  · exact (congrArg Mem.cells hmem).trans rfl
  · exact (congrArg Mem.bad hmem).trans rfl
  · rw [show (modBoot _ _).mem = _ from hmem]
    exact htrained k hk
  · rw [show bit (modBoot _ _).mem.failed k = _ from hbits k]
    simp [(hl k hk).2 hin]

/-! ### Phase 5: groves and ports (R390, R555) -/

/-- What a grove that fails its probe leaves. -/
structure GroveMarks (set : Settings) (x : Nat × Nat) (p q : Pkg) : Prop where
  boot : SameButDegraded p.boot q.boot
  ports : q.links.ports.length = p.links.ports.length
  fenced : ∀ g, bit p.integ.fenced g = true → bit q.integ.fenced g = true

theorem failGrove_marks (set : Settings) (x : Nat × Nat) (p : Pkg) :
    GroveMarks set x p (failGrove set x p) ∧ bit (failGrove set x p).integ.fenced x.1 = true ∧
      (p.tasks.runs = [] → (failGrove set x p).mem = p.mem ∧ (failGrove set x p).tasks = p.tasks) := by
  let q : Pkg := { p with integ := { p.integ with faults := modAt p.integ.faults (32 * x.1 + x.2) fun _ => 15 } }
  have hidle (h : p.tasks.runs = []) : (failGrove set x p).mem = p.mem ∧ (failGrove set x p).tasks = p.tasks := by
    have hone := fenceGrove_of_idle (set := set) (g := x.1) (byHost := false) (p := q) fun r hr => by
      rw [show q.tasks.runs = [] from h] at hr
      cases hr
    exact ⟨hone.1, hone.2.1⟩
  cases h : bit p.integ.fenced x.1 with
  | true =>
    have hsame : failGrove set x p = q := if_pos h
    rw [hsame] at hidle ⊢
    exact ⟨⟨rfl, rfl, fun _ hg => hg⟩, h, hidle⟩
  | false =>
    obtain ⟨hspares, hboot⟩ := fenceGrove_spares set x.1 false (p := q) h
    have hfenced : (fenceGrove set x.1 false q).integ.fenced = setBit p.integ.fenced x.1 := by rw [hspares.integ]; rfl
    refine ⟨⟨hboot, hspares.ports, fun g hg => ?_⟩, ?_, hidle⟩
    · show bit (fenceGrove set x.1 false q).integ.fenced g = true
      rw [hfenced, bit_setBit, hg, Bool.or_true]
    · show bit (fenceGrove set x.1 false q).integ.fenced x.1 = true
      rw [hfenced, bit_setBit, decide_eq_true rfl, Bool.true_or]

theorem foldl_failGrove (set : Settings) (l : List (Nat × Nat)) (p : Pkg) :
    let q := l.foldl (fun q x => failGrove set x q) p
    SameButDegraded p.boot q.boot ∧ q.links.ports.length = p.links.ports.length ∧
      (∀ g, (bit p.integ.fenced g = true ∨ ∃ x ∈ l, x.1 = g) → bit q.integ.fenced g = true) ∧
      (p.tasks.runs = [] → q.mem = p.mem) := by
  induction l generalizing p with
  | nil => exact ⟨rfl, rfl, fun g hg => hg.elim id fun ⟨_, h, _⟩ => (absurd h List.not_mem_nil), fun _ => rfl⟩
  | cons x l ih =>
    obtain ⟨⟨hboot1, hports1, hkeep1⟩, hfence1, hmem1⟩ := failGrove_marks set x p
    obtain ⟨hboot, hports, hfence, hmem⟩ := ih (failGrove set x p)
    refine ⟨?_, hports.trans hports1, fun g hg => hfence g ?_, fun hruns => ?_⟩
    · unfold SameButDegraded at *
      rw [List.foldl_cons, hboot, hboot1]
    · rcases hg with hg | ⟨y, hy, rfl⟩
      · exact .inl (hkeep1 g hg)
      · rcases List.mem_cons.1 hy with rfl | hy
        · exact .inl hfence1
        · exact .inr ⟨y, hy, rfl⟩
    · obtain ⟨hm, ht⟩ := hmem1 hruns
      exact (hmem (by rw [ht]; exact hruns)).trans hm

/-- A port begins to train. -/
def startPort (i : Nat) (p : Pkg) : Pkg := setPortState i .training (modPort i (fun x => { x with phase := .detect, reason := 0 }) p)

theorem startPort_frame (i : Nat) (p : Pkg) : LinksOnly p (startPort i p) := (modPort_frame i _ p).trans (setPortState_frame i _ _)

theorem startPort_length (i : Nat) (p : Pkg) : (startPort i p).links.ports.length = p.links.ports.length := by
  unfold startPort setPortState
  split
  · exact modPort_length ..
  · rw [raise_links, modPort_length, modPort_length]

/-- A port that trains is at its first phase. -/
def Trains (p : Pkg) (i : Nat) : Prop := (portOf p i).state = .training ∧ (portOf p i).phase = .detect

theorem startPort_trains_self {i : Nat} {p : Pkg} (hi : i < p.links.ports.length) : Trains (startPort i p) i := by
  rw [Trains, startPort, portOf_setPortState_self (by rw [modPort_length]; exact hi), portOf_modPort_self hi]
  exact ⟨rfl, rfl⟩

theorem startPort_trains {i j : Nat} {p : Pkg} (hj : j < p.links.ports.length) (h : Trains p j) : Trains (startPort i p) j := by
  by_cases hij : j = i
  · exact hij ▸ startPort_trains_self hj
  · rw [Trains, startPort, portOf_setPortState_ne hij, portOf_modPort_ne hij]
    exact h

theorem foldl_startPort (l : List Nat) (p : Pkg) :
    let q := l.foldl (fun q i => startPort i q) p
    LinksOnly p q ∧ ∀ i, i < p.links.ports.length → (Trains p i ∨ i ∈ l) → Trains q i := by
  induction l generalizing p with
  | nil => exact ⟨.refl p, fun i _ h => h.elim id fun h => absurd h List.not_mem_nil⟩
  | cons k l ih =>
    obtain ⟨hframe, htrains⟩ := ih (startPort k p)
    refine ⟨(startPort_frame k p).trans hframe, fun i hi h => htrains i (by rw [startPort_length]; exact hi) ?_⟩
    rcases h with h | h
    · exact .inl (startPort_trains hi h)
    · rcases List.mem_cons.1 h with rfl | h
      · exact .inl (startPort_trains_self hi)
      · exact .inr h

theorem phase5_fences {s : State} (failed : List (Nat × Nat)) (hoff : s.p.boot.off = false) (hphase : s.p.boot.phase = 5) :
    ∃ t : Pkg, exec (.phase5End failed) s = .next { s with p := t } ∧ t.boot.phase = 6 ∧
      (∀ x ∈ failed, x.1 < 16 → x.2 < 32 → bit t.integ.fenced x.1 = true) ∧
      (∀ i, i < portCount s.set.lanes → i < s.p.links.ports.length → Trains t i) ∧
      (s.p.tasks.runs = [] → t.mem = s.p.mem) := by
  let l := failed.filter fun x => x.1 < 16 && x.2 < 32
  let p := l.foldl (fun q x => failGrove s.set x q) s.p
  have hin : inPhase s.p 5 = true := by simp [inPhase, hoff, hphase]
  have hexec : phase5 failed s.set s.p = (List.range (portCount s.set.lanes)).foldl (fun q i => startPort i q)
      (modBoot (fun b => { b with phase := 6 }) p) := by
    rw [phase5, hin]
    rfl
  obtain ⟨-, hports, hfence, hmem⟩ := foldl_failGrove s.set l s.p
  obtain ⟨hframe, htrains⟩ := foldl_startPort (List.range (portCount s.set.lanes)) (modBoot (fun b => { b with phase := 6 }) p)
  refine ⟨_, onP_of_eq (f := phase5 failed) hexec, ?_, fun x hx h1 h2 => ?_, fun i hi hlen => htrains i ?_ (.inr ?_), fun hruns => ?_⟩
  · rw [hframe.1]
    rfl
  · rw [hframe.1]
    exact hfence x.1 (.inr ⟨x, by simp [l, hx, h1, h2], rfl⟩)
  · exact hports.symm ▸ hlen
  · exact List.mem_range.2 hi
  · rw [hframe.1]
    exact hmem hruns

/-- Settles O56: each phase is the lemma of its outcome, and a package reset keeps what stands outside it. -/
theorem startUp : Obligations.StartUp := by
  unfold Obligations.StartUp
  intro s
  refine ⟨fun hoff => ?_, fun hoff hfails hstop => ?_, fun hoff => ⟨fun hphase => ?_, fun hphase hcal hup =>
    phase1_boots hoff hphase hcal hup, fun hphase => ?_, fun hphase hrec => ⟨fun i hi hvalid => ?_, fun hnone => ?_⟩,
    fun reports hphase hlen => ?_, fun failed hphase => phase4_empties failed hoff hphase,
    fun failed hphase => phase5_fences failed hoff hphase, fun hphase hports => ?_, fun hphase => ?_, fun hphase hready => ?_,
    fun hdue hposted => ?_⟩⟩
  · show execPowerOn s = _
    refine onP_of_eq (f := fun _ p => powerOn p) ?_
    simp only [powerOn, hoff, Bool.not_true, Bool.false_eq_true, if_false]
  · show execQualificationRetry s = _
    refine onP_of_eq ?_
    rw [if_pos (by simp [hoff, hfails, hstop])]
    rfl
  · show execQualificationEnd s = _
    refine onP_of_eq ?_
    rw [if_pos (by simp [inPhase, hoff, hphase])]
    rfl
  · have hin : inPhase s.p 1 = true := by simp [inPhase, hoff, hphase]
    simp only [exec, execPhase1End, phase1, hin, Bool.not_true, Bool.false_eq_true, if_false]
    rfl
  · have hin : inPhase s.p 2 = true := by simp [inPhase, hoff, hphase]
    refine onP_of_eq (f := fun _ p => phase2 p) ?_
    rw [phase2, if_neg (by simp [hin, hrec])]
    simp only [hi, hvalid, if_true]
    rfl
  · have hin : inPhase s.p 2 = true := by simp [inPhase, hoff, hphase]
    refine onP_of_eq (f := fun _ p => phase2 p) ?_
    cases hi : s.p.flash.image with
    | none =>
      rw [phase2, if_neg (by simp [hin, hrec])]
      simp only [hi]
      rfl
    | some i =>
      rw [phase2, if_neg (by simp [hin, hrec])]
      simp only [hi, hnone i hi, Bool.false_eq_true, if_false]
      rfl
  · obtain ⟨h4, hdeg, hmem, hdone⟩ := phase3_releases s.set reports hoff hphase hlen
    exact ⟨_, onP_of_eq (f := phase3 reports) rfl, h4, hdeg, fun d hd => (hdone d hd).die, fun d hd =>
      ⟨(hdone d hd).cap, (hdone d hd).plan⟩, hmem⟩
  · refine ⟨beginListen s.set.serial (modBoot (fun b => { b with phase := 7 }) s.p), onP_of_eq (f := phase6) (if_pos ?_),
      rfl, rfl, rfl, rfl, rfl, rfl⟩
    have hall : (s.p.links.ports.all fun q => q.state == .up || q.state == .down) = true := by
      simpa using hports
    rw [hall, Bool.and_true]
    simp [inPhase, hoff, hphase]
  · show execPhase7End s = _
    refine onP_of_eq ?_
    rw [if_pos (by simp [inPhase, hoff, hphase])]
    rfl
  · show execReady s = _
    refine onP_of_eq ?_
    rw [ready, if_pos (by simp [inPhase, hoff, hphase, hready])]
  · have hexec : packageReset s = afterReset s := if_pos (by simp [hdue, hposted, hoff])
    exact ⟨afterReset s, congrArg Host.Outcome.next hexec, rfl, rfl, rfl, rfl, rfl, rfl, rfl, rfl, rfl, rfl, rfl, rfl, rfl, rfl,
      rfl⟩

end Sys2Proof.Machine
end

section
/-! PROOFS. Dies that are fenced (R430) and calls of the recovery ladder (R522 to R527), for O54, O55 and O59. -/

namespace Sys2Proof.Machine

/-! ### What waited on a die completes (R430) -/

theorem sendFlit_spares {d : Nat} {p : Pkg} (hup : (p.dies.getD d {}).state = .up) (g type flow tag dest : Nat) (data : List Byte) :
    Spares p (sendFlit d g type flow tag dest data p) :=
  .of_ic (sendFlit_frame ..) (.of_reaches (sendFlit_reaches ..) hup)

theorem respond_spares (d g tag status : Nat) (data : List Byte) (p : Pkg) : Spares p (respond d g tag status data p) := by
  unfold respond
  dsimp only
  by_cases hup : (p.dies.getD d {}).state = .up
  · rw [if_neg (by rw [hup]; decide)]
    have hone := sendFlit_spares hup g 3 1 0 0 (leBytes 2 tag ++ leBytes 1 status)
    split
    · exact hone
    · exact hone.trans (sendFlit_spares (by rw [(hone.die d).1]; exact hup) ..)
  · rw [if_pos (by simpa using hup)]
    exact .refl p

theorem completeWait_spares (w : WdiWait) (status : Nat) (p : Pkg) : Spares p (completeWait w status p) := by
  unfold completeWait
  split
  · exact respond_spares ..
  · exact .refl p

theorem endWaiting_spares (d : Nat) (p : Pkg) : Spares (modDie d (fun x => { x with waiting := [] }) p) (endWaiting d p) :=
  .foldl (fun q w => completeWait_spares w _ q) _ _

/-! ### A die's state (R433, R457) -/

theorem die_modDie (d e : Nat) (f : Die → Die) (p : Pkg) :
    (modDie d f p).dies.getD e {} = if d = e ∧ e < p.dies.length then f (p.dies.getD e {}) else p.dies.getD e {} := by
  rw [modDie_dies, modAt_getD]

namespace Spares

/-- The same change of a die that is not UP. -/
theorem modDie_down {p q : Pkg} (h : Spares p q) {d : Nat} (hdown : (p.dies.getD d {}).state ≠ .up) (f : Die → Die) :
    Spares (modDie d f p) (modDie d f q) :=
  { h with
    length := by rw [modDie_length, modDie_length, h.length]
    die := fun e => by
      rw [die_modDie, die_modDie, h.length]
      split
      next hc =>
        rw [← hc.1, (h.die d).2 hdown]
        exact ⟨rfl, fun _ => rfl⟩
      next => exact h.die e }

theorem withInteg {p q : Pkg} (h : Spares p q) (g : Integ) : Spares { p with integ := g } { q with integ := g } :=
  { h with integ := rfl }

theorem withPwr {p q : Pkg} (h : Spares p q) (w : Pwr) : Spares { p with pwr := w } { q with pwr := w } :=
  { h with pwr := rfl }

end Spares

theorem setDie_spares (d : Nat) (st : DieState) (reason : Nat) (p : Pkg) :
    Spares (modDie d (fun x => { x with state := st, reason := reason }) p) (setDie d st reason p) := by
  unfold setDie
  split
  next h =>
    have hsame : modDie d (fun x => { x with reason := reason }) p = modDie d (fun x => { x with state := st, reason := reason }) p :=
      modDie_congr (by rw [← beq_iff_eq.1 h])
    rw [hsame]
    exact .refl _
  next => exact raise_spares _ _

/-! ### A die is fenced (R201, R430) -/

/-- The package whose die is marked as fenced: nothing waits on it any more. -/
def withFencedDie (d reason : Nat) (p : Pkg) : Pkg :=
  modDie d (fun x => { x with state := .fenced, reason := reason, waiting := [] }) p

/-- The work of a die that was fenced has failed, and no core of it services anything. -/
def dieLost (set : Settings) (d reason : Nat) (p : Pkg) : Pkg :=
  failRuns set (fun r => onDie d r.unit) (fun _ => stDieFenced)
    (endServices (fun t => t < 16 && t / 4 == d) (endWaiting d (setDie d .fenced reason p)))

/-- A step that is OPEN or SEALING is to abort. -/
def stepDoomed (p : Pkg) : Pkg :=
  if stepLive p then modStep (fun s => { s with abortDue := true }) (failStep 7 stDieFenced p) else p

theorem fenceDie_of_up {set : Settings} {d reason : Nat} {p : Pkg} (hup : (p.dies.getD d {}).state = .up) :
    fenceDie set d reason p = refresh (log 0x0D03 stDieFenced (0x0400 + d) []
      (tearCommit stDieFenced (stepDoomed (dieLost set d reason p)))) := by
  rw [fenceDie, if_neg (by rw [hup]; decide)]
  rfl

theorem fenceDie_of_down {set : Settings} {d reason : Nat} {p : Pkg} (h : (p.dies.getD d {}).state ≠ .up) :
    fenceDie set d reason p = p := if_pos (by simpa using h)

theorem dieLost_spares (set : Settings) (d reason : Nat) (p : Pkg) : Spares (withFencedDie d reason p) (dieLost set d reason p) := by
  have hfenced := (setDie_spares d .fenced reason p).modDie_down (d := d) (by
    rw [die_modDie]
    split
    · exact DieState.noConfusion
    next h =>
      by_cases hd : d < p.dies.length
      · exact absurd ⟨rfl, hd⟩ h
      · rw [List.getD_eq_default _ _ (Nat.not_lt.1 hd)]
        exact DieState.noConfusion) fun x => { x with waiting := [] }
  rw [modDie_modDie] at hfenced
  have hservices (q : Pkg) : Spares q (endServices (fun t => t < 16 && t / 4 == d) q) := .of rfl
  exact ((hfenced.trans (endWaiting_spares d _)).trans (hservices _)).trans (failRuns_spares ..)

theorem stepDoomed_spares (p : Pkg) : Spares p (stepDoomed p) := by
  unfold stepDoomed
  split
  · exact (failStep_spares 7 stDieFenced p).trans (.of_step rfl rfl fun _ h => h)
  · exact .refl p

/-- A die is fenced: its marks and DEGRADED apart, what failing work spares stands. -/
theorem fenceDie_spares (set : Settings) {d : Nat} (reason : Nat) {p : Pkg} (hup : (p.dies.getD d {}).state = .up) :
    Spares { withFencedDie d reason p with boot := (fenceDie set d reason p).boot } (fenceDie set d reason p) ∧
      SameButDegraded p.boot (fenceDie set d reason p).boot := by
  rw [fenceDie_of_up hup]
  have hwork := (((dieLost_spares set d reason p).trans (stepDoomed_spares _)).trans (tearCommit_spares stDieFenced _)).trans
    (log_spares 0x0D03 stDieFenced (0x0400 + d) [] _)
  have hboot := refresh_boot (log 0x0D03 stDieFenced (0x0400 + d) []
    (tearCommit stDieFenced (stepDoomed (dieLost set d reason p))))
  rw [hwork.boot] at hboot
  exact ⟨(hwork.withBoot _).trans (refresh_spares _), hboot⟩

/-- The step that a fenced die ends is to abort, with bit 7 (R201). -/
theorem fenceDie_dooms (set : Settings) {d : Nat} (reason : Nat) {p : Pkg} (hup : (p.dies.getD d {}).state = .up)
    (hlive : stepLive p = true) :
    (fenceDie set d reason p).step.abortDue = true ∧ bit (fenceDie set d reason p).step.failMask 7 = true := by
  have hstate : (dieLost set d reason p).step.state = p.step.state := (dieLost_spares set d reason p).state
  have hstill : stepLive (dieLost set d reason p) = true := by
    rw [stepLive, hstate]
    exact hlive
  rw [fenceDie_of_up hup, refresh_step, log_step]
  generalize dieLost set d reason p = q at hstill
  have hdoomed : (stepDoomed q).step = { (failStep 7 stDieFenced q).step with abortDue := true } := by
    rw [stepDoomed, if_pos hstill]
    rfl
  have hnot : ((stepDoomed q).step.state == .committing) = false := by
    rw [hdoomed]
    show (q.step.state == .committing) = false
    simp only [stepLive, Bool.or_eq_true, beq_iff_eq] at hstill
    rcases hstill with h | h <;> rw [h] <;> rfl
  rw [tearCommit, hnot, if_neg Bool.false_ne_true, hdoomed]
  exact ⟨rfl, by simp [failStep, modStep, bit_setBit]⟩

/-! ### What ends a command (R235, R263) -/

theorem retrySlots_frame (p : Pkg) : SameButSlots p (retrySlots p) := by
  unfold retrySlots
  split
  · exact chooseSlots_frame p
  · rfl

/-- No abort is due: the host, memory and the instances stand. -/
theorem finish_settled (set : Settings) {p : Pkg} (h : p.step.abortDue = false) :
    (finish set p).mem = p.mem ∧ (finish set p).host = p.host ∧ (finish set p).tasks.insts = p.tasks.insts ∧
      (finish set p).integ = p.integ := by
  have hfinish : finish set p = resumeJ1 set (retrySlots p) := by
    rw [finish, h]
    rfl
  have hslots := retrySlots_frame p
  unfold SameButSlots at hslots
  rw [hfinish]
  refine ⟨(congrArg Pkg.mem hslots).trans rfl, (congrArg Pkg.host hslots).trans rfl, ?_, (congrArg Pkg.integ hslots).trans rfl⟩
  exact (congrArg (fun q => q.tasks.insts) hslots).trans rfl

/-- An abort that is due is under way once the command ends. -/
theorem finish_aborting (set : Settings) {p : Pkg} (h : p.step.abortDue = true) : (finish set p).step.aborting = true := by
  cases hrun : p.step.aborting with
  | false => rw [(finish_begun set h hrun).step]
  | true =>
    have hslots : retrySlots p = p := by simp [retrySlots, hrun]
    have hfinish : finish set p = resumeJ1 set p := by
      rw [finish, hrun, Bool.not_true, Bool.and_false, if_neg Bool.false_ne_true, hslots]
    rw [hfinish]
    exact hrun

/-! ### Calls of the ladder (R522 to R524) -/

/-- The episode that a call begins. -/
def newEpisode (c : Call) (p : Pkg) : Episode :=
  { rung := c.rung, units := rungUnits c.rung c.unit, ctx := if c.rung == 1 then c.ctx else none
    hung := if c.hung then [c.unit] else [], collecting := true, recorded := p.integ.crash.state == 0, cause := c.cause
    firstUnit := c.unit, begun := now p, only3 := c.only3, asked := c.asked, release := c.release }

/-- The crash record that it begins, or the count of those lost (R528, R533). -/
def newCrash (c : Call) (p : Pkg) : Crash :=
  if p.integ.crash.state == 0 then
    { state := 1, episode := p.integ.episodes + 1, tDetect := now p, cause := c.cause, firstRung := c.rung
      lastRung := c.rung, unit := c.unit, step := p.step.num, stepState := stepStateReg p.step
      released := p.integ.crash.released }
  else { p.integ.crash with lost := satAdd 0xFFFF p.integ.crash.lost 1 }

/-- The integrity state of the package whose episode begins. -/
def withEpisode (c : Call) (p : Pkg) : Integ :=
  { p.integ with episodes := p.integ.episodes + 1, episode := some (newEpisode c p), crash := newCrash c p }

theorem callLadder_begins {c : Call} {p : Pkg} (h : p.integ.episode = none) :
    callLadder c p = raise 384 { p with integ := withEpisode c p } := by
  unfold callLadder
  rw [h]
  unfold beginEpisode withEpisode newCrash
  dsimp only
  split <;> rfl

/-- The entry of a rung in the crash record changes, if anything. -/
theorem closeRung_eq (result : Nat) (p : Pkg) : ∃ k : Crash, closeRung result p = { p with integ := { p.integ with crash := k } } := by
  unfold closeRung
  split
  · split
    · exact ⟨_, rfl⟩
    · exact ⟨p.integ.crash, rfl⟩
  · exact ⟨p.integ.crash, rfl⟩

theorem moveRung_of_episode {e : Episode} {p : Pkg} (h : p.integ.episode = some e) (rung u : Nat) (ctx : Option Nat) (only3 : Bool) :
    moveRung rung u ctx only3 p = raise 384 { p with integ := { p.integ with episode := some { e with
      rung, units := rungUnits rung u, ctx := if rung == 1 then ctx else none, collecting := true, only3 } } } := by
  unfold moveRung
  rw [h]
  rfl

/-- The running episode with what a call adds to it. -/
def joined (c : Call) (e : Episode) : Episode :=
  { e with
    hung := if c.hung then e.hung ++ [c.unit] else e.hung, asked := e.asked ++ c.asked, release := e.release ++ c.release }

theorem callLadder_joins {c : Call} {e : Episode} {p : Pkg} (he : p.integ.episode = some e) :
    callLadder c p =
      if c.rung ≤ (joined c e).rung && inScope (joined c e) c.unit then setEpisode (some (joined c e)) p
      else if c.rung ≤ (joined c e).rung then
        setEpisode (some { joined c e with due := (joined c e).due ++ [(c.rung, c.unit, c.ctx, c.only3)] }) p
      else moveRung c.rung c.unit c.ctx c.only3 (setEpisode (some { joined c e with
        due := (joined c e).due ++ ((joined c e).units.filter fun u => !(rungUnits c.rung c.unit).any fun v => covers v u).map
          fun u => ((joined c e).rung, u, (joined c e).ctx, (joined c e).only3) }) (closeRung 0 p)) := by
  rw [callLadder, he]
  rfl

/-- `q` is `p` but for the episode, the count of episodes and the crash record; an event may tell of it. -/
def LadderOnly (p q : Pkg) : Prop :=
  ∃ g : Integ, g = { p.integ with episodes := g.episodes, episode := g.episode, crash := g.crash } ∧
    (q = { p with integ := g } ∨ q = raise 384 { p with integ := g })

theorem callLadder_ladderOnly (c : Call) (p : Pkg) : LadderOnly p (callLadder c p) := by
  cases he : p.integ.episode with
  | none => exact ⟨withEpisode c p, rfl, .inr (callLadder_begins he)⟩
  | some e =>
    rw [callLadder_joins he]
    split
    · exact ⟨_, rfl, .inl rfl⟩
    · split
      · exact ⟨_, rfl, .inl rfl⟩
      · obtain ⟨k, hk⟩ := closeRung_eq 0 p
        rw [hk, moveRung_of_episode rfl]
        exact ⟨_, rfl, .inr rfl⟩

namespace LadderOnly

variable {p q : Pkg} (h : LadderOnly p q)
include h

theorem spares : Spares { p with integ := q.integ } q := by
  obtain ⟨g, hg, rfl | rfl⟩ := h
  · exact .refl _
  · rw [raise_integ]
    exact raise_spares 384 _

theorem mem : q.mem = p.mem := by
  obtain ⟨g, -, rfl | rfl⟩ := h
  · rfl
  · rw [raise_mem]

theorem step : q.step = p.step := by
  obtain ⟨g, -, rfl | rfl⟩ := h
  · rfl
  · rw [raise_step]

theorem host : q.host = p.host := by
  obtain ⟨g, -, rfl | rfl⟩ := h
  · rfl
  · rw [raise_host]

theorem tasks : q.tasks = p.tasks := by
  obtain ⟨g, -, rfl | rfl⟩ := h
  · rfl
  · rw [raise_tasks]

theorem integ : q.integ = { p.integ with episodes := q.integ.episodes, episode := q.integ.episode, crash := q.integ.crash } := by
  obtain ⟨g, hg, rfl | rfl⟩ := h
  · exact hg
  · rw [raise_integ]
    exact hg

end LadderOnly

/-! ### A die is due its rung 3 (R527) -/

/-- The running episode gives a die its rung 3, now or later. -/
def Returns (p : Pkg) (d : Nat) : Prop :=
  ∃ e, p.integ.episode = some e ∧ (0x0400 + d ∈ e.units ∨ ∃ x ∈ e.due, x.2.1 = 0x0400 + d)

theorem covers_die {v d : Nat} (hd : d < 4) : covers v (0x0400 + d) = true ↔ v = 0x0400 + d := by
  have hgrove : groveOfUnit (0x0400 + d) = none := by
    rw [groveOfUnit, if_neg (by omega), if_neg (by omega)]
  simp [covers, hgrove]

theorem rungUnits_die {d : Nat} (hd : d < 4) : rungUnits 3 (0x0400 + d) = [0x0400 + d] := by
  have hdie : dieOfUnit (0x0400 + d) = some d := by
    rw [dieOfUnit, if_pos (by simp; omega), Nat.add_sub_cancel_left]
  simp [rungUnits, hdie]

/-- Rung 3 of a die is called for: the die is due it, and what was due stays so. -/
theorem callLadder_returns {c : Call} {d : Nat} (hd : d < 4) (hrung : c.rung = 3) (hunit : c.unit = 0x0400 + d) (p : Pkg) :
    Returns (callLadder c p) d ∧ ∀ j, j < 4 → Returns p j → Returns (callLadder c p) j := by
  cases he : p.integ.episode with
  | none =>
    rw [callLadder_begins he]
    refine ⟨⟨newEpisode c p, by rw [raise_integ]; rfl, .inl ?_⟩, fun j _ ⟨e, h, _⟩ => by rw [he] at h; cases h⟩
    simp [newEpisode, hrung, hunit, rungUnits_die hd]
  | some e =>
    have hold (j : Nat) (h : Returns p j) : 0x0400 + j ∈ e.units ∨ ∃ x ∈ e.due, x.2.1 = 0x0400 + j := by
      obtain ⟨f, hf, h⟩ := h
      rw [he] at hf
      cases hf
      exact h
    rw [callLadder_joins he]
    have hunits : (joined c e).units = e.units := rfl
    have hdues : (joined c e).due = e.due := rfl
    rw [← hunits, ← hdues] at hold
    generalize joined c e = f at hold
    split
    next hin =>
      have hscope : 0x0400 + d ∈ f.units := by
        obtain ⟨v, hv, hc⟩ := List.any_eq_true.1 (Bool.and_eq_true_iff.1 hin).2
        rw [hunit, covers_die hd] at hc
        exact hc ▸ hv
      exact ⟨⟨_, rfl, .inl hscope⟩, fun j _ h => ⟨_, rfl, hold j h⟩⟩
    next =>
      split
      next =>
        refine ⟨⟨_, rfl, .inr ⟨(c.rung, c.unit, c.ctx, c.only3), by simp, hunit⟩⟩, fun j _ h => ⟨_, rfl, (hold j h).imp id ?_⟩⟩
        rintro ⟨x, hx, hxj⟩
        exact ⟨x, List.mem_append_left _ hx, hxj⟩
      next =>
        obtain ⟨k, hk⟩ := closeRung_eq 0 p
        rw [hk, moveRung_of_episode rfl]
        refine ⟨⟨_, by rw [raise_integ], .inl (by simp [hrung, hunit, rungUnits_die hd])⟩, fun j hj h => ⟨_, by rw [raise_integ], ?_⟩⟩
        rcases hold j h with hin | ⟨x, hx, hxj⟩
        · by_cases hjd : j = d
          · exact .inl (by simp [hrung, hunit, rungUnits_die hd, hjd])
          · refine .inr ⟨(f.rung, 0x0400 + j, f.ctx, f.only3), List.mem_append_right _ (List.mem_map.2 ⟨0x0400 + j, ?_, rfl⟩), rfl⟩
            refine List.mem_filter.2 ⟨hin, ?_⟩
            rw [hrung, hunit, rungUnits_die hd, List.any_cons, List.any_nil, Bool.or_false, Bool.not_eq_true']
            rw [Bool.eq_false_iff, Ne, covers_die hj]
            omega
        · exact .inr ⟨x, List.mem_append_left _ hx, hxj⟩

end Sys2Proof.Machine
end

section
/-! PROOFS. Supply, trips and rails (O59). -/

namespace Sys2Proof.Machine

/-! ### Dies that a trip or the supply fences (R541, R550) -/

/-- What fencing some dies does to the others, and to the record of trips. -/
structure TripKeeps (p q : Pkg) : Prop where
  pwr : q.pwr = { p.pwr with tripFence := q.pwr.tripFence }
  bits : ∀ d, bit p.pwr.tripFence d = true → bit q.pwr.tripFence d = true
  alert : ∀ b, bit p.mgt.alert b = true → bit q.mgt.alert b = true
  length : q.dies.length = p.dies.length

theorem TripKeeps.refl (p : Pkg) : TripKeeps p p := ⟨rfl, fun _ h => h, fun _ h => h, rfl⟩

theorem TripKeeps.trans {p q r : Pkg} (h1 : TripKeeps p q) (h2 : TripKeeps q r) : TripKeeps p r :=
  ⟨by rw [h2.pwr, h1.pwr], fun d h => h2.bits d (h1.bits d h), fun b h => h2.alert b (h1.alert b h), h2.length.trans h1.length⟩

theorem Spares.tripKeeps {p q : Pkg} (h : Spares p q) : TripKeeps p q :=
  ⟨by rw [h.pwr], fun _ hd => by rwa [h.pwr], h.alert, h.length⟩

/-- The state of a die. -/
def stateOf (p : Pkg) (d : Nat) : DieState := (p.dies.getD d {}).state

theorem Spares.stateOf {p q : Pkg} (h : Spares p q) (d : Nat) : stateOf q d = stateOf p d := by
  rw [Machine.stateOf, (h.die d).1]
  rfl

/-- One die. -/
def tripOne (set : Settings) (p : Pkg) (d : Nat) : Pkg :=
  if (p.dies.getD d {}).state == .up || (rungResets p).elem d then
    fenceDie set d 0 (modPwr (fun w => { w with tripFence := setBit w.tripFence d }) p)
  else p

theorem tripOne_keeps (set : Settings) (p : Pkg) (d : Nat) :
    TripKeeps p (tripOne set p d) ∧ (∀ e, e ≠ d → stateOf (tripOne set p d) e = stateOf p e) ∧
      (stateOf p d ≠ .up → stateOf (tripOne set p d) d = stateOf p d) ∧
      (d < p.dies.length → stateOf p d = .up → stateOf (tripOne set p d) d = .fenced ∧ bit (tripOne set p d).pwr.tripFence d = true) := by
  let q := modPwr (fun w => { w with tripFence := setBit w.tripFence d }) p
  have hmark : TripKeeps p q := ⟨rfl, fun e he => by simp [q, modPwr, bit_setBit, he], fun _ h => h, rfl⟩
  by_cases hup : (p.dies.getD d {}).state = .up
  · have hone : tripOne set p d = fenceDie set d 0 q := if_pos (by rw [hup]; rfl)
    have h := (fenceDie_spares set (d := d) 0 (p := q) hup).1
    rw [hone]
    refine ⟨hmark.trans ⟨by rw [h.pwr]; rfl, fun e he => by rw [h.pwr]; exact he, fun b hb => h.alert b hb, ?_⟩, fun e he => ?_,
      fun hne => absurd hup hne, fun hd _ => ⟨?_, ?_⟩⟩
    · rw [h.length]
      exact modDie_length ..
    · have hsame := h.stateOf e
      rw [hsame]
      unfold stateOf withFencedDie
      rw [die_modDie_ne he.symm]
      rfl
    · have hsame := h.stateOf d
      rw [hsame]
      unfold stateOf withFencedDie
      rw [die_modDie_self (by exact hd)]
    · rw [h.pwr]
      show bit (setBit p.pwr.tripFence d) d = true
      simp [bit_setBit]
  · have hone : tripOne set p d = q ∨ tripOne set p d = p := by
      unfold tripOne
      split
      · exact .inl (fenceDie_of_down hup)
      · exact .inr rfl
    have hkeeps : TripKeeps p (tripOne set p d) ∧ (tripOne set p d).dies = p.dies := by
      rcases hone with h | h <;> rw [h]
      · exact ⟨hmark, rfl⟩
      · exact ⟨.refl p, rfl⟩
    have hdies (e : Nat) : stateOf (tripOne set p d) e = stateOf p e := by rw [stateOf, hkeeps.2, stateOf]
    exact ⟨hkeeps.1, fun e _ => hdies e, fun _ => hdies d, fun _ h => absurd h hup⟩

theorem tripFence_fences (set : Settings) (l : List Nat) (p : Pkg) (hlt : ∀ d ∈ l, d < p.dies.length) :
    TripKeeps p (tripFence set l p) ∧ (∀ e, stateOf p e ≠ .up → stateOf (tripFence set l p) e = stateOf p e) ∧
      (∀ e, e ∉ l → stateOf (tripFence set l p) e = stateOf p e) ∧
      ∀ d ∈ l, stateOf p d = .up → stateOf (tripFence set l p) d = .fenced ∧ bit (tripFence set l p).pwr.tripFence d = true := by
  induction l generalizing p with
  | nil => exact ⟨.refl p, fun _ _ => rfl, fun _ _ => rfl, fun _ h => absurd h List.not_mem_nil⟩
  | cons d l ih =>
    obtain ⟨hkeeps1, hothers1, hdown1, hup1⟩ := tripOne_keeps set p d
    obtain ⟨hkeeps, hdown, hothers, hup⟩ := ih (tripOne set p d) fun e he => by
      rw [hkeeps1.length]
      exact hlt e (List.mem_cons_of_mem d he)
    have hcons : tripFence set (d :: l) p = tripFence set l (tripOne set p d) := rfl
    rw [hcons]
    refine ⟨hkeeps1.trans hkeeps, fun e he => ?_, fun e he => ?_, fun e he hstate => ?_⟩
    · have hone : stateOf (tripOne set p d) e = stateOf p e := by
        by_cases hed : e = d
        · exact hed ▸ hdown1 (hed ▸ he)
        · exact hothers1 e hed
      exact (hdown e (hone ▸ he)).trans hone
    · obtain ⟨hne, hel⟩ := not_or.1 fun h => he (List.mem_cons.2 h)
      exact (hothers e hel).trans (hothers1 e hne)
    · by_cases hed : e = d
      · subst hed
        obtain ⟨hfenced, hbit⟩ := hup1 (hlt e List.mem_cons_self) hstate
        exact ⟨(hdown e (by rw [hfenced]; exact DieState.noConfusion)).trans hfenced, hkeeps.bits e hbit⟩
      · exact hup e ((List.mem_cons.1 he).resolve_left hed) ((hothers1 e hed).trans hstate)

/-- The command that fences them ends. -/
theorem finish_trip (set : Settings) {l : List Nat} {p : Pkg} (hlt : ∀ d ∈ l, d < p.dies.length) :
    TripKeeps p (finish set (tripFence set l p)) ∧ ∀ d ∈ l, stateOf p d = .up →
      stateOf (finish set (tripFence set l p)) d = .fenced ∧ bit (finish set (tripFence set l p)).pwr.tripFence d = true := by
  obtain ⟨hkeeps, -, -, hfence⟩ := tripFence_fences set l p hlt
  have hend := finish_spares set (tripFence set l p)
  refine ⟨hkeeps.trans hend.tripKeeps, fun d hd hup => ?_⟩
  obtain ⟨hfenced, hbit⟩ := hfence d hd hup
  exact ⟨(hend.stateOf d).trans hfenced, hend.tripKeeps.bits d hbit⟩

/-! ### Supply (R541) -/

theorem notice_spares (cause : Nat) (p : Pkg) : Spares p (notice cause p) :=
  ((alert_spares cause p).trans (log_spares ..)).trans (raise_spares 385 _)

/-- The record of a supply that leaves its window. -/
def badSupply (st : Supply) (vin : Nat) (w : Pwr) : Pwr :=
  { w with
    supply := st, vin := vin
    unders := if st == .under then satAdd 0xFF w.unders 1 else w.unders
    overs := if st == .over then satAdd 0xFF w.overs 1 else w.overs }

theorem supplyBad_fences {set : Settings} {p : Pkg} {st : Supply} (vin : Nat) (hnew : p.pwr.supply ≠ st) (hlen : p.dies.length = 4) :
    (supplyBad st vin set p).pwr = { badSupply st vin p.pwr with tripFence := (supplyBad st vin set p).pwr.tripFence } ∧
      bit (supplyBad st vin set p).mgt.alert alSupply = true ∧
      ∀ d, d < 4 → stateOf p d = .up →
        stateOf (supplyBad st vin set p) d = .fenced ∧ bit (supplyBad st vin set p).pwr.tripFence d = true := by
  let q := detect 7 (modPwr (badSupply st vin) p)
  have hexec : supplyBad st vin set p = finish set (tripFence set [0, 1, 2, 3] (notice alSupply q)) := by
    rw [supplyBad, if_neg (by simpa using hnew)]
    rfl
  have hnotice := notice_spares alSupply q
  have halert := bit_notice_alert alSupply q
  rw [hexec]
  generalize notice alSupply q = r at hnotice halert
  obtain ⟨hkeeps, hfence⟩ := finish_trip set (l := [0, 1, 2, 3]) (p := r) (by
    rw [hnotice.length]
    show ∀ d ∈ [0, 1, 2, 3], d < p.dies.length
    rw [hlen]
    decide)
  refine ⟨by rw [hkeeps.pwr, hnotice.pwr]; rfl, hkeeps.alert _ halert, fun d hd hup => hfence d ?_ ?_⟩
  · simp only [List.mem_cons, List.not_mem_nil, or_false]
    omega
  · rw [hnotice.stateOf]
    exact hup

/-! ### Dies that may return (R527, R542, R550, R568) -/

theorem mayReturn_congr {p q : Pkg} {d : Nat} (hstate : stateOf q d = stateOf p d) (hsupply : q.pwr.supply = p.pwr.supply)
    (hhost : q.pwr.hostOnly = p.pwr.hostOnly) (hrail : q.pwr.railOut = p.pwr.railOut)
    (htrip : q.pwr.trippedBy = p.pwr.trippedBy) : mayReturn q d = mayReturn p d := by
  have h : (q.dies.getD d {}).state = (p.dies.getD d {}).state := hstate
  rw [mayReturn, mayReturn, h, hsupply, hhost, hrail, htrip]

/-- A die that may return is due its rung 3; the rest of the package is told of it. -/
theorem returnDie_returns (cause : Nat) {d : Nat} (hd : d < 4) (p : Pkg) :
    LadderOnly p (returnDie cause d p) ∧ (mayReturn p d = true → Returns (returnDie cause d p) d) ∧
      ∀ j, j < 4 → Returns p j → Returns (returnDie cause d p) j := by
  unfold returnDie
  split
  next =>
    obtain ⟨hone, hold⟩ := callLadder_returns
      (c := { rung := 3, unit := 0x0400 + d, cause := cause, only3 := true }) hd rfl rfl p
    exact ⟨callLadder_ladderOnly _ p, fun _ => hone, hold⟩
  next h => exact ⟨⟨p.integ, rfl, .inl rfl⟩, fun hm => absurd hm h, fun _ _ hj => hj⟩

theorem LadderOnly.mayReturn {p q : Pkg} (h : LadderOnly p q) (d : Nat) : mayReturn q d = mayReturn p d := by
  have hs := h.spares
  exact mayReturn_congr (hs.stateOf d) (by rw [hs.pwr]) (by rw [hs.pwr]) (by rw [hs.pwr]) (by rw [hs.pwr])

/-- The package's ladder apart, `q` is as `p` after events. -/
structure OnlyCalls (p q : Pkg) : Prop where
  pwr : q.pwr = p.pwr
  mem : q.mem = p.mem
  step : q.step = p.step
  may : ∀ d, mayReturn q d = mayReturn p d

theorem LadderOnly.calls {p q : Pkg} (h : LadderOnly p q) : OnlyCalls p q := ⟨h.spares.pwr, h.mem, h.step, h.mayReturn⟩

theorem OnlyCalls.trans {p q r : Pkg} (h1 : OnlyCalls p q) (h2 : OnlyCalls q r) : OnlyCalls p r :=
  ⟨h2.pwr.trans h1.pwr, h2.mem.trans h1.mem, h2.step.trans h1.step, fun d => (h2.may d).trans (h1.may d)⟩

theorem foldl_returnDie (cause : Nat) (l : List Nat) (hl : ∀ d ∈ l, d < 4) (p : Pkg) :
    let q := l.foldl (fun q d => returnDie cause d q) p
    OnlyCalls p q ∧ ∀ d, d < 4 → ((d ∈ l ∧ mayReturn p d = true) ∨ Returns p d) → Returns q d := by
  induction l generalizing p with
  | nil => exact ⟨⟨rfl, rfl, rfl, fun _ => rfl⟩, fun d _ h => h.elim (fun h => absurd h.1 List.not_mem_nil) id⟩
  | cons k l ih =>
    obtain ⟨hone, hdue, hkept⟩ := returnDie_returns cause (hl k List.mem_cons_self) p
    obtain ⟨hcalls, hall⟩ := ih (fun d hd => hl d (List.mem_cons_of_mem k hd)) (returnDie cause k p)
    refine ⟨hone.calls.trans hcalls, fun d hd h => hall d hd ?_⟩
    rcases h with ⟨hin, hmay⟩ | h
    · rcases List.mem_cons.1 hin with rfl | hin
      · exact .inr (hdue hmay)
      · exact .inl ⟨hin, by rw [hone.mayReturn]; exact hmay⟩
    · exact .inr (hkept d hd h)

theorem finish_returns (set : Settings) {p : Pkg} {d : Nat} (h : Returns p d) : Returns (finish set p) d := by
  obtain ⟨e, he, hd⟩ := h
  exact ⟨e, by rw [(finish_spares set p).integ]; exact he, hd⟩

theorem supplyBack_returns {set : Settings} {p : Pkg} {v : Nat} (hoff : p.boot.off = false) (hbad : p.pwr.supply ≠ .normal)
    (hlow : 3350 ≤ v) (hhigh : v ≤ 3950) :
    (supplyBack v set p).pwr = { p.pwr with supply := .normal, vin := v } ∧
      (p.step.abortDue = false → (supplyBack v set p).mem = p.mem) ∧
      ∀ d, d < 4 → bit p.pwr.tripFence d = true →
        mayReturn { p with pwr := { p.pwr with supply := .normal } } d = true → Returns (supplyBack v set p) d := by
  let q := modPwr (fun w => { w with supply := .normal, vin := v }) p
  let l := (List.range 4).filter (bit (log 0x0C05 0 0xFFFF [] q).pwr.tripFence)
  have hexec : supplyBack v set p = finish set (l.foldl (fun q d => returnDie 7 d q) (log 0x0C05 0 0xFFFF [] q)) := by
    rw [supplyBack, if_neg (by simp [hoff, hbad]; omega)]
  have hlog := log_spares 0x0C05 0 0xFFFF [] q
  obtain ⟨hcalls, hall⟩ := foldl_returnDie 7 l (fun d hd => List.mem_range.1 (List.mem_of_mem_filter hd)) (log 0x0C05 0 0xFFFF [] q)
  rw [hexec]
  refine ⟨?_, fun hdue => ?_, fun d hd hbit hmay => finish_returns set (hall d hd (.inl ⟨?_, ?_⟩))⟩
  · rw [(finish_spares set _).pwr, hcalls.pwr, hlog.pwr]
    rfl
  · rw [(finish_settled set (by rw [hcalls.step, log_step]; exact hdue)).1, hcalls.mem, log_mem]
    rfl
  · refine List.mem_filter.2 ⟨List.mem_range.2 hd, ?_⟩
    rw [hlog.pwr]
    exact hbit
  · rw [← hmay]
    exact mayReturn_congr (hlog.stateOf d) (by rw [hlog.pwr]; rfl) (by rw [hlog.pwr]; rfl) (by rw [hlog.pwr]; rfl) (by rw [hlog.pwr]; rfl)

/-! ### Trips (R549, R550) -/

theorem tripDies_lt {i : Nat} (hi : i < 64) : ∀ d ∈ tripDies i, d < 4 := by
  intro d hd
  unfold tripDies at hd
  split at hd
  · rw [List.mem_singleton.1 hd]
    omega
  · simp only [List.mem_cons, List.not_mem_nil, or_false] at hd
    omega

theorem trip_fences {set : Settings} {p : Pkg} {i : Nat} (hi : i < 64) (hlen : p.dies.length = 4) :
    (trip i set p).pwr.trips = min 0xFF (p.pwr.trips + 1) ∧ (trip i set p).pwr.temps = p.pwr.temps ∧
      ∀ d ∈ tripDies i, (d, i) ∈ (trip i set p).pwr.trippedBy ∧
        (stateOf p d = .up → stateOf (trip i set p) d = .fenced ∧ bit (trip i set p).pwr.tripFence d = true) := by
  let q := detect 8 (modPwr (fun w => { w with
    trips := satAdd 0xFF w.trips 1
    hostOnly := ((tripDies i).filter (hostOnlyFrom p)).foldl setBit w.hostOnly
    trippedBy := ((tripDies i).map fun d => (d, i)).filter (fun x => !w.trippedBy.elem x) ++ w.trippedBy }) p)
  have hexec : trip i set p = finish set (tripFence set (tripDies i) (notice alThermal q)) := rfl
  have hnotice := notice_spares alThermal q
  rw [hexec]
  generalize notice alThermal q = r at hnotice
  obtain ⟨hkeeps, hfence⟩ := finish_trip set (l := tripDies i) (p := r) (by
    rw [hnotice.length]
    intro d hd
    exact hlen ▸ tripDies_lt hi d hd)
  have hpwr : (finish set (tripFence set (tripDies i) r)).pwr = { q.pwr with
      tripFence := (finish set (tripFence set (tripDies i) r)).pwr.tripFence } := by
    rw [hkeeps.pwr, hnotice.pwr]
  refine ⟨by rw [hpwr]; rfl, by rw [hpwr]; rfl, fun d hd => ⟨?_, fun hup => hfence d hd (by rw [hnotice.stateOf]; exact hup)⟩⟩
  rw [hpwr]
  show (d, i) ∈ ((tripDies i).map fun d => (d, i)).filter (fun x => !p.pwr.trippedBy.elem x) ++ p.pwr.trippedBy
  by_cases hold : (d, i) ∈ p.pwr.trippedBy
  · exact List.mem_append_right _ hold
  · refine List.mem_append_left _ (List.mem_filter.2 ⟨List.mem_map.2 ⟨d, hd, rfl⟩, ?_⟩)
    rw [Bool.not_eq_true']
    exact Bool.eq_false_iff.2 fun h => hold (List.elem_iff.1 h)

theorem tripRecovers_returns {set : Settings} {p : Pkg} {d : Nat} {ts : List Int} (hd : d < 4) (hlen : ts.length = 64)
    (htripped : ∃ x ∈ p.pwr.trippedBy, x.1 = d)
    (hcool : ∀ x ∈ p.pwr.trippedBy, x.1 = d → ∀ i ∈ sensorRow x.2, sensorValid p i = true → ts.getD i 0 ≤ releaseTemp i) :
    (tripRecovers d ts set p).pwr.temps = ts ∧ (p.step.abortDue = false → (tripRecovers d ts set p).mem = p.mem) ∧
      (tripRecovers d ts set p).pwr.trippedBy = p.pwr.trippedBy.filter (fun x => x.1 != d) ∧
      (stateOf p d = .fenced → p.pwr.supply = .normal → bit p.pwr.hostOnly d = false → bit p.pwr.railOut d = false →
        Returns (tripRecovers d ts set p) d) := by
  let q := modPwr (fun w => { w with trippedBy := w.trippedBy.filter fun x => x.1 != d }) (modPwr (fun w => { w with temps := ts }) p)
  obtain ⟨x, hx, hxd⟩ := htripped
  have hsome : ((setTemps ts p).pwr.trippedBy.filter fun x => x.1 == d).isEmpty = false := by
    rw [List.isEmpty_eq_false_iff]
    exact List.ne_nil_of_mem (List.mem_filter.2 ⟨hx, by simpa using hxd⟩)
  have hall : (((setTemps ts p).pwr.trippedBy.filter fun x => x.1 == d).all fun x => coolEnough (setTemps ts p) (sensorRow x.2)) =
      true := by
    rw [setTemps_of_all hlen, List.all_eq_true]
    intro y hy
    obtain ⟨hy, hyd⟩ := List.mem_filter.1 hy
    exact (coolEnough_iff _ _).2 fun i hi => hcool y hy (by simpa using hyd) i hi
  have hexec : tripRecovers d ts set p = finish set (returnDie 8 d q) := by
    unfold tripRecovers
    simp only [hsome, hall, Bool.not_true, Bool.or_self, Bool.false_eq_true, if_false]
    rw [setTemps_of_all hlen]
  obtain ⟨hone, hdue, -⟩ := returnDie_returns 8 hd q
  have hpwr : (finish set (returnDie 8 d q)).pwr = q.pwr := by rw [(finish_spares set _).pwr, hone.spares.pwr]
  rw [hexec, hpwr]
  refine ⟨rfl, fun habort => ?_, rfl, fun hstate hsupply hhost hrail => finish_returns set (hdue ?_)⟩
  · rw [(finish_settled set (by rw [hone.step]; exact habort)).1, hone.mem]
    rfl
  · have hgone : (q.pwr.trippedBy.all fun x => x.1 != d) = true :=
      List.all_eq_true.2 fun y hy => (List.mem_filter.1 hy).2
    have h : (q.dies.getD d {}).state = .fenced := hstate
    have hs : q.pwr.supply = .normal := hsupply
    have hh : bit q.pwr.hostOnly d = false := hhost
    have hr : bit q.pwr.railOut d = false := hrail
    rw [mayReturn, h, hs, hh, hr, hgone]
    rfl

/-! ### Rails (R568) -/

theorem railFault_die {s : State} {d : Nat} (hoff : s.p.boot.off = false) (hd : d < 4) (hlen : s.p.dies.length = 4) :
    ∃ t : Pkg, exec (.railFault (.die d)) s = .next { s with p := t } ∧ bit t.pwr.railOut d = true ∧
      bit t.mgt.alert alRail = true ∧ ((s.p.dies.getD d {}).state = .up → (t.dies.getD d {}).state = .fenced) := by
  let r := notice alRail (detect 7 s.p)
  let q := modPwr (fun w => { w with railOut := setBit w.railOut d }) r
  have hexec : exec (.railFault (.die d)) s = .next { s with p := finish s.set (fenceDie s.set d 0 q) } := by
    show Host.Outcome.next (railFault (.die d) s) = _
    rw [railFault, if_neg (by simp [hoff])]
    simp only [Nat.not_le.2 hd, if_false]
    rfl
  have hnotice := (detect_spares 7 s.p).trans (notice_spares alRail (detect 7 s.p))
  have halert : bit q.mgt.alert alRail = true := bit_notice_alert alRail (detect 7 s.p)
  have hbit : bit q.pwr.railOut d = true := by
    show bit (setBit r.pwr.railOut d) d = true
    simp [bit_setBit]
  have hstate : (q.dies.getD d {}).state = (s.p.dies.getD d {}).state := hnotice.stateOf d
  have hend := finish_spares s.set (fenceDie s.set d 0 q)
  refine ⟨_, hexec, ?_, ?_, fun hup => (hend.stateOf d).trans ?_⟩
  all_goals by_cases h : (q.dies.getD d {}).state = .up
  · rw [hend.pwr, (fenceDie_spares s.set 0 h).1.pwr]
    exact hbit
  · rw [hend.pwr, fenceDie_of_down h]
    exact hbit
  · exact hend.alert _ ((fenceDie_spares s.set 0 h).1.alert _ halert)
  · refine hend.alert _ ?_
    rw [fenceDie_of_down h]
    exact halert
  · refine ((fenceDie_spares s.set 0 h).1.stateOf d).trans ?_
    unfold stateOf withFencedDie
    exact congrArg Die.state (die_modDie_self (p := q) (d := d) (by
      show d < r.dies.length
      rw [hnotice.length, hlen]
      exact hd) _)
  · exact absurd (hstate.trans hup) h

theorem railBack_returns {set : Settings} {p : Pkg} {d : Nat} (hoff : p.boot.off = false) (hd : d < 4)
    (hout : bit p.pwr.railOut d = true) :
    bit (railBack d set p).pwr.railOut d = false ∧
      (mayReturn { p with pwr := { p.pwr with railOut := clearBit p.pwr.railOut d } } d = true → Returns (railBack d set p) d) := by
  let q := modPwr (fun w => { w with railOut := clearBit w.railOut d }) p
  have hexec : railBack d set p = finish set (returnDie 7 d q) := if_neg (by simp [hoff, hout])
  obtain ⟨hone, hdue, -⟩ := returnDie_returns 7 hd q
  have hpwr : (finish set (returnDie 7 d q)).pwr = q.pwr := by rw [(finish_spares set _).pwr, hone.spares.pwr]
  rw [hexec, hpwr]
  refine ⟨?_, fun hmay => finish_returns set (hdue hmay)⟩
  show bit (clearBit p.pwr.railOut d) d = false
  simp [bit_clearBit]

/-! ### The obligation -/

/-- The package has lost its power. -/
theorem powerLost_off (flag : Bool) (s : State) :
    (powerLost flag s).p.boot.off = true ∧ (powerLost flag s).p.mem.cells = [] ∧
      (powerLost flag s).p.flash = { s.p.flash with brownout := s.p.flash.brownout || flag } ∧
      (powerLost flag s).p.cal.secs = s.p.cal.secs ∧ (powerLost flag s).set.pend = none ∧
      (powerLost flag s).pending = s.pending := ⟨rfl, rfl, rfl, rfl, rfl, rfl⟩

/-- Settles O59: what fences dies, what stops the converters and what calls for rung 3, command by command. -/
theorem supplyTripsAndRails : Obligations.SupplyTripsAndRails := by
  unfold Obligations.SupplyTripsAndRails
  intro s hoff hlen
  have hwindow (st : Supply) (v : Nat) (h : s.p.boot.ready = true) :
      supplyLeaves st v s = { s with p := supplyBad st v s.set s.p } := by
    simp [supplyLeaves, hoff, h]
  have hlost (st : Supply) (v : Nat) (h : s.p.boot.ready = false) : supplyLeaves st v s = powerLost false s := by
    simp [supplyLeaves, hoff, h]
  refine ⟨fun v hlow hhigh hready hnew => ?_, fun v hlow hhigh hready hnew => ?_, fun v hlow hhigh hready => ?_,
    fun v hlow hhigh hready => ?_, fun v hout => ?_, fun v hbad hlow hhigh => ?_, fun i x hi hvalid hhot hbase => ?_,
    fun i x hlow hhigh hvalid hhot => ?_, fun d ts hd hts htripped hcool => ?_, ?_, fun k hk => ?_, fun d hd => railFault_die hoff hd hlen,
    fun d hd hout => ⟨_, onP_of_eq (f := railBack d) rfl, railBack_returns hoff hd hout⟩⟩
  · have hexec : exec (.supplyUnder v) s = .next { s with p := supplyBad .under v s.set s.p } := by
      rw [← hwindow .under v hready]
      exact congrArg Host.Outcome.next (if_pos (by simp [hlow, hhigh]))
    obtain ⟨hpwr, halert, hfence⟩ := supplyBad_fences (set := s.set) v hnew hlen
    exact ⟨_, hexec, by rw [hpwr]; rfl, by rw [hpwr]; rfl, by rw [hpwr]; rfl, halert, hfence⟩
  · have hexec : exec (.supplyOver v) s = .next { s with p := supplyBad .over v s.set s.p } := by
      rw [← hwindow .over v hready]
      exact congrArg Host.Outcome.next (if_pos (by simp [hlow, hhigh]))
    obtain ⟨hpwr, halert, hfence⟩ := supplyBad_fences (set := s.set) v hnew hlen
    exact ⟨_, hexec, by rw [hpwr]; rfl, by rw [hpwr]; rfl, by rw [hpwr]; rfl, halert, hfence⟩
  · refine ⟨powerLost false s, ?_, powerLost_off false s⟩
    rw [← hlost .under v hready]
    exact congrArg Host.Outcome.next (if_pos (by simp [hlow, hhigh]))
  · refine ⟨powerLost false s, ?_, powerLost_off false s⟩
    rw [← hlost .over v hready]
    exact congrArg Host.Outcome.next (if_pos (by simp [hlow, hhigh]))
  · refine ⟨powerLost true s, congrArg Host.Outcome.next (if_neg ?_), powerLost_off true s⟩
    simp only [hoff, Bool.false_and, Bool.false_or, Bool.and_eq_true, decide_eq_true_eq]
    omega
  · obtain ⟨hpwr, hmem, hreturns⟩ := supplyBack_returns (set := s.set) hoff hbad hlow hhigh
    exact ⟨_, onP_of_eq (f := supplyBack v) rfl, by rw [hpwr], by rw [hpwr], hmem, hreturns⟩
  · have hexec : thermalTrip i x s = { s with p := trip i s.set (setTemp i x s.p) } := by
      rw [thermalTrip, if_neg (by simp [hvalid]; omega), if_neg (by simpa [and_assoc] using hbase),
        if_neg (Int.not_le.2 hhot)]
    obtain ⟨htrips, htemps, hfence⟩ := trip_fences (set := s.set) (p := setTemp i x s.p) hi hlen
    exact ⟨_, congrArg Host.Outcome.next hexec, htrips, htemps, hfence⟩
  · refine ⟨powerLost true { s with p := setTemp i x s.p }, congrArg Host.Outcome.next ?_, powerLost_off true _⟩
    rw [thermalTrip, if_neg (by simp [hvalid]; omega), if_pos (by simp [hlow, hhigh, hhot])]
  · exact ⟨_, onP_of_eq (f := tripRecovers d ts) rfl, tripRecovers_returns hd hts htripped hcool⟩
  · refine ⟨powerLost true s, congrArg Host.Outcome.next ?_, powerLost_off true s⟩
    rw [railFault, if_neg (by simp [hoff])]
  · obtain ⟨hmem, hbits, -, -, halert⟩ := failStack_marks k (notice alRail (detect 7 s.p))
    have hexec : railFault (.stack k) s = { s with p := failStack k (notice alRail (detect 7 s.p)) } := by
      rw [railFault, if_neg (by simp [hoff])]
      exact if_neg (by omega)
    have hcells : (notice alRail (detect 7 s.p)).mem = s.p.mem := (congrArg Pkg.mem (notice_frame alRail (detect 7 s.p)).1).trans rfl
    refine ⟨_, congrArg Host.Outcome.next hexec, by rw [hbits]; simp, halert _ (bit_notice_alert alRail _), ?_⟩
    rw [hmem, hcells]

end Sys2Proof.Machine
end

section
/-! PROOFS. RESET_UNIT, the watchdogs and probes (O55). -/

namespace Sys2Proof.Machine

/-! ### A call of the ladder where none runs (R522, R528, R535) -/

section
variable {set : Settings} {c : Call} {p : Pkg} (hnone : p.integ.episode = none)
include hnone

/-- No abort is due and no commit waits: the call is all that happens. -/
theorem finish_callLadder (hdue : p.step.abortDue = false) (hheld : p.step.commitHeld = false) :
    finish set (callLadder c p) = resumeJ1 set (raise 384 { p with integ := withEpisode c p }) := by
  rw [callLadder_begins hnone, finish_quiet]
  · rw [raise_step]
    exact hdue
  · rw [raise_step]
    exact (congrArg (· && _) hheld).trans (Bool.false_and _)

end

theorem newCrash_of_empty {c : Call} {p : Pkg} (h : p.integ.crash.state = 0) :
    (newCrash c p).state = 1 ∧ (newCrash c p).cause = c.cause ∧ (newEpisode c p).recorded = true := by
  rw [newCrash, if_pos (by simp [h]), newEpisode]
  exact ⟨rfl, rfl, by simp [h]⟩

/-! ### RESET_UNIT (R535, R536, R576) -/

/-- The operand of a RESET_UNIT is in form. -/
structure ResetForm (b : List Byte) : Prop where
  length : 64 ≤ b.length
  zeros1 : zeros b 1 1 = true
  zeros4 : zeros b 4 60 = true
  unit : unitOk (le b 0 1) (le b 2 2) = true

section
variable {w : Who} {b : List Byte} {set : Settings} {p : Pkg} (hform : ResetForm b)
include hform

theorem resetUnit_of_package (hlevel : le b 0 1 = 5) :
    resetUnit w b set p = answer w stOk 0 0 { p with boot := { p.boot with resetDue := true } } := by
  obtain ⟨hlen, hz1, hz4, hunit⟩ := hform
  rw [hlevel] at hunit
  simp [resetUnit, hlevel, hz1, hz4, hunit, Nat.not_lt.2 hlen]

omit hform in
theorem resetUnit_of_mctp {via : Transport} (hw : w = .mctp via) (hlevel : le b 0 1 ≠ 5) :
    resetUnit w b set p = answer w stBadParam 0 0 p := by
  subst hw
  simp [resetUnit, hlevel]

variable (hfailed : p.boot.failed = false) (hw : ∀ via, w ≠ .mctp via)
include hfailed hw

/-- A request of the host below the level PACKAGE comes to its level. -/
theorem resetUnit_of_level (hlow : 1 ≤ le b 0 1) (hhigh : le b 0 1 ≤ 8) (hnot : le b 0 1 ≠ 5)
    (hopen : le b 0 1 = 7 → bit p.integ.fenced (le b 2 2) = true ∧ (p.dies.getD (le b 2 2 / 4) {}).state ≠ .fenced) :
    resetUnit w b set p =
      if le b 0 1 = 6 then answer w stOk 0 0 (finish set (fenceGrove set (le b 2 2) true p))
      else if le b 0 1 = 8 then answer w stOk 0 0 (clearFaults (le b 2 2) p)
      else finish set (callLadder {
        rung := if le b 0 1 = 7 then 2 else le b 0 1, unit := levelUnit (le b 0 1) (le b 2 2), cause := 0xFE
        asked := [(w, le b 0 1, le b 2 2)], release := if le b 0 1 = 7 then [le b 2 2] else [] } p) := by
  obtain ⟨hlen, hz1, hz4, hunit⟩ := hform
  have hstate : (le b 0 1 == 7 && (!bit p.integ.fenced (le b 2 2) || (p.dies.getD (le b 2 2 / 4) {}).state == .fenced)) = false := by
    by_cases h7 : le b 0 1 = 7
    · obtain ⟨hfence, hdie⟩ := hopen h7
      rw [hfence, beq_eq_false_iff_ne.2 hdie]
      simp
    · rw [beq_eq_false_iff_ne.2 h7, Bool.false_and]
  unfold resetUnit
  dsimp only
  rw [if_neg (by
    rw [hz1, hz4, hunit]
    cases w with
    | mctp via => exact absurd rfl (hw via)
    | nobody => simp; omega
    | queue q n => simp; omega), if_neg (by rw [hstate]; exact Bool.false_ne_true), hfailed,
    if_neg (by simp), if_neg (by simpa using hnot)]
  simp only [beq_iff_eq]

end

/-- The host's request for a rung where no episode runs: it begins one. -/
theorem resetUnit_begins {set : Settings} {p : Pkg} (c : Call) (hnone : p.integ.episode = none)
    (hdue : p.step.abortDue = false) (hheld : p.step.commitHeld = false) :
    let t := finish set (callLadder c p)
    t.integ.episode = some (newEpisode c p) ∧ t.integ.episodes = p.integ.episodes + 1 ∧ t.integ.crash = newCrash c p ∧
      t.mem = p.mem ∧ t.tasks.insts = p.tasks.insts ∧ t.host = p.host ∧ t.step = p.step := by
  rw [finish_callLadder hnone hdue hheld]
  have hinteg : (resumeJ1 set (raise 384 { p with integ := withEpisode c p })).integ = withEpisode c p := by
    show (raise 384 { p with integ := withEpisode c p }).integ = _
    rw [raise_integ]
  have hinsts : (resumeJ1 set (raise 384 { p with integ := withEpisode c p })).tasks.insts = p.tasks.insts := by
    rw [resumeJ1_insts, raise_tasks]
  have hhost : (resumeJ1 set (raise 384 { p with integ := withEpisode c p })).host = p.host := by
    show (raise 384 { p with integ := withEpisode c p }).host = _
    rw [raise_host]
  exact ⟨by rw [hinteg]; rfl, by rw [hinteg]; rfl, by rw [hinteg]; rfl, by rw [resumeJ1_mem, raise_mem], hinsts, hhost,
    by rw [resumeJ1_step, raise_step]⟩

/-- A grove that the host fences (R535). -/
theorem fenceGrove_byHost {set : Settings} {p : Pkg} {g : Nat} (h : bit p.integ.fenced g = false) (w : Who) :
    let t := answer w stOk 0 0 (finish set (fenceGrove set g true p))
    bit t.integ.fenced g = true ∧ bit t.integ.byHost g = true ∧ ∀ k, k ≠ g → bit t.integ.fenced k = bit p.integ.fenced k := by
  intro t
  have hall := (((fenceGrove_spares set g true h).1.trans (finish_spares set _)).trans (answer_spares w stOk 0 0 _)).integ
  have hfenced : t.integ.fenced = setBit p.integ.fenced g := by
    rw [show t.integ = _ from hall]
    rfl
  have hhost : t.integ.byHost = setBit p.integ.byHost g := by
    rw [show t.integ = _ from hall]
    rfl
  rw [hfenced, hhost]
  refine ⟨by simp [bit_setBit], by simp [bit_setBit], fun k hk => ?_⟩
  rw [bit_setBit, decide_eq_false hk.symm, Bool.false_or]

/-! ### Watchdogs (R518, R519, R522) -/

theorem noteAgain_eq (u : Nat) (p : Pkg) : ∃ k : Crash, noteAgain u p = { p with integ := { p.integ with crash := k } } := ⟨_, rfl⟩

/-- What a hang does to the step: bit 0 of work of the open step, and a commit is torn. -/
def stepHung (u ctx : Nat) (p : Pkg) : Pkg :=
  let q := if stepWork (detect 5 p) u ctx then failLive 0 stHung (detect 5 p) else detect 5 p
  if runsUpdate q u && (512 ≤ u || ctx == 0) then tearCommit stHung q else q

theorem tearCommit_frame (status : Nat) (p : Pkg) :
    tearCommit status p = { p with step := { p.step with tear := (tearCommit status p).step.tear } } := by
  unfold tearCommit
  split <;> rfl

theorem stepHung_frame (u ctx : Nat) {p : Pkg} (hseal : p.step.state ≠ .sealing) :
    ∃ st : Step, stepHung u ctx p = { detect 5 p with step := st } ∧ st.abortDue = p.step.abortDue ∧
      (p.step.state = .opened → stepWork p u ctx = true → bit st.failMask 0 = true) := by
  have hwork : stepWork (detect 5 p) u ctx = stepWork p u ctx := rfl
  have hmask : ∃ st : Step, (if stepWork (detect 5 p) u ctx then failLive 0 stHung (detect 5 p) else detect 5 p) =
      { detect 5 p with step := st } ∧ st.abortDue = p.step.abortDue ∧
      (p.step.state = .opened → stepWork p u ctx = true → bit st.failMask 0 = true) := by
    rw [hwork]
    split
    next hin =>
      rw [failLive]
      split
      next => exact ⟨_, rfl, by simp [detect, hseal], fun _ _ => by simp [bit_setBit]⟩
      next hlive => exact ⟨_, rfl, rfl, fun hopen => absurd (by simp [stepLive, detect, hopen]) hlive⟩
    next hout => exact ⟨_, rfl, rfl, fun _ h => absurd h hout⟩
  obtain ⟨st, hst, hdue, hbit⟩ := hmask
  unfold stepHung
  dsimp only
  rw [hst]
  split
  · rw [tearCommit_frame]
    exact ⟨_, rfl, hdue, hbit⟩
  · exact ⟨st, rfl, hdue, hbit⟩

/-- A unit that hangs for the first time calls for its first rung. -/
theorem declareHung_of_first {set : Settings} {u ctx : Nat} {p : Pkg} (hholds : holdsWork p u ctx = true)
    (hfailed : p.boot.failed = false) (hrec : p.integ.recovered = []) (hseal : p.step.state ≠ .sealing) :
    let rung := if 0x0200 ≤ u ∧ u < 0x0210 then 2 else 1
    declareHung u ctx set p = finish set (callLadder { rung, unit := u, ctx := if u < 512 then some ctx else none
                                                       hung := true, cause := 5 } (noteAgain u (stepHung u ctx p))) := by
  intro rung
  obtain ⟨st, hst, -, -⟩ := stepHung_frame u ctx (p := p) hseal
  have hrung : hangRung (stepHung u ctx p) u = rung := by
    have hnone : (stepHung u ctx p).integ.recovered = [] := by
      rw [hst]
      exact hrec
    rw [hangRung, hnone]
    simp [rung]
  have hle : rung ≤ 4 := by
    show (if 0x0200 ≤ u ∧ u < 0x0210 then 2 else 1) ≤ 4
    split <;> omega
  have hladder : declareHung u ctx set p = finish set (if hangRung (stepHung u ctx p) u ≤ 4 then
      callLadder { rung := hangRung (stepHung u ctx p) u, unit := u, ctx := if u < 512 then some ctx else none
                   hung := true, cause := 5 } (noteAgain u (stepHung u ctx p))
      else match dieOfUnit u with
        | some d => fenceDie set d 0 (noteAgain u (stepHung u ctx p))
        | none => failPackage (noteAgain u (stepHung u ctx p))) := by
    unfold declareHung
    rw [if_neg (by simp [hholds, hfailed])]
    rfl
  rw [hladder, hrung, if_pos hle]

theorem watchdog_begins {set : Settings} {u ctx : Nat} {p : Pkg} (hholds : holdsWork p u ctx = true)
    (hfailed : p.boot.failed = false) (hnone : p.integ.episode = none) (hrec : p.integ.recovered = [])
    (hdue : p.step.abortDue = false) (hseal : p.step.state ≠ .sealing) :
    let rung := if 0x0200 ≤ u ∧ u < 0x0210 then 2 else 1
    let t := declareHung u ctx set p
    ∃ e : Episode, t.integ.episode = some e ∧ e.rung = rung ∧ e.units = rungUnits rung u ∧ e.hung = [u] ∧ e.cause = 5 ∧
      e.collecting = true ∧ t.integ.detect = modAt p.integ.detect 5 (fun v => min 0xFFFFFFFF (v + 1)) ∧
      (p.step.state = .opened → stepWork p u ctx = true → bit t.step.failMask 0 = true) ∧ t.mem = p.mem := by
  intro rung t
  obtain ⟨st, hst, hdue', hbit⟩ := stepHung_frame u ctx hseal
  obtain ⟨k, hk⟩ := noteAgain_eq u (stepHung u ctx p)
  let c : Call := { rung, unit := u, ctx := if u < 512 then some ctx else none, hung := true, cause := 5 }
  have ht : t = finish set (callLadder c (noteAgain u (stepHung u ctx p))) := declareHung_of_first hholds hfailed hrec hseal
  let q : Pkg := { detect 5 p with step := st, integ := { (detect 5 p).integ with crash := k } }
  have hq : noteAgain u (stepHung u ctx p) = q := by
    rw [hk, hst]
  have hcalls : callLadder c q = raise 384 { q with integ := withEpisode c q } := callLadder_begins hnone
  have hqinteg : (callLadder c q).integ = withEpisode c q := by rw [hcalls, raise_integ]
  have hqstep : (callLadder c q).step = st := by rw [hcalls, raise_step]
  have hqmem : (callLadder c q).mem = p.mem := by rw [hcalls, raise_mem]; rfl
  rw [hq] at ht
  obtain ⟨hmem, -, -, hinteg⟩ := finish_settled set (p := callLadder c q) (by rw [hqstep, hdue', hdue])
  have hmask := (finish_spares set (callLadder c q)).mask 0
  rw [hqstep] at hmask
  have htinteg : t.integ = withEpisode c q := by rw [ht, hinteg, hqinteg]
  exact ⟨newEpisode c q, by rw [htinteg]; rfl, rfl, rfl, rfl, rfl, rfl, by rw [htinteg]; rfl, fun hopen hin => by
    rw [ht]
    exact hmask (hbit hopen hin), by rw [ht, hmem, hqmem]⟩

/-! ### Checker probes and fault counts (R505, R516) -/

/-- A probe that fails before its fault is counted. -/
def probeNoted (u : Nat) (p : Pkg) : Pkg :=
  failLive 1 stLedger (failLive 0 stLedger (log 0x0301 stLedger u []
    (detect 10 { p with integ := { p.integ with probeFails := satAdd 0xFFFF p.integ.probeFails 1 } })))

theorem failLive_step {p : Pkg} (hseal : p.step.state ≠ .sealing) (b status : Nat) :
    (failLive b status p).step.state = p.step.state ∧ (failLive b status p).step.abortDue = p.step.abortDue := by
  unfold failLive
  split
  · exact ⟨rfl, by simp [failStep, modStep, hseal]⟩
  · exact ⟨rfl, rfl⟩

theorem probeNoted_marks (u : Nat) {p : Pkg} (hseal : p.step.state ≠ .sealing) :
    (probeNoted u p).integ = { p.integ with
      probeFails := min 0xFFFF (p.integ.probeFails + 1)
      detect := modAt p.integ.detect 10 (fun v => min 0xFFFFFFFF (v + 1)) } ∧
      (probeNoted u p).mem = p.mem ∧ (probeNoted u p).tasks = p.tasks ∧
      (probeNoted u p).step.abortDue = p.step.abortDue ∧
      (p.step.state = .opened → bit (probeNoted u p).step.failMask 1 = true) := by
  let q := log 0x0301 stLedger u [] (detect 10 { p with integ := { p.integ with probeFails := satAdd 0xFFFF p.integ.probeFails 1 } })
  have hqstep : q.step = p.step := log_step ..
  have hinteg : q.integ = _ := log_integ ..
  have hmem : q.mem = _ := log_mem ..
  have htasks : q.tasks = _ := log_tasks ..
  obtain ⟨hstate0, hdue0⟩ := failLive_step (p := q) (by rw [hqstep]; exact hseal) 0 stLedger
  obtain ⟨-, hdue1⟩ := failLive_step (p := failLive 0 stLedger q) (by rw [hstate0, hqstep]; exact hseal) 1 stLedger
  have hnoted : probeNoted u p = failLive 1 stLedger (failLive 0 stLedger q) := rfl
  have hframe0 := failLive_frame 0 stLedger q
  have hframe1 := failLive_frame 1 stLedger (failLive 0 stLedger q)
  rw [hnoted]
  refine ⟨?_, ?_, ?_, by rw [hdue1, hdue0, hqstep], fun hopen => ?_⟩
  · rw [hframe1, hframe0]
    exact hinteg
  · rw [hframe1, hframe0]
    exact hmem
  · rw [hframe1, hframe0]
    exact htasks
  · have hlive : stepLive (failLive 0 stLedger q) = true := by
      rw [stepLive, hstate0, hqstep, hopen]
      rfl
    rw [failLive, if_pos hlive]
    simp [failStep, modStep, bit_setBit]

/-- A grove that is fenced, or was: its mark is set, and what failing work spares stands. -/
theorem fenceGrove_integ (set : Settings) (g : Nat) (p : Pkg) :
    (fenceGrove set g false p).integ = { p.integ with
      fenced := (fenceGrove set g false p).integ.fenced, detect := (fenceGrove set g false p).integ.detect } ∧
      bit (fenceGrove set g false p).integ.fenced g = true ∧
      ∀ b, bit p.step.failMask b = true → bit (fenceGrove set g false p).step.failMask b = true := by
  cases h : bit p.integ.fenced g with
  | true =>
    have hsame : fenceGrove set g false p = p := if_pos h
    rw [hsame]
    exact ⟨rfl, h, fun _ hb => hb⟩
  | false =>
    have hspares := (fenceGrove_spares set g false h).1
    refine ⟨by rw [hspares.integ]; rfl, ?_, hspares.mask⟩
    rw [hspares.integ]
    show bit (setBit p.integ.fenced g) g = true
    simp [bit_setBit]

/-- A core's fault is counted, and fences its grove at FENCE_AT (R516). -/
def withFault (u : Nat) (p : Pkg) : Pkg :=
  { p with integ := { p.integ with faults := modAt p.integ.faults u fun v => satAdd 15 v 1 } }

structure FaultCounted (u : Nat) (p q : Pkg) : Prop where
  integ : q.integ = { (withFault u p).integ with fenced := q.integ.fenced, detect := q.integ.detect }
  fence : 0 < q.integ.fenceAt → q.integ.fenceAt ≤ q.integ.faults.getD u 0 → bit q.integ.fenced (u / 32) = true
  mask : ∀ b, bit p.step.failMask b = true → bit q.step.failMask b = true
  idle : (∀ r ∈ p.tasks.runs, groveOfUnit r.unit ≠ some (u / 32)) →
    q.mem = p.mem ∧ q.integ.detect = p.integ.detect ∧ q.step.abortDue = p.step.abortDue

theorem countFault_counted (set : Settings) (u : Nat) (p : Pkg) : FaultCounted u p (countFault set u p) := by
  have hexec : countFault set u p = if p.integ.fenceAt != 0 && p.integ.fenceAt ≤ (withFault u p).integ.faults.getD u 0 then
      fenceGrove set (u / 32) false (withFault u p) else withFault u p := rfl
  rw [hexec]
  split
  next =>
    obtain ⟨hinteg, hbit, hmask⟩ := fenceGrove_integ set (u / 32) (withFault u p)
    refine ⟨hinteg, fun _ _ => hbit, hmask, fun hidle => ?_⟩
    obtain ⟨hmem, -, hdetect, hdue⟩ := fenceGrove_of_idle (set := set) (g := u / 32) (byHost := false) (p := withFault u p) hidle
    exact ⟨hmem, hdetect, hdue⟩
  next hno =>
    refine ⟨rfl, fun hpos hle => absurd ?_ hno, fun _ h => h, fun _ => ⟨rfl, rfl, rfl⟩⟩
    have hpos' : p.integ.fenceAt ≠ 0 := Nat.ne_of_gt hpos
    have hle' : p.integ.fenceAt ≤ (withFault u p).integ.faults.getD u 0 := hle
    rw [bne_iff_ne.2 hpos', decide_eq_true hle']
    rfl

theorem probe_counts {set : Settings} {u : Nat} {p : Pkg} (hu : u < 512) (hdue : p.step.abortDue = false)
    (hseal : p.step.state ≠ .sealing) :
    let t := finish set (probeFails set u p)
    t.integ.probeFails = min 0xFFFF (p.integ.probeFails + 1) ∧
      t.integ.faults = modAt p.integ.faults u (fun v => min 15 (v + 1)) ∧
      (0 < t.integ.fenceAt → t.integ.fenceAt ≤ t.integ.faults.getD u 0 → bit t.integ.fenced (u / 32) = true) ∧
      (p.step.state = .opened → bit t.step.failMask 1 = true) ∧
      ((∀ r ∈ p.tasks.runs, groveOfUnit r.unit ≠ some (u / 32)) →
        t.integ.detect = modAt p.integ.detect 10 (fun v => min 0xFFFFFFFF (v + 1)) ∧ t.mem = p.mem) := by
  intro t
  obtain ⟨hinteg, hmem, htasks, hdue', hbit⟩ := probeNoted_marks u hseal
  have hcounted := countFault_counted set u (probeNoted u p)
  have hexec : probeFails set u p = countFault set u (probeNoted u p) := if_pos hu
  have hend := finish_spares set (countFault set u (probeNoted u p))
  have ht : t = finish set (countFault set u (probeNoted u p)) := congrArg (finish set) hexec
  have hfault : (withFault u (probeNoted u p)).integ = { p.integ with
      probeFails := min 0xFFFF (p.integ.probeFails + 1), faults := modAt p.integ.faults u (fun v => min 15 (v + 1))
      detect := modAt p.integ.detect 10 (fun v => min 0xFFFFFFFF (v + 1)) } := by
    show ({ (probeNoted u p).integ with faults := _ } : Integ) = _
    rw [hinteg]
    rfl
  have htinteg : t.integ = { (countFault set u (probeNoted u p)).integ with detect := t.integ.detect } := by
    rw [ht]
    exact hend.integ
  refine ⟨?_, ?_, ?_, fun hopen => ?_, fun hidle => ?_⟩
  · rw [htinteg, hcounted.integ, hfault]
  · rw [htinteg, hcounted.integ, hfault]
  · rw [htinteg]
    exact hcounted.fence
  · rw [ht]
    exact hend.mask 1 (hcounted.mask 1 (hbit hopen))
  · obtain ⟨hm, hd, hab⟩ := hcounted.idle (by rw [htasks]; exact hidle)
    obtain ⟨htmem, -, -, hti⟩ := finish_settled set (p := countFault set u (probeNoted u p)) (by rw [hab, hdue', hdue])
    rw [ht, hti, htmem, hm, hd, hinteg, hmem]
    exact ⟨rfl, rfl⟩

end Sys2Proof.Machine
end

section
/-! PROOFS. The rungs, the crash record and the end of an episode (O55). -/

namespace Sys2Proof.Machine

theorem firstSome_some {α β : Type} {f : α → Option β} {l : List α} {b : β} (h : firstSome f l = some b) :
    ∃ a ∈ l, f a = some b := by
  induction l with
  | nil => cases h
  | cons a l ih =>
    cases ha : f a with
    | none =>
      rw [firstSome, ha, Option.none_or] at h
      obtain ⟨x, hx, hfx⟩ := ih h
      exact ⟨x, List.mem_cons_of_mem a hx, hfx⟩
    | some c =>
      rw [firstSome, ha, Option.some_or] at h
      exact ⟨a, List.mem_cons_self, ha.trans h⟩

/-! ### The crash record (R528 to R530) -/

theorem itemTimeout_notes {p : Pkg} {e : Episode} {kind index unit : Nat} (he : p.integ.episode = some e)
    (hcollect : e.collecting = true) (hrecord : e.recorded = true)
    (hdue : (itemsDue p e).find? (fun x => x.1 == kind && x.2.2 == index) = some (kind, unit, index))
    (hroom : alignUp (sectionUsed p.integ.crash.items (sectionOf kind unit)) 64 + 32 ≤ sectionRoom (sectionOf kind unit)) :
    itemTimeout kind index p = { p with integ := { p.integ with crash := { p.integ.crash with items := p.integ.crash.items ++
      [{ sect := sectionOf kind unit, kind, unit, status := 1, index, tRead := now p, data := [] }] } } } := by
  have hsize : ¬ (sectionRoom (sectionOf kind unit) <
      alignUp (sectionUsed p.integ.crash.items (sectionOf kind unit)) 64 +
        itemSize { sect := sectionOf kind unit, kind, unit, status := 1, index, tRead := now p, data := [] }) :=
    Nat.not_lt.2 hroom
  unfold itemTimeout
  rw [he]
  simp only [hcollect, hrecord, hdue, Bool.and_self, if_true, collectItem, addItem, modCrash, modInteg, hsize, if_false]

theorem rungBegins_of_collecting {set : Settings} {p : Pkg} {e : Episode} (he : p.integ.episode = some e)
    (hcollect : e.collecting = true) :
    rungBegins set p = runEngine set (finish set (beginReset set e (collectRest e p))) := by
  rw [rungBegins, he]
  exact if_pos hcollect

/-! ### A rung 1 or 2 on a package where nothing runs (R521) -/

/-- What a rung leaves of such a package: its memory, the host interface, the integrity state, and that nothing runs or waits. -/
def idleView (p : Pkg) : Mem × HostIf × Integ × List Coll × Reshard × Upd × List Waiting × Bool × List Run :=
  (p.mem, p.host, p.integ, p.colls.running, p.reshard, p.upd, p.step.opens, p.step.abortDue, p.tasks.runs)

/-- Nothing runs and nothing waits. -/
structure NothingRuns (p : Pkg) : Prop where
  runs : p.tasks.runs = []
  colls : p.colls.running = []
  round : p.reshard.round = none
  held : p.reshard.held = []
  waits : p.upd.waits = []
  opens : p.step.opens = []
  due : p.step.abortDue = false

theorem NothingRuns.congr {p q : Pkg} (h : NothingRuns p) (e : idleView q = idleView p) : NothingRuns q := by
  simp only [idleView, Prod.mk.injEq] at e
  obtain ⟨-, -, -, hcolls, hreshard, hupd, hopens, hdue, hruns⟩ := e
  exact ⟨hruns ▸ h.runs, hcolls ▸ h.colls, hreshard ▸ h.round, hreshard ▸ h.held, hupd ▸ h.waits, hopens ▸ h.opens, hdue ▸ h.due⟩

section
variable {p : Pkg} (h : NothingRuns p)
include h

theorem failRuns_of_nothing (set : Settings) (f : Run → Bool) (status : Run → Nat) : failRuns set f status p = p :=
  failRuns_of_none fun r hr => by
    rw [h.runs] at hr
    cases hr

omit h in
theorem clearStores_idle (e : Episode) : idleView (clearStores e p) = idleView p := rfl

theorem endEngines_idle (e : Episode) : idleView (endEngines e p) = idleView p := by
  have hround (st : Nat) : idleView (stopRound st p) = idleView p := by
    have hnone : (stopRound st p) = { p with links := (stopRound st p).links } := by
      simp only [stopRound, failRound, h.round]
    rw [hnone]
    rfl
  have htear (q : Pkg) : idleView (if endsUpdate e q then
      tearCommit (if e.hung.any (runsUpdate q) then stHung else stAborted) q else q) = idleView q := by
    split
    · rw [tearCommit_frame]
      rfl
    · rfl
  unfold endEngines
  refine (htear _).trans ?_
  split
  · exact hround _
  · rfl

theorem pruneColls_idle : idleView (pruneColls p) = idleView p := by
  have hsame : (pruneColls p).colls.running = p.colls.running := by
    rw [pruneColls, h.colls]
    rfl
  simp only [idleView, hsame]
  rfl

theorem resumeJ1_idle (set : Settings) : idleView (resumeJ1 set p) = idleView p := by
  have hsame : (resumeJ1 set p).tasks.runs = p.tasks.runs := by
    rw [resumeJ1, h.runs]
    rfl
  simp only [idleView, hsame]
  rfl

theorem finish_idle (set : Settings) : idleView (finish set p) = idleView p := by
  have hfinish : finish set p = resumeJ1 set (retrySlots p) := by
    rw [finish, h.due]
    rfl
  have hslots : idleView (retrySlots p) = idleView p := by
    have hframe := retrySlots_frame p
    unfold SameButSlots at hframe
    rw [hframe]
    rfl
  rw [hfinish, resumeJ1_idle (h.congr hslots), hslots]

/-! ### The engine moves stalled messages alone -/

theorem placeMessage_idle {set : Settings} {hd : CollHdr} {bs : List Byte} {q : Pkg} (hq : placeMessage set hd bs p = some q) :
    idleView q = idleView p := by
  unfold placeMessage at hq
  dsimp only at hq
  rw [h.colls, List.find?_nil] at hq
  generalize (if bit hd.flags 6 = true then none else some hd.step) = st at hq
  split at hq
  · cases hq
    rfl
  · split at hq
    · cases hq
      rfl
    · dsimp only at hq
      split at hq
      · cases hq
        rfl
      · cases hq

theorem nextStalled_idle {set : Settings} {q : Pkg} (hq : nextStalled set p = some q) : idleView q = idleView p := by
  obtain ⟨g, -, hg⟩ := firstSome_some hq
  split at hg
  · cases hg
  next m ms _ =>
    have hcongr : NothingRuns (modGroup g (fun x => { x with stalled := ms }) p) := h.congr rfl
    exact (placeMessage_idle hcongr hg).trans rfl

theorem engineAct_idle {set : Settings} {q : Pkg} (hq : engineAct set p = some q) : idleView q = idleView p := by
  rw [engineAct, nextWaiting_of_none h.colls, nextEarly_of_none h.colls] at hq
  dsimp only at hq
  rw [h.colls] at hq
  exact nextStalled_idle h (by simpa [firstSome] using hq)

end

theorem pump_idle (set : Settings) (n : Nat) {p : Pkg} (h : NothingRuns p) : idleView (pump set n p) = idleView p := by
  induction n generalizing p with
  | zero => rfl
  | succ n ih =>
    rw [pump]
    cases hq : engineAct set p with
    | none => rfl
    | some q =>
      have hone := engineAct_idle h hq
      exact (ih (h.congr hone)).trans hone

theorem atBoundary_idle (set : Settings) {p : Pkg} (h : NothingRuns p) : idleView (atBoundary set p) = idleView p := by
  cases hbusy : stepBusy p with
  | true =>
    rw [atBoundary, if_pos hbusy]
  | false => rw [atBoundary_of_nothing ⟨hbusy, h.opens, h.waits, h.held⟩]

theorem runEngine_idle (set : Settings) {p : Pkg} (h : NothingRuns p) : idleView (runEngine set p) = idleView p := by
  have hpump (n : Nat) := pump_idle set n h
  have hfinish (n : Nat) : idleView (releaseCredit (finish set (pump set n p))) = idleView p :=
    (finish_idle (h.congr (hpump n)) set).trans (hpump n)
  exact (atBoundary_idle set (h.congr (hfinish _))).trans (hfinish _)

/-- The reset of rung 1 or 2 begins: it is counted, and nothing else of the integrity state changes but the episode. -/
theorem rungBegins_idle {set : Settings} {p : Pkg} {e : Episode} (h : NothingRuns p) (he : p.integ.episode = some e)
    (hcollect : e.collecting = true) (hrecord : e.recorded = false) (hlow : 1 ≤ e.rung) (hhigh : e.rung ≤ 2) :
    let t := rungBegins set p
    t.integ.episode = some { e with collecting := false, begun := now p } ∧
      t.integ.rungs = modAt p.integ.rungs (e.rung - 1) (fun n => min 0xFF (n + 1)) ∧ t.mem = p.mem ∧ t.host = p.host := by
  intro t
  let e' : Episode := { e with collecting := false, begun := now p }
  let q : Pkg := { p with integ := { p.integ with
    episode := some e', rungs := modAt p.integ.rungs (e.rung - 1) fun n => satAdd 0xFF n 1 } }
  let q2 := endServices (fun t => t < 16 && inScope e' (0x0200 + t)) (raise 384 q)
  have hq2 : idleView q2 = idleView q := by
    have hraise : idleView (raise 384 q) = idleView q := by
      simp only [idleView, raise_mem, raise_host, raise_integ, raise_colls, raise_reshard, raise_upd, raise_step, raise_tasks]
    exact hraise
  have hq : NothingRuns q := ⟨h.runs, h.colls, h.round, h.held, h.waits, h.opens, h.due⟩
  have hnothing : NothingRuns q2 := hq.congr hq2
  have hreset : beginReset set e (collectRest e p) = pruneColls (fenceDies set e' (endAll set e' (endEngines e' (clearStores e' q2)))) := by
    have hrest : collectRest e p = p := by simp [collectRest, hrecord]
    rw [hrest]
    unfold beginReset
    dsimp only
    rw [if_neg (show ¬ e.recorded = true by rw [hrecord]; exact Bool.false_ne_true)]
    show pruneColls (fenceDies set e' (endAll set e' (endEngines e' (clearStores e' (failRuns set (rungEnds e')
      (fun r => rungStatus e' r.unit) q2))))) = _
    rw [failRuns_of_nothing hnothing]
  have hall (r : Pkg) : endAll set e' r = r ∧ fenceDies set e' r = r :=
    ⟨if_neg (by rw [show e'.rung = e.rung from rfl, beq_iff_eq]; omega), if_pos (by show e.rung < 3; omega)⟩
  have hview : idleView (endEngines e' (clearStores e' q2)) = idleView q2 :=
    endEngines_idle (hnothing.congr (clearStores_idle e')) e'
  rw [(hall _).2, (hall _).1] at hreset
  have hreset' : idleView (beginReset set e (collectRest e p)) = idleView q := by
    rw [hreset]
    exact ((pruneColls_idle (hnothing.congr hview)).trans hview).trans hq2
  have hnothing' : NothingRuns (beginReset set e (collectRest e p)) := hq.congr hreset'
  have hfinish := finish_idle hnothing' set
  have ht : idleView t = idleView q := by
    show idleView (rungBegins set p) = _
    rw [rungBegins_of_collecting he hcollect]
    exact ((runEngine_idle set (hnothing'.congr hfinish)).trans hfinish).trans hreset'
  simp only [idleView, Prod.mk.injEq] at ht
  obtain ⟨hmem, hhost, hinteg, -⟩ := ht
  exact ⟨by rw [hinteg], by rw [hinteg]; rfl, hmem, hhost⟩

/-! ### An episode ends (R522, R530) -/

/-- The crash record once the episode is over. -/
def recordClosed (e : Episode) (p : Pkg) : Crash :=
  let outcome := if p.boot.failed then 2 else if e.fenced then 1 else 0
  if e.recorded then { p.integ.crash with
    state := 2, tEnd := now p, outcome, lastRung := if outcome == 2 then 5 else p.integ.crash.lastRung } else p.integ.crash

theorem recordClosed_of_recorded {e : Episode} (h : e.recorded = true) (p : Pkg) :
    (recordClosed e p).state = 2 ∧ (recordClosed e p).tEnd = now p := by
  rw [recordClosed, if_pos h]
  exact ⟨rfl, rfl⟩

theorem endEpisode_ends {e : Episode} {p : Pkg} (he : p.integ.episode = some e) (hasked : e.asked = []) :
    (endEpisode p).integ = { p.integ with episode := none, crash := recordClosed e p } ∧ (endEpisode p).mem = p.mem ∧
      (endEpisode p).step = p.step ∧
      (endEpisode p).boot = { p.boot with degraded := degradedNow (endEpisode p) && decide (4 ≤ p.boot.phase) } := by
  let q : Pkg := { p with integ := { p.integ with episode := none, crash := recordClosed e p } }
  have hexec : endEpisode p = raise 384 (log 0x0D02 stOk e.firstUnit [] (refresh q)) := by
    unfold endEpisode
    rw [he]
    dsimp only
    rw [hasked, List.foldl_nil]
    cases hr : e.recorded with
    | false =>
      rw [if_neg Bool.false_ne_true]
      show _ = raise 384 (log 0x0D02 stOk e.firstUnit [] (refresh { p with integ := { p.integ with
        episode := none, crash := recordClosed e p } }))
      rw [show recordClosed e p = p.integ.crash from if_neg (by rw [hr]; exact Bool.false_ne_true)]
      rfl
    | true =>
      rw [if_pos rfl]
      show _ = raise 384 (log 0x0D02 stOk e.firstUnit [] (refresh { p with integ := { p.integ with
        episode := none, crash := recordClosed e p } }))
      rw [show recordClosed e p = _ from if_pos hr]
      rfl
  have hspares := (log_spares 0x0D02 stOk e.firstUnit [] (refresh q)).trans (raise_spares 384 _)
  rw [hexec]
  refine ⟨by rw [raise_integ, log_integ, refresh_integ], by rw [raise_mem, log_mem, refresh_mem],
    by rw [raise_step, log_step, refresh_step], ?_⟩
  rw [hspares.degradedNow, degradedNow_refresh, hspares.boot, refresh_degraded]

theorem nextDue_of_none {e : Episode} {p : Pkg} (he : p.integ.episode = some e) (hdue : e.due = []) : nextDue p = endEpisode p := by
  rw [nextDue, he]
  dsimp only
  rw [hdue]
  rfl

/-- A rung completes with nothing more due. -/
theorem rungDone_ends {e : Episode} {p : Pkg} (he : p.integ.episode = some e) (hdue : e.due = []) (hasked : e.asked = [])
    (hrelease : e.release = []) :
    (rungDone p).integ.episode = none ∧
      (rungDone p).integ.recovered = e.units.map (fun u => (u, e.rung, upNs p)) ++ p.integ.recovered ∧
      (e.recorded = true → (rungDone p).integ.crash.state = 2 ∧ (rungDone p).integ.crash.tEnd = now p) ∧
      (rungDone p).mem = p.mem ∧ (rungDone p).step = p.step ∧
      (rungDone p).boot = { p.boot with degraded := degradedNow (rungDone p) && decide (4 ≤ p.boot.phase) } := by
  obtain ⟨k, hk⟩ := closeRung_eq 0 p
  let q : Pkg := { p with integ := { p.integ with
    crash := k, recovered := e.units.map (fun u => (u, e.rung, upNs p)) ++ p.integ.recovered, episode := some e } }
  have hsame : ({ e with release := [] } : Episode) = e := by rw [← hrelease]
  have hexec : rungDone p = nextDue q := by
    unfold rungDone
    rw [he]
    dsimp only
    rw [hk, hrelease, List.filter_nil, List.foldl_nil]
    show nextDue { p with integ := { p.integ with
      crash := k, recovered := e.units.map (fun u => (u, e.rung, upNs p)) ++ p.integ.recovered
      episode := p.integ.episode.map fun x => { x with release := x.release.filter fun g => !List.elem g [] } } } = _
    rw [he, Option.map_some, hrelease, List.filter_nil, hsame]
  obtain ⟨hinteg, hmem, hstep, hboot⟩ := endEpisode_ends (p := q) rfl hasked
  rw [hexec, nextDue_of_none (p := q) rfl hdue, hinteg]
  exact ⟨rfl, rfl, fun hr => recordClosed_of_recorded hr q, hmem, hstep, hboot⟩

/-! ### A rung fails (R522) -/

theorem failPackage_frame (p : Pkg) :
    (failPackage p).mem = p.mem ∧ (failPackage p).step = p.step ∧ (failPackage p).integ = p.integ := by
  unfold failPackage
  split
  · exact ⟨rfl, rfl, rfl⟩
  · simp [alert]

/-- A rung that fails calls for the next. -/
theorem rungFails_climbs {e : Episode} {p : Pkg} (he : p.integ.episode = some e) (result : Nat) (engines : Bool) (hrung : e.rung < 4)
    (honly : ¬ (e.rung = 3 ∧ e.only3 = true)) (hrelease : ¬ (e.rung = 2 ∧ e.release ≠ [])) :
    let u := e.units.head?.getD 0
    let t := rungFails result engines p
    (∃ f : Episode, t.integ.episode = some f ∧ f.rung = nextRung e.rung u ∧ f.units = rungUnits (nextRung e.rung u) u ∧
      f.collecting = true) ∧ t.mem = p.mem ∧ t.boot = p.boot ∧ t.step = p.step := by
  intro u t
  obtain ⟨k, hk⟩ := closeRung_eq result p
  have hnext : ((e.rung == 3 && e.only3) || (e.rung == 2 && !e.release.isEmpty)) = false := by
    rw [Bool.or_eq_false_iff]
    constructor
    · rw [Bool.eq_false_iff, Ne, Bool.and_eq_true_iff, beq_iff_eq]
      exact honly
    · rw [Bool.eq_false_iff, Ne, Bool.and_eq_true_iff, beq_iff_eq, Bool.not_eq_true', List.isEmpty_eq_false_iff]
      exact hrelease
  have hexec : t = moveRung (nextRung e.rung u) u none false (closeRung result p) := by
    show rungFails result engines p = _
    unfold rungFails
    rw [he]
    dsimp only
    rw [if_neg (by rw [beq_iff_eq]; omega), hnext, if_neg Bool.false_ne_true]
  rw [hk, moveRung_of_episode (e := e) (p := { p with integ := { p.integ with crash := k } }) he] at hexec
  rw [hexec, raise_integ, raise_mem, raise_boot, raise_step]
  exact ⟨⟨_, rfl, rfl, rfl, rfl⟩, rfl, rfl, rfl⟩

/-- Rung 4 whose engines do not return leaves the package failed. -/
theorem rungFails_last {e : Episode} {p : Pkg} (he : p.integ.episode = some e) (result : Nat) (hrung : e.rung = 4)
    (hdue : e.due = []) (hasked : e.asked = []) :
    (rungFails result true p).boot.failed = true ∧ (rungFails result true p).integ.episode = none ∧
      (rungFails result true p).mem = p.mem ∧ (rungFails result true p).step = p.step := by
  obtain ⟨k, hk⟩ := closeRung_eq result p
  let q := failPackage (closeRung result p)
  obtain ⟨hmem, hstep, hinteg⟩ := failPackage_frame (closeRung result p)
  have hq : q.integ.episode = some e := by
    show (failPackage (closeRung result p)).integ.episode = some e
    rw [hinteg, hk]
    exact he
  have hexec : rungFails result true p = endEpisode q := by
    unfold rungFails
    rw [he]
    dsimp only
    rw [hrung]
    exact nextDue_of_none hq hdue
  obtain ⟨hend, hmem', hstep', hboot⟩ := endEpisode_ends hq hasked
  rw [hexec, hend, hmem', hstep', hboot]
  have hfailed : q.boot.failed = true := congrArg Boot.failed (failPackage_boot _)
  refine ⟨hfailed, rfl, ?_, ?_⟩
  · show (failPackage (closeRung result p)).mem = _
    rw [hmem, hk]
  · show (failPackage (closeRung result p)).step = _
    rw [hstep, hk]

/-! ### The obligation -/

theorem rungNow_of_running {e : Episode} {p : Pkg} (he : p.integ.episode = some e) (hcollect : e.collecting = false) :
    rungNow p = some e := by
  rw [rungNow, he]
  exact if_neg (by rw [hcollect]; exact Bool.false_ne_true)

/-- The command that ends with a rung that fails, and no abort due. -/
theorem exec_rungFails {s : State} {e : Episode} {c : Instr} (he : s.p.integ.episode = some e) (hcollect : e.collecting = false)
    (hc : c = .rungComplete false ∨ c = .rungTimeout) :
    ∃ result engines, exec c s = .next { s with p := finish s.set (rungFails result engines s.p) } := by
  have hnow := rungNow_of_running he hcollect
  rcases hc with rfl | rfl
  · refine ⟨2, e.rung == 4 && !diesOut s.p e, onP_of_eq (f := rungComplete false) ?_⟩
    rw [rungComplete, hnow]
    rfl
  · refine ⟨1, true, onP_of_eq (f := rungTimeout) ?_⟩
    rw [rungTimeout, hnow]

theorem exec_resetUnit {s : State} {r : Route} {w : Who} {b : List Byte} {p : Pkg} (h : Takes s r 0x0D01 w b p) :
    exec (.resetUnit r) s = .next { s with p := resetUnit w b s.set p } :=
  onRoute_takes (fun w b s => { s with p := resetUnit w b s.set s.p }) h

/-- Settles O55: requests and hangs call the ladder; a rung begins, completes, fails, or is the last. -/
theorem recoveryLadder : Obligations.RecoveryLadder := by
  unfold Obligations.RecoveryLadder
  refine ⟨fun s r w b p h hlen hz1 hz4 hunit => ⟨fun hlevel => ?_, fun via hw hlevel => ?_, fun hfailed hw =>
      ⟨fun hlevel => ?_, fun hlevel hopen hdue hseal => ?_, fun hlow hhigh hnone hdue hheld => ?_,
        fun hlevel hfenced hdie hnone hdue hheld => ?_⟩⟩,
    fun s u ctx hholds hfailed hnone hrec hdue hseal => ?_,
    fun s e he => ⟨fun kind index unit hcollect hrecord hfind hroom => ?_, fun hcollect => ?_,
      fun hcollect hrecord hlow hhigh hrungs hruns hcolls hround hheld hwaits hopens hdue => ?_,
      fun hcollect hdue hasked hrelease hdies habort hheld => ?_, fun c hc hcollect hrung honly hrelease habort => ?_,
      fun hcollect hrung hdue hasked habort => ?_⟩, fun s hdecay hready => ?_, fun s u => ⟨?_, fun hu hoff hdue hseal => ?_⟩⟩
  · rw [exec_resetUnit h, resetUnit_of_package ⟨hlen, hz1, hz4, hunit⟩ hlevel]
  · rw [exec_resetUnit h, resetUnit_of_mctp hw hlevel]
  · rw [exec_resetUnit h, resetUnit_of_level ⟨hlen, hz1, hz4, hunit⟩ hfailed hw (by omega) (by omega) (by omega) (by omega),
      if_neg (by omega), if_pos hlevel]
  · refine ⟨_, exec_resetUnit h, ?_⟩
    rw [resetUnit_of_level ⟨hlen, hz1, hz4, hunit⟩ hfailed hw (by omega) (by omega) (by omega) (by omega), if_pos hlevel]
    exact fenceGrove_byHost hopen w
  · have hexec := resetUnit_of_level (set := s.set) ⟨hlen, hz1, hz4, hunit⟩ hfailed hw hlow (by omega) (by omega) (by omega)
    rw [if_neg (by omega), if_neg (by omega), if_neg (by omega), if_neg (by omega)] at hexec
    obtain ⟨hepisode, hcount, hcrash, hmem, hinsts, hhost, hstep⟩ := resetUnit_begins (set := s.set)
      { rung := le b 0 1, unit := levelUnit (le b 0 1) (le b 2 2), cause := 0xFE, asked := [(w, le b 0 1, le b 2 2)] } hnone hdue hheld
    refine ⟨_, _, exec_resetUnit h, by rw [hexec]; exact hepisode, rfl, rfl, rfl, rfl, ?_⟩
    rw [hexec]
    exact ⟨hcount, fun hempty => by rw [hcrash]; exact newCrash_of_empty hempty, hmem, hinsts, hhost, hstep⟩
  · have hexec := resetUnit_of_level (set := s.set) ⟨hlen, hz1, hz4, hunit⟩ hfailed hw (by omega) (by omega) (by omega)
      fun _ => ⟨hfenced, hdie⟩
    rw [if_neg (by omega), if_neg (by omega), if_pos hlevel, if_pos hlevel, hlevel] at hexec
    obtain ⟨hepisode, -, -, hmem, -, hhost, hstep⟩ := resetUnit_begins (set := s.set)
      { rung := 2, unit := levelUnit 7 (le b 2 2), cause := 0xFE, asked := [(w, 7, le b 2 2)], release := [le b 2 2] } hnone hdue hheld
    have hgrove : unitOk 7 (le b 2 2) = true := hlevel ▸ hunit
    have hlt : le b 2 2 < 16 := by simpa [unitOk] using hgrove
    have hunits : rungUnits 2 (levelUnit 7 (le b 2 2)) = [0x0200 + le b 2 2] := by
      have hg : groveOfUnit (0x0200 + le b 2 2) = some (le b 2 2) := by
        rw [groveOfUnit, if_neg (by omega), if_pos (by omega), Nat.add_sub_cancel_left]
      simp [rungUnits, levelUnit, hg]
    refine ⟨_, _, exec_resetUnit h, by rw [hexec]; exact hepisode, rfl, hunits, rfl, rfl, rfl, ?_⟩
    rw [hexec]
    exact ⟨hmem, hhost, hstep⟩
  · obtain ⟨e, hbegins⟩ := watchdog_begins (set := s.set) hholds hfailed hnone hrec hdue hseal
    exact ⟨_, e, onP_of_eq (f := declareHung u ctx) rfl, hbegins⟩
  · exact onP_of_eq (f := fun _ p => itemTimeout kind index p) (itemTimeout_notes he hcollect hrecord hfind hroom)
  · exact onP_of_eq (f := rungBegins) (rungBegins_of_collecting he hcollect)
  · exact ⟨_, onP_of_eq (f := rungBegins) rfl, rungBegins_idle ⟨hruns, hcolls, hround, hheld, hwaits, hopens, hdue⟩ he hcollect hrecord
      hlow hhigh⟩
  · obtain ⟨hnone, hrec, hcrash, hmem, hstep, hboot⟩ := rungDone_ends he hdue hasked hrelease
    have hexec : rungComplete true s.set s.p = resumeJ1 s.set (rungDone s.p) := by
      rw [rungComplete, rungNow_of_running he hcollect]
      dsimp only
      rw [hdies, if_pos (by rfl), finish_quiet]
      · rw [hstep]
        exact habort
      · rw [hstep, hheld, Bool.false_and]
    have hresume := resumeJ1_spares s.set (rungDone s.p)
    refine ⟨_, onP_of_eq (f := rungComplete true) hexec, hnone, hrec, hcrash, hmem, ?_, hstep⟩
    rw [hresume.degradedNow]
    exact hboot
  · obtain ⟨result, engines, hexec⟩ := exec_rungFails he hcollect hc
    obtain ⟨⟨f, hf, hfrung, hfunits, hfcollect⟩, hmem, hboot, hstep⟩ := rungFails_climbs he result engines hrung honly hrelease
    obtain ⟨hfmem, -, -, hfinteg⟩ := finish_settled s.set (p := rungFails result engines s.p) (by rw [hstep]; exact habort)
    exact ⟨_, f, hexec, by rw [hfinteg]; exact hf, hfrung, hfunits, hfcollect, hfmem.trans hmem,
      (finish_spares s.set _).boot.trans hboot⟩
  · have hexec : exec .rungTimeout s = .next { s with p := finish s.set (rungFails 1 true s.p) } := by
      refine onP_of_eq (f := rungTimeout) ?_
      rw [rungTimeout, rungNow_of_running he hcollect]
    obtain ⟨hfailed, hnone, hmem, hstep⟩ := rungFails_last he 1 hrung hdue hasked
    obtain ⟨hfmem, -, -, hfinteg⟩ := finish_settled s.set (p := rungFails 1 true s.p) (by rw [hstep]; exact habort)
    exact ⟨_, hexec, by rw [(finish_spares s.set _).boot]; exact hfailed, by rw [hfinteg]; exact hnone, hfmem.trans hmem⟩
  · refine onP_of_eq (f := fun _ p => decayFaults p) ?_
    rw [decayFaults, if_neg (by simp [hdecay, hready])]
    rfl
  · show execCheckerProbe u true s = _
    exact (onP_of_eq rfl).trans (by rfl)
  · have hexec : exec (.checkerProbe u false) s = .next { s with p := finish s.set (probeFails s.set u s.p) } := by
      show execCheckerProbe u false s = _
      refine onP_of_eq ?_
      rw [if_neg]
      have hprobed : probed u = true := by
        simp only [probed, Bool.or_eq_true, decide_eq_true_eq]
        omega
      rw [hprobed, hoff]
      decide
    exact ⟨_, hexec, probe_counts hu hdue hseal⟩

end Sys2Proof.Machine
end

section
/-! PROOFS. The Worah Die Interface (O54): flits that arrive (R423, R425, R426). -/

namespace Sys2Proof.Machine

/-! ### One lane group -/

section
variable {p : Pkg} {d g : Nat} (hd : d < p.dies.length)
include hd

theorem laneGroup_putFlit (h : FlitHdr) (data : List Byte) :
    laneGroup (putFlit d g h data p) d g = afterFlit (laneGroup p d g) := by
  rw [putFlit_eq]
  exact laneGroup_modLaneGroup_self hd (laneGroup_id p d g)

theorem laneGroup_modDie {f : Die → Die} (hf : ∀ x, (f x).groups = x.groups) :
    laneGroup (modDie d f p) d g = laneGroup p d g := by
  rw [laneGroup, die_modDie_self hd, groupAt, hf]
  rfl

end

/-- With nothing that waits, none leaves. -/
theorem drainFlits_of_empty {p : Pkg} {d g : Nat} (h : (laneGroup p d g).queue = []) :
    drainFlits d g p = modLaneGroup d g (fun y => y) p := by
  unfold drainFlits
  dsimp only
  rw [h, List.take_nil, List.foldl_nil]
  refine modLaneGroup_congr ?_
  rw [h, List.drop_nil, ← h]

/-! ### The link fields of a flit (R423, R425) -/

/-- What ACK, NAK and the credits of a flit make of its group. -/
def linkTaken (h : FlitHdr) (y : Group) : Group :=
  { y with
    sent := afterAck h.ack y.sent
    frontReplays := (if (afterAck h.ack y.sent).length == y.sent.length then y.frontReplays else 0) +
      b2n (h.nak && !(afterAck h.ack y.sent).isEmpty)
    credits := modAt y.credits h.cflow fun c => c + h.credit }

theorem takeFlitLink_eq (d g : Nat) (h : FlitHdr) (p : Pkg) :
    takeFlitLink d g h p =
      (let again := h.nak && !(afterAck h.ack (laneGroup p d g).sent).isEmpty
       let q := modLaneGroup d g (linkTaken h) p
       let q := if again then replayFlits d g q else q
       drainFlits d g (if 8 ≤ (laneGroup q d g).frontReplays then groupRetrain d g q else q)) := by
  have hmod : modLaneGroup d g (linkTaken h) p = modLaneGroup d g (fun y => { y with
      sent := afterAck h.ack (laneGroup p d g).sent
      frontReplays := (if (afterAck h.ack (laneGroup p d g).sent).length == y.sent.length then y.frontReplays else 0) +
        b2n (h.nak && !(afterAck h.ack (laneGroup p d g).sent).isEmpty)
      credits := modAt y.credits h.cflow fun c => c + h.credit }) p := modLaneGroup_congr rfl
  rw [hmod]
  rfl

theorem linkTaken_frontReplays_le (h : FlitHdr) (y : Group) :
    (linkTaken h y).frontReplays ≤ y.frontReplays + b2n (h.nak && !(afterAck h.ack y.sent).isEmpty) := by
  show (if _ then y.frontReplays else 0) + _ ≤ _
  split <;> omega

section
variable {p : Pkg} {d g : Nat} (hd : d < p.dies.length) (hqueue : (laneGroup p d g).queue = [])
include hd hqueue

/-- A flit without NAK. -/
theorem takeFlitLink_of_plain {h : FlitHdr} (hnak : h.nak = false) (hfront : (laneGroup p d g).frontReplays < 8) :
    takeFlitLink d g h p = modLaneGroup d g (linkTaken h) p := by
  have hself := laneGroup_modLaneGroup_self (p := p) (g := g) (f := linkTaken h) hd (laneGroup_id p d g)
  have hle := linkTaken_frontReplays_le h (laneGroup p d g)
  rw [hnak, Bool.false_and] at hle
  have hlt : ¬ 8 ≤ (laneGroup (modLaneGroup d g (linkTaken h) p) d g).frontReplays := by
    rw [hself]
    exact not_le.mpr (lt_of_le_of_lt hle hfront)
  rw [takeFlitLink_eq]
  simp only [hnak, Bool.false_and, Bool.false_eq_true, if_false, hlt]
  rw [drainFlits_of_empty (by rw [hself]; exact hqueue), modLaneGroup_modLaneGroup]
  · exact fun _ => rfl
  · exact fun _ => rfl

end

/-! ### Flits that are sent again (R425) -/

/-- With no credit owed, what a flit takes along changes nothing. -/
theorem afterFlit_of_none {y : Group} (h : y.owed = [0, 0, 0]) : afterFlit y = y := by
  rw [afterFlit, h]
  show { y with owed := [0, 0, 0] } = y
  rw [← h]

/-- The REPLAY count after each of a list's flits was counted. -/
theorem foldl_satAdd_one {α : Type} {m : Nat} (a : α) (l : List α) (n : Nat) :
    (a :: l).foldl (fun v _ => satAdd m v 1) n = min m (n + (a :: l).length) := by
  induction l generalizing n a with
  | nil => rfl
  | cons b l ih =>
    rw [List.foldl_cons, ih, satAdd]
    simp only [List.length_cons]
    omega

/-- A flit is sent again, and counted. -/
def againFlit (d g : Nat) (p : Pkg) (x : FlitHdr × List Byte) : Pkg :=
  putFlit d g x.1 x.2 (modDie d (fun y => { y with replay := satAdd 0xFFFF y.replay 1 }) p)

/-- What sending flits again comes to while no credit is owed. -/
structure Resent (d g : Nat) (l : List (FlitHdr × List Byte)) (p q : Pkg) : Prop where
  out : q.out = { p.out with wdi := p.out.wdi ++ l.map fun x => flitOut d g (laneGroup p d g) x.1 x.2 }
  group : laneGroup q d g = laneGroup p d g
  replay : (q.dies.getD d {}).replay = l.foldl (fun v _ => satAdd 0xFFFF v 1) (p.dies.getD d {}).replay
  length : q.dies.length = p.dies.length
  same : q = { p with dies := q.dies, out := q.out }

theorem foldl_againFlit {d g : Nat} (l : List (FlitHdr × List Byte)) {p : Pkg} (hd : d < p.dies.length)
    (howed : (laneGroup p d g).owed = [0, 0, 0]) : Resent d g l p (l.foldl (againFlit d g) p) := by
  induction l generalizing p with
  | nil => exact ⟨by simp, rfl, rfl, rfl, rfl⟩
  | cons x l ih =>
    have hgroup : laneGroup (againFlit d g p x) d g = laneGroup p d g := by
      rw [againFlit, laneGroup_putFlit ((modDie_length ..).symm ▸ hd), laneGroup_modDie hd, afterFlit_of_none howed]
      exact fun _ => rfl
    have hout : (againFlit d g p x).out =
        { p.out with wdi := p.out.wdi ++ [flitOut d g (laneGroup p d g) x.1 x.2] } := by
      rw [againFlit, putFlit_eq, laneGroup_modDie hd]
      · rfl
      · exact fun _ => rfl
    have hlen : (againFlit d g p x).dies.length = p.dies.length := by simp [againFlit, putFlit_eq, modLaneGroup]
    have hreplay : ((againFlit d g p x).dies.getD d {}).replay = satAdd 0xFFFF (p.dies.getD d {}).replay 1 := by
      rw [againFlit, putFlit_eq]
      show ((modLaneGroup d g afterFlit _).dies.getD d {}).replay = _
      rw [modLaneGroup, die_modDie_self ((modDie_length ..).symm ▸ hd), die_modDie_self hd]
      rfl
    obtain ⟨tout, tgroup, treplay, tlength, tsame⟩ := ih (p := againFlit d g p x) (hlen ▸ hd) (hgroup ▸ howed)
    rw [List.foldl_cons]
    refine ⟨?_, tgroup.trans hgroup, ?_, tlength.trans hlen, ?_⟩
    · rw [tout, hout, hgroup, List.map_cons, List.append_assoc]
      rfl
    · rw [treplay, hreplay, List.foldl_cons]
    · exact tsame.trans rfl

section
variable {p : Pkg} {d g : Nat} (hd : d < p.dies.length) (hqueue : (laneGroup p d g).queue = [])
include hd hqueue

/-- A NAK: the flits after ACK are sent again. -/
theorem takeFlitLink_of_nak {h : FlitHdr} (hnak : h.nak = true) (hfront : (laneGroup p d g).frontReplays < 7)
    (howed : (laneGroup p d g).owed = [0, 0, 0]) (hleft : afterAck h.ack (laneGroup p d g).sent ≠ []) :
    let l := afterAck h.ack (laneGroup p d g).sent
    let t := takeFlitLink d g h p
    t.out = { p.out with wdi := p.out.wdi ++ l.map fun x => flitOut d g (linkTaken h (laneGroup p d g)) x.1 x.2 } ∧
      (t.dies.getD d {}).replay = min 0xFFFF ((p.dies.getD d {}).replay + l.length) ∧
      t = { p with dies := t.dies, out := t.out } := by
  intro l t
  obtain ⟨a, l', hl⟩ := List.exists_cons_of_ne_nil hleft
  have hagain : (h.nak && !(afterAck h.ack (laneGroup p d g).sent).isEmpty) = true := by rw [hnak, hl]; rfl
  have hself := laneGroup_modLaneGroup_self (p := p) (g := g) (f := linkTaken h) hd (laneGroup_id p d g)
  have hlen : d < (modLaneGroup d g (linkTaken h) p).dies.length := (modDie_length ..).symm ▸ hd
  have hle := linkTaken_frontReplays_le h (laneGroup p d g)
  rw [hagain] at hle
  have hlt : ¬ 8 ≤ (linkTaken h (laneGroup p d g)).frontReplays :=
    not_le.mpr (lt_of_le_of_lt hle (Nat.succ_lt_succ hfront))
  obtain ⟨rout, rgroup, rreplay, rlength, rsame⟩ := foldl_againFlit (g := g) l hlen (by rw [hself]; exact howed)
  have hreplay : replayFlits d g (modLaneGroup d g (linkTaken h) p) =
      l.foldl (againFlit d g) (modLaneGroup d g (linkTaken h) p) := by
    unfold replayFlits
    rw [hself]
    rfl
  have ht : t = modLaneGroup d g (fun y => y) (l.foldl (againFlit d g) (modLaneGroup d g (linkTaken h) p)) := by
    show takeFlitLink d g h p = _
    rw [takeFlitLink_eq]
    simp only [hagain, if_true]
    rw [hreplay, if_neg (by rw [rgroup, hself]; exact hlt), drainFlits_of_empty (by rw [rgroup, hself]; exact hqueue)]
  generalize l.foldl (againFlit d g) (modLaneGroup d g (linkTaken h) p) = q at *
  rw [ht]
  refine ⟨?_, ?_, ?_⟩
  · rw [hself] at rout
    exact rout
  · rw [modLaneGroup, die_modDie_self (rlength ▸ hlen)]
    show (q.dies.getD d {}).replay = _
    rw [rreplay, modLaneGroup, die_modDie_self hd, show l = a :: l' from hl]
    exact foldl_satAdd_one a l' _
  · rw [modLaneGroup, modDie, rsame]
    rfl

end

/-! ### Flits that arrive (R423, R425) -/

section
variable {set : Settings} {p : Pkg} {d g : Nat} {h : FlitHdr} {data : List Byte} {far : Bool}
  (hup : (p.dies.getD d {}).state = .up) (hg : g < 128) (htrain : (laneGroup p d g).retraining = false)
include hup hg htrain

theorem takeFlit_good (hfar : far = true ∨ crosses d g h = false) :
    takeFlit d g h data (flitCrc h data) far [] set p = goodFlit d g h (padTo 128 data) set p := by
  have hcross : (far || !crosses d g h) = true := by
    obtain rfl | hc := hfar
    · rfl
    · rw [hc, Bool.not_false, Bool.or_true]
  rw [takeFlit, if_neg (by rw [hup, htrain]; simpa using hg), if_pos (by rw [hcross]; simp)]
  rfl

theorem takeFlit_bad {crc : Nat} {errs : List MemErr}
    (hbad : crc ≠ flitCrc h data ∨ (far = false ∧ crosses d g h = true)) :
    takeFlit d g h data crc far errs set p = badFlit d g p := by
  rw [takeFlit, if_neg (by rw [hup, htrain]; simpa using hg), if_neg]
  obtain hcrc | ⟨rfl, hc⟩ := hbad
  · simp [hcrc]
  · simp [hc]

end

/-- What a flit in SEQ order makes of its group. -/
def inOrder (flow : Nat) (y : Group) : Group :=
  { y with rxSeq := (y.rxSeq + 1) % 1024, skipping := false, owed := modAt y.owed flow fun n => n + 1 }

theorem acknowledge_group {p : Pkg} {d : Nat} (hd : d < p.dies.length) (g : Nat) :
    laneGroup (acknowledge d g p) d g = laneGroup p d g ∨
      laneGroup (acknowledge d g p) d g = afterFlit (laneGroup p d g) := by
  unfold acknowledge
  split
  · exact .inr (laneGroup_putFlit hd _ _)
  · exact .inl rfl

theorem acknowledge_frame (d g : Nat) (p : Pkg) : SameIc p (acknowledge d g p) := by
  unfold acknowledge
  split
  · exact putFlit_frame ..
  · exact .refl p

section
variable {set : Settings} {p : Pkg} {d g : Nat} {h : FlitHdr} {data : List Byte} (hd : d < p.dies.length)
  (hqueue : (laneGroup p d g).queue = [])
include hd hqueue

/-- A flit in order that asks for nothing gives its credits and releases what its ACK names. -/
theorem goodFlit_of_plain (htype : h.type = 4 ∨ h.type = 5) (hseq : h.seq = (laneGroup p d g).rxSeq) (hnak : h.nak = false)
    (hfront : (laneGroup p d g).frontReplays < 8) :
    goodFlit d g h data set p =
      acknowledge d g (modLaneGroup d g (fun y => linkTaken h (inOrder h.flow y)) p) := by
  have hself := laneGroup_modLaneGroup_self (p := p) (g := g) (f := inOrder h.flow) hd (laneGroup_id p d g)
  have huse (q : Pkg) : useFlit d g h data set q = q := by
    obtain e | e := htype <;> simp [useFlit, e]
  have hidle : ¬ (h.type == 0) = true := by obtain e | e := htype <;> rw [e] <;> decide
  rw [goodFlit, if_neg hidle, if_neg (by rw [hseq]; simp)]
  show acknowledge d g (useFlit d g h data set (takeFlitLink d g h (modLaneGroup d g (inOrder h.flow) p))) = _
  rw [huse, takeFlitLink_of_plain ((modDie_length ..).symm ▸ hd) (by rw [hself]; exact hqueue) hnak
    (by rw [hself]; exact hfront), modLaneGroup_modLaneGroup]
  · exact fun _ => rfl
  · exact fun _ => rfl

end

/-- A flit that fails is answered by a NAK, and its group discards until replay. -/
theorem badFlit_naks {p : Pkg} {d : Nat} (hd : d < p.dies.length) (g : Nat) :
    let y := laneGroup p d g
    let t := badFlit d g p
    t.out = { p.out with wdi := p.out.wdi ++ [flitOut d g y ⟨0, 0, y.txSeq, 0, true, 0, 0, 0, 0⟩ []] } ∧
      (t.dies.getD d {}).crc = min 0xFFFF ((p.dies.getD d {}).crc + 1) ∧ (laneGroup t d g).skipping = true ∧
      (laneGroup t d g).rxSeq = y.rxSeq ∧
      t.integ = { p.integ with detect := modAt p.integ.detect 4 fun v => min 0xFFFFFFFF (v + 1) } ∧
      t = { p with dies := t.dies, out := t.out, integ := t.integ } := by
  intro y t
  let counted := modDie d (fun x => { x with crc := satAdd 0xFFFF x.crc 1, replay := satAdd 0xFFFF x.replay 1 }) p
  let r := modLaneGroup d g (fun y => { y with skipping := true }) counted
  let q := detect 4 r
  have hcounted : d < counted.dies.length := (modDie_length ..).symm ▸ hd
  have hq : d < q.dies.length := (modDie_length ..).symm ▸ hcounted
  have hgroup : laneGroup q d g = { y with skipping := true } := by
    show laneGroup r d g = _
    rw [laneGroup_modLaneGroup_self hcounted (laneGroup_id ..), laneGroup_modDie hd]
    exact fun _ => rfl
  have hcrc : (q.dies.getD d {}).crc = satAdd 0xFFFF (p.dies.getD d {}).crc 1 := by
    show (r.dies.getD d {}).crc = _
    rw [show r = modLaneGroup d g _ counted from rfl, modLaneGroup, die_modDie_self hcounted, die_modDie_self hd]
    rfl
  have ht : t = putFlit d g ⟨0, 0, (laneGroup q d g).txSeq, 0, true, 0, 0, 0, 0⟩ [] q := rfl
  have htgroup : laneGroup t d g = afterFlit { y with skipping := true } := by rw [ht, laneGroup_putFlit hq, hgroup]
  refine ⟨?_, ?_, by rw [htgroup]; rfl, by rw [htgroup]; rfl, rfl, rfl⟩
  · rw [ht, putFlit_eq, hgroup]
    rfl
  · rw [ht, putFlit_eq]
    show ((modLaneGroup d g afterFlit q).dies.getD d {}).crc = _
    rw [modLaneGroup, die_modDie_self hq]
    exact hcrc

end Sys2Proof.Machine
end

section
/-! PROOFS. The Worah Die Interface (O54): requests (R371, R379, R424). -/

namespace Sys2Proof.Machine

/-! ### One plain write (R379) -/

/-- One write replaces a block whole where it goes over all its bytes. -/
theorem coversBlock_bytes (a : Nat) (bs : List Byte) (x : Nat) :
    coversBlock [.bytes a bs] x = (decide (a ≤ x) && decide (x + 64 ≤ a + bs.length)) := by
  show ((List.range 64).all fun i => (decide (a ≤ x + i) && decide (x + i < a + bs.length)) || false) = _
  rw [Bool.eq_iff_iff]
  simp only [List.all_eq_true, List.mem_range, Bool.or_false, Bool.and_eq_true, decide_eq_true_eq]
  constructor
  · intro h
    have hfirst := h 0 (by decide)
    have hlast := h 63 (by decide)
    omega
  · intro h i hi
    omega

/-- One plain write meets the error that a write of its range meets. -/
theorem opsError_bytes {set : Settings} {p : Pkg} {a : Nat} {bs : List Byte} (h : writeError set p a bs.length = none) :
    opsError set p [.bytes a bs] = none := by
  unfold opsError
  split
  · rfl
  · simp only [firstSome, coversBlock_bytes, WOp.range, Bool.false_or]
    unfold writeError at h
    rw [h, Option.or_none]

/-- One plain write that meets no error is a write of memory. -/
theorem applyOps_bytes {set : Settings} {p : Pkg} {a : Nat} {bs : List Byte} (h : writeError set p a bs.length = none) :
    applyOps set [.bytes a bs] p = (writeMem set a bs p, none) := by
  have hbad : ((writeMem set a bs p).mem.bad.filter fun b => !coversBlock [.bytes a bs] (addrOf set (b * 64))) =
      (writeMem set a bs p).mem.bad := by
    simp only [coversBlock_bytes, writeMem, List.filter_filter, Bool.and_self]
  unfold applyOps
  rw [opsError_bytes h]
  dsimp only [List.foldl_cons, List.foldl_nil, applyOp]
  rw [hbad]

/-! ### Requests (R424) -/

/-- A request without a fault of its own has an operation, a unit that its data fill, and a group that carries it. -/
theorem reqBad_data {set : Settings} {d g dest : Nat} {r : WdiReq} {data : List Byte}
    (h : reqBad set d g dest r data = false) (hop : r.op = 1) : 64 * r.len ≤ data.length := by
  simp only [reqBad, Bool.or_eq_false_iff, Bool.and_eq_false_iff, decide_eq_false_iff_not] at h
  omega

section
variable {s : State} {d g dest : Nat} {r : WdiReq} {data : List Byte} (hup : (s.p.dies.getD d {}).state = .up)
include hup

theorem wdiRequest_exec :
    exec (.wdiRequest d r data g dest []) s = .next { s with p := serveRequest d g dest r data s.set s.p } := by
  show execWdiRequest d r data s g dest [] = _
  refine onP_of_eq ?_
  rw [if_pos (by rw [hup]; decide)]
  rfl

theorem serveRequest_bad (hbad : reqBad s.set d g dest r data = true) :
    serveRequest d g dest r data s.set s.p = respond d g r.tag stBadParam [] s.p := by
  rw [serveRequest, if_neg (by rw [hup]; decide), if_pos hbad]

variable (hbad : reqBad s.set d g dest r data = false)
include hbad

theorem serveRequest_memory (hop : r.op < 4) :
    serveRequest d g dest r data s.set s.p = memRequest d g r data s.set s.p := by
  rw [serveRequest, if_neg (by rw [hup]; decide), if_neg (by rw [hbad]; decide), if_pos hop]

theorem serveRequest_read (hop : r.op = 0) (hread : readError s.set s.p r.addr (64 * r.len) = none) :
    serveRequest d g dest r data s.set s.p = respond d g r.tag stOk (readMem s.set s.p r.addr (64 * r.len)) s.p := by
  rw [serveRequest_memory hup hbad (by omega), memRequest]
  simp only [hop, beq_self_eq_true, if_true, hread]

theorem serveRequest_write (hop : r.op = 1) (hwrite : writeError s.set s.p r.addr (64 * r.len) = none) :
    serveRequest d g dest r data s.set s.p =
      respond d g r.tag stOk [] (writeMem s.set r.addr (data.take (64 * r.len)) s.p) := by
  have hlen : (data.take (64 * r.len)).length = 64 * r.len := by
    rw [List.length_take, min_eq_left (reqBad_data hbad hop)]
  rw [serveRequest_memory hup hbad (by omega), memRequest, hop, if_neg (by decide), if_pos (by decide),
    applyOps_bytes (by rw [hlen]; exact hwrite)]

theorem serveRequest_control (hop : 4 ≤ r.op) :
    serveRequest d g dest r data s.set s.p =
      if roleOf g == 1 && dest < 4 then forward d g dest r s.p
      else
        let t := r.unit - 0x0200
        let mine := 0x0200 ≤ r.unit && r.unit < 0x0210 && t / 4 == d
        respond d g r.tag stOk [] (if endsService r && mine then endService t s.p else s.p) := by
  rw [serveRequest, if_neg (by rw [hup]; decide), if_neg (by rw [hbad]; decide), if_neg (not_lt.mpr hop)]

theorem serveRequest_here (hop : 4 ≤ r.op) (hhere : roleOf g ≠ 1 ∨ 4 ≤ dest) (hends : endsService r = false) :
    serveRequest d g dest r data s.set s.p = respond d g r.tag stOk [] s.p := by
  rw [serveRequest_control hup hbad hop, if_neg (by simpa [imp_iff_not_or] using hhere), hends]
  rfl

theorem serveRequest_ends (hd : d < 4) (hop : 4 ≤ r.op) (hhere : roleOf g ≠ 1 ∨ 4 ≤ dest)
    (hends : endsService r = true) {k : Nat} (hk : k < 4) (hunit : r.unit = 0x0200 + 4 * d + k) :
    serveRequest d g dest r data s.set s.p = respond d g r.tag stOk [] (endService (4 * d + k) s.p) := by
  have htarget : r.unit - 0x0200 = 4 * d + k := by omega
  have hmine : (decide (0x0200 ≤ r.unit) && decide (r.unit < 0x0210) && (4 * d + k) / 4 == d) = true := by
    simp only [Bool.and_eq_true, decide_eq_true_eq, beq_iff_eq]
    omega
  rw [serveRequest_control hup hbad hop, if_neg (by simpa [imp_iff_not_or] using hhere)]
  simp only [htarget, hmine, hends, Bool.and_self, if_true]

theorem serveRequest_forwards (hop : 4 ≤ r.op) (hrole : roleOf g = 1) (hdest : dest < 4) :
    serveRequest d g dest r data s.set s.p = forward d g dest r s.p := by
  rw [serveRequest_control hup hbad hop, if_pos (by simp [hrole, hdest])]

end

/-- A request over the network goes on to its die, or is completed with DIE_FENCED. -/
theorem forward_eq (d g dest : Nat) (r : WdiReq) (p : Pkg) :
    forward d g dest r p = if (p.dies.getD dest {}).state = .up then sendRequest dest (some (d, g, r.tag)) r p
      else respond d g r.tag stDieFenced [] p := by
  unfold forward
  exact if_congr beq_iff_eq rfl rfl

end Sys2Proof.Machine
end

section
/-! PROOFS. The Worah Die Interface (O54): dies that are lost and dies whose clock returns (R425, R430, R431). -/

namespace Sys2Proof.Machine

/-! ### A die is lost (R425, R430, R527) -/

/-- The call of the ladder for a die that is lost. -/
def dieCall (d cause : Nat) : Call := { rung := 3, unit := 0x0400 + d, cause := cause, only3 := true }

/-- A die that is lost is fenced and given rung 3; a step is to abort. -/
theorem loseDie_fences (set : Settings) {p : Pkg} {d reason cause : Nat} (hd : d < 4) (hlen : p.dies.length = 4)
    (hup : (p.dies.getD d {}).state = .up) (hnone : p.integ.episode = none) :
    let t := loseDie d reason cause set p
    t.dies.getD d {} = { p.dies.getD d {} with state := .fenced, reason := reason, waiting := [] } ∧
      (∃ e, t.integ.episode = some e ∧ e.rung = 3 ∧ e.units = [0x0400 + d] ∧ e.cause = cause ∧
        e.collecting = true ∧ e.only3 = true) ∧
      (stepLive p = true → t.step.aborting = true ∧ bit t.step.failMask 7 = true) := by
  intro t
  let q := detect cause (fenceDie set d reason p)
  have ht : t = finish set (callLadder (dieCall d cause) q) := by
    show loseDie d reason cause set p = _
    rw [loseDie, if_neg (by rw [hup]; decide)]
    rfl
  have hfence := (fenceDie_spares set reason hup).1
  have hcall := callLadder_ladderOnly (dieCall d cause) q
  have hfinish := finish_spares set (callLadder (dieCall d cause) q)
  have hq : q.dies.getD d {} = { p.dies.getD d {} with state := .fenced, reason := reason, waiting := [] } := by
    have hself : (withFencedDie d reason p).dies.getD d {} =
        { p.dies.getD d {} with state := .fenced, reason := reason, waiting := [] } := die_modDie_self (hlen ▸ hd) _
    have hkept := (hfence.die d).2
    exact (hkept (by rw [hself]; exact DieState.noConfusion)).trans hself
  have hdie : t.dies.getD d {} = q.dies.getD d {} := by
    have hkept := ((hcall.spares.die d).2 (by show (q.dies.getD d {}).state ≠ _; rw [hq]; exact DieState.noConfusion))
    rw [ht, (hfinish.die d).2 (by rw [hkept]; show (q.dies.getD d {}).state ≠ _; rw [hq]; exact DieState.noConfusion)]
    exact hkept
  have hq0 : q.integ.episode = none := (congrArg Integ.episode hfence.integ).trans hnone
  refine ⟨hdie.trans hq, ⟨newEpisode (dieCall d cause) q, ?_, rfl, rungUnits_die hd, rfl, rfl, rfl⟩, fun hlive => ?_⟩
  · rw [ht, hfinish.integ, callLadder_begins hq0, raise_integ]
    rfl
  · obtain ⟨habort, hbit⟩ := fenceDie_dooms set reason hup hlive
    rw [ht]
    exact ⟨finish_aborting set (by rw [hcall.step]; exact habort), hfinish.mask 7 (by rw [hcall.step]; exact hbit)⟩

/-! ### The clock of a die returns (R431) -/

/-- What follows the return of a die that is back. -/
def afterReturn (set : Settings) (d : Nat) (p : Pkg) : Pkg :=
  finish set (redeliver d (refresh (setResets (·.filter (· != d)) (log 0x0D03 stOk (0x0400 + d) [] p))))

theorem redeliver_frame (d : Nat) (p : Pkg) : SameIc p (redeliver d p) :=
  foldl_frame (fun q i => icDeliver (4 * d + i) q) (fun q i => icDeliver_frame (4 * d + i) q) _ p

theorem redeliver_emits (d : Nat) (p : Pkg) : Emits p (redeliver d p) :=
  .foldl (fun q i => icDeliver_emits (4 * d + i) q) _ _

theorem afterReturn_keeps (set : Settings) (d : Nat) {p : Pkg} (hdue : p.step.abortDue = false)
    (hheld : p.step.commitHeld = false) :
    (afterReturn set d p).mem = p.mem ∧ (afterReturn set d p).step = p.step ∧ (afterReturn set d p).pwr = p.pwr ∧
      (afterReturn set d p).integ.episode = p.integ.episode.map (fun e => { e with resets := e.resets.filter (· != d) }) ∧
      SameDie (p.dies.getD d {}) ((afterReturn set d p).dies.getD d {}) ∧ Emits p (afterReturn set d p) := by
  let logged := log 0x0D03 stOk (0x0400 + d) [] p
  let counted := setResets (·.filter (· != d)) logged
  have hrefresh := refresh_frame counted
  have hdeliver := redeliver_frame d (refresh counted)
  have hmem : (redeliver d (refresh counted)).mem = p.mem :=
    (congrArg Pkg.mem hdeliver.1).trans ((refresh_mem counted).trans (log_mem ..))
  have hstep : (redeliver d (refresh counted)).step = p.step :=
    (congrArg Pkg.step hdeliver.1).trans ((refresh_step counted).trans (log_step ..))
  have hpwr : (redeliver d (refresh counted)).pwr = p.pwr :=
    (congrArg Pkg.pwr hdeliver.1).trans ((refresh_pwr counted).trans (log_pwr ..))
  have hinteg : (redeliver d (refresh counted)).integ = counted.integ :=
    (congrArg Pkg.integ hdeliver.1).trans (refresh_integ counted)
  have hepisode : counted.integ.episode = p.integ.episode.map (fun e => { e with resets := e.resets.filter (· != d) }) := by
    show logged.integ.episode.map _ = _
    rw [log_integ]
  have hemits : Emits p (redeliver d (refresh counted)) :=
    ((log_emits ..).trans ((Emits.of_out (p := logged) (q := counted) rfl).trans (refresh_emits counted))).trans
      (redeliver_emits d _)
  have hdie : SameDie (p.dies.getD d {}) ((redeliver d (refresh counted)).dies.getD d {}) :=
    (((log_frame 0x0D03 stOk (0x0400 + d) [] p).2 d).trans (hrefresh.2 d)).trans (hdeliver.2 d)
  have ht : afterReturn set d p = resumeJ1 set (redeliver d (refresh counted)) :=
    finish_quiet set (by rw [hstep]; exact hdue) (by rw [hstep, hheld, Bool.false_and])
  rw [ht]
  exact ⟨hmem, hstep, hpwr, (congrArg Integ.episode hinteg).trans hepisode, hdie, hemits.trans (.of_out rfl)⟩

/-- The exchange with a die begins anew. -/
def renegotiated (set : Settings) (d : Nat) (p : Pkg) : Pkg :=
  sendCap set d (setDie d .renegotiating (p.dies.getD d {}).reason p)

theorem renegotiated_onlyDie (set : Settings) (d : Nat) (p : Pkg) : OnlyDie d p (renegotiated set d p) :=
  (setDie_onlyDie d _ _ p).trans (sendCap_onlyDie set d _)

/-- The die is UP again, and the plan of R422 leaves for it. -/
def upAgain (set : Settings) (d : Nat) (p : Pkg) : Pkg :=
  sendRoles d (modDie d (fun x => { x with failedGroup := 0xFF }) (setDie d .up 0 (renegotiated set d p)))

theorem upAgain_onlyDie (set : Settings) (d : Nat) (p : Pkg) : OnlyDie d p (upAgain set d p) :=
  (((renegotiated_onlyDie set d p).trans (setDie_onlyDie d .up 0 _)).trans (modDie_onlyDie d _ _)).trans
    (sendRoles_onlyDie d _)

section
variable {set : Settings} {p : Pkg} {d : Nat} (hd : d < p.dies.length)
include hd

theorem renegotiated_die :
    SameDie { p.dies.getD d {} with state := .renegotiating } ((renegotiated set d p).dies.getD d {}) := by
  have hone := setDie_die hd .renegotiating (p.dies.getD d {}).reason
  exact SameDie.trans hone (sendCap_die set (by rw [(setDie_onlyDie d _ _ p).length]; exact hd))

theorem renegotiated_leaves : Leaves p (renegotiated set d p) d 4 (padTo 128 (baseCap set)) :=
  (sendCap_leaves set (by rw [(setDie_onlyDie d _ _ p).length]; exact hd)).widen (setDie_onlyDie d _ _ p).emits (.refl _)

theorem upAgain_leaves :
    Leaves p (upAgain set d p) d 4 (padTo 128 (baseCap set)) ∧
      Leaves p (upAgain set d p) d 5 (padTo 128 ((List.range 128).map fun g => BitVec.ofNat 8 (roleOf g))) := by
  have hlast : OnlyDie d (renegotiated set d p) (upAgain set d p) :=
    ((setDie_onlyDie d .up 0 _).trans (modDie_onlyDie d _ _)).trans (sendRoles_onlyDie d _)
  have hroles := sendRoles_leaves set (p := setDie d .renegotiating (p.dies.getD d {}).reason p)
    (by rw [(setDie_onlyDie d _ _ p).length]; exact hd) (f := fun x => { x with failedGroup := 0xFF }) fun _ => rfl
  exact ⟨(renegotiated_leaves hd).widen (.refl p) hlast.emits, hroles.widen (setDie_onlyDie d _ _ p).emits (.refl _)⟩

theorem upAgain_die :
    SameDie { p.dies.getD d {} with state := .up, reason := 0, failedGroup := 0xFF } ((upAgain set d p).dies.getD d {}) := by
  have hlen : d < (renegotiated set d p).dies.length := by rw [(renegotiated_onlyDie set d p).length]; exact hd
  have hbase := renegotiated_die (set := set) hd
  have hup := setDie_die hlen .up 0
  have hsent := (sendFlit_frame d 124 5 2 0 0 ((List.range 128).map fun g => BitVec.ofNat 8 (roleOf g))
    (modDie d (fun x => { x with failedGroup := 0xFF }) (setDie d .up 0 (renegotiated set d p)))).2 d
  rw [die_modDie_self (by rw [(setDie_onlyDie d .up 0 _).length]; exact hlen)] at hsent
  refine SameDie.trans ?_ hsent
  generalize (setDie d .up 0 (renegotiated set d p)).dies.getD d {} = y at *
  generalize (renegotiated set d p).dies.getD d {} = z at *
  unfold SameDie at *
  rw [hup, hbase]

variable {e : Episode} {r : DieReport} (he : rungNow p = some e) (hunit : 0x0400 + d ∈ e.units)
  (hfenced : (p.dies.getD d {}).state = .fenced)
include he hunit hfenced

/-- A die that fails its checks stays fenced, with the reason. -/
theorem clockReturns_refused {reason : Nat} (hreason : returnReason (p.dies.getD d {}).cap r = some reason) :
    let t := clockReturns d r set p
    (t.dies.getD d {}).state = .fenced ∧ (t.dies.getD d {}).reason = reason ∧
      (t.dies.getD d {}).cap = (p.dies.getD d {}).cap ∧
      (reason = 2 → (t.dies.getD d {}).failedGroup = r.failedGroup.getD 0xFF) ∧
      Leaves p t d 4 (padTo 128 (baseCap set)) ∧ t.mem = p.mem ∧ t.step = p.step ∧ t.tasks = p.tasks ∧
      t.pwr = p.pwr := by
  intro t
  let q := if reason == 2 then modDie d (fun x => { x with failedGroup := r.failedGroup.getD 0xFF }) (renegotiated set d p)
    else renegotiated set d p
  have ht : t = setDie d .fenced reason q := by
    show clockReturns d r set p = _
    rw [clockReturns, he]
    dsimp only
    rw [if_neg (by rw [hfenced]; simpa using hunit), hreason]
    rfl
  have hlen : d < (renegotiated set d p).dies.length := by rw [(renegotiated_onlyDie set d p).length]; exact hd
  have honly : OnlyDie d (renegotiated set d p) q := by
    show OnlyDie d _ (if _ then _ else _)
    split
    · exact modDie_onlyDie d _ _
    · exact .refl d _
  have hgroup : reason = 2 → (q.dies.getD d {}).failedGroup = r.failedGroup.getD 0xFF := fun h2 => by
    show (Pkg.dies (if _ then _ else _) |>.getD d {}).failedGroup = _
    rw [if_pos (by rw [h2]; rfl), die_modDie_self hlen]
  have hcap : (q.dies.getD d {}).cap = (p.dies.getD d {}).cap := by
    have hbase : ((renegotiated set d p).dies.getD d {}).cap = (p.dies.getD d {}).cap :=
      (congrArg Die.cap (renegotiated_die (set := set) hd)).trans rfl
    show (Pkg.dies (if _ then _ else _) |>.getD d {}).cap = _
    split
    · rw [die_modDie_self hlen]
      exact hbase
    · exact hbase
  have hdie := setDie_die (p := q) (by rw [honly.length]; exact hlen) .fenced reason
  have hlast := honly.trans (setDie_onlyDie d .fenced reason q)
  have hall := ((renegotiated_onlyDie set d p).trans hlast).rest
  rw [← ht] at hdie hlast hall
  exact ⟨congrArg Die.state hdie, congrArg Die.reason hdie, (congrArg Die.cap hdie).trans hcap,
    fun h2 => (congrArg Die.failedGroup hdie).trans (hgroup h2), (renegotiated_leaves hd).widen (.refl p) hlast.emits,
    (congrArg Pkg.mem hall).trans rfl, (congrArg Pkg.step hall).trans rfl, (congrArg Pkg.tasks hall).trans rfl,
    (congrArg Pkg.pwr hall).trans rfl⟩

/-- A die that passes its checks is UP. -/
theorem clockReturns_up (hreason : returnReason (p.dies.getD d {}).cap r = none) (hdue : p.step.abortDue = false)
    (hheld : p.step.commitHeld = false) :
    let t := clockReturns d r set p
    (t.dies.getD d {}).state = .up ∧ (t.dies.getD d {}).cap = (p.dies.getD d {}).cap ∧
      (t.dies.getD d {}).failedGroup = 0xFF ∧ bit t.pwr.tripFence d = false ∧ bit t.pwr.hostOnly d = false ∧
      t.integ.episode = p.integ.episode.map (fun e => { e with resets := e.resets.filter (· != d) }) ∧ t.mem = p.mem ∧
      t.step = p.step ∧ Leaves p t d 4 (padTo 128 (baseCap set)) ∧
      Leaves p t d 5 (padTo 128 ((List.range 128).map fun g => BitVec.ofNat 8 (roleOf g))) := by
  intro t
  have ht : t = afterReturn set d (dieBack d (upAgain set d p)) := by
    show clockReturns d r set p = _
    rw [clockReturns, he]
    dsimp only
    rw [if_neg (by rw [hfenced]; simpa using hunit), hreason]
    rfl
  have hrest := (upAgain_onlyDie set d p).rest
  have hdie := upAgain_die (set := set) hd
  obtain ⟨hcap, hroles⟩ := upAgain_leaves (set := set) hd
  generalize upAgain set d p = q at *
  have hstep : q.step = p.step := (congrArg Pkg.step hrest).trans rfl
  have hmem : q.mem = p.mem := (congrArg Pkg.mem hrest).trans rfl
  have hinteg : q.integ = p.integ := (congrArg Pkg.integ hrest).trans rfl
  obtain ⟨htmem, htstep, hpwr, hepisode, hafter, hemits⟩ := afterReturn_keeps set d (p := dieBack d q)
    (by show q.step.abortDue = false; rw [hstep]; exact hdue) (by show q.step.commitHeld = false; rw [hstep]; exact hheld)
  rw [← ht] at htmem htstep hpwr hepisode hafter hemits
  have htdie := hdie.trans hafter
  have hend : Emits q t := (Emits.of_out (p := q) (q := dieBack d q) rfl).trans hemits
  refine ⟨(congrArg Die.state htdie).trans rfl, (congrArg Die.cap htdie).trans rfl,
    (congrArg Die.failedGroup htdie).trans rfl, ?_, ?_, ?_,
    htmem.trans hmem, htstep.trans hstep, hcap.widen (.refl p) hend, hroles.widen (.refl p) hend⟩
  · rw [hpwr]
    show bit (clearBit q.pwr.tripFence d) d = false
    rw [bit_clearBit, decide_eq_true rfl, Bool.not_true, Bool.and_false]
  · rw [hpwr]
    show bit (clearBit q.pwr.hostOnly d) d = false
    rw [bit_clearBit, decide_eq_true rfl, Bool.not_true, Bool.and_false]
  · rw [hepisode]
    show q.integ.episode.map _ = _
    rw [hinteg]

end

end Sys2Proof.Machine
end

section
/-! PROOFS. The Worah Die Interface (O54): its commands. -/

namespace Sys2Proof.Machine

section
variable {s : State} {d : Nat} (hd : d < 4) (hlen : s.p.dies.length = 4) (hup : (s.p.dies.getD d {}).state = .up)
include hd hlen hup

/-! ### Flits that arrive -/

theorem wdiFlitReceive_good {g : Nat} {h : FlitHdr} {data : List Byte} {far : Bool} (hg : g < 128)
    (htrain : (laneGroup s.p d g).retraining = false) (hfar : far = true ∨ crosses d g h = false)
    (hqueue : (laneGroup s.p d g).queue = []) (htype : h.type = 4 ∨ h.type = 5) (hseq : h.seq = (laneGroup s.p d g).rxSeq)
    (hnak : h.nak = false) (hfront : (laneGroup s.p d g).frontReplays < 8) :
    ∃ t : Pkg, exec (.wdiFlitReceive d g h data (flitCrc h data) far []) s = .next { s with p := t } ∧
      (laneGroup t d g).rxSeq = ((laneGroup s.p d g).rxSeq + 1) % 1024 ∧ (laneGroup t d g).skipping = false ∧
      (laneGroup t d g).credits = modAt (laneGroup s.p d g).credits h.cflow (fun c => c + h.credit) ∧
      (laneGroup t d g).sent = afterAck h.ack (laneGroup s.p d g).sent ∧ SameIc s.p t := by
  have hd' : d < s.p.dies.length := hlen ▸ hd
  refine ⟨_, onP_of_eq ((takeFlit_good hup hg htrain hfar).trans
    (goodFlit_of_plain hd' hqueue htype hseq hnak hfront)), ?_⟩
  have hself := laneGroup_modLaneGroup_self (g := g) (f := fun y => linkTaken h (inOrder h.flow y)) hd'
    (laneGroup_id s.p d g)
  have hgroup := acknowledge_group (p := modLaneGroup d g (fun y => linkTaken h (inOrder h.flow y)) s.p)
    ((modDie_length ..).symm ▸ hd') g
  have hframe := (modLaneGroup_frame d g (fun y => linkTaken h (inOrder h.flow y)) s.p).trans (acknowledge_frame d g _)
  rw [hself] at hgroup
  obtain e | e := hgroup <;> rw [e] <;> exact ⟨rfl, rfl, rfl, rfl, hframe⟩

theorem wdiFlitReceive_nak {g : Nat} {h : FlitHdr} {data : List Byte} {far : Bool} (hg : g < 128)
    (htrain : (laneGroup s.p d g).retraining = false) (hfar : far = true ∨ crosses d g h = false)
    (hqueue : (laneGroup s.p d g).queue = []) (htype : h.type = 0) (hnak : h.nak = true)
    (hskip : (laneGroup s.p d g).skipping = false) (hfront : (laneGroup s.p d g).frontReplays < 7)
    (howed : (laneGroup s.p d g).owed = [0, 0, 0]) (hleft : afterAck h.ack (laneGroup s.p d g).sent ≠ []) :
    let again := (afterAck h.ack (laneGroup s.p d g).sent).map fun e =>
      let k := { e.1 with ack := ((laneGroup s.p d g).rxSeq + 1023) % 1024, cflow := 0, credit := 0 }
      (⟨d, g, k, padTo 128 e.2, flitCrc k e.2⟩ : WdiOut)
    ∃ t : Pkg, exec (.wdiFlitReceive d g h data (flitCrc h data) far []) s = .next { s with p := t } ∧
      t.out = { s.p.out with wdi := s.p.out.wdi ++ again } ∧
      (t.dies.getD d {}).replay = min 0xFFFF ((s.p.dies.getD d {}).replay + again.length) ∧
      t = { s.p with dies := t.dies, out := t.out } := by
  intro again
  have hgood : goodFlit d g h (padTo 128 data) s.set s.p = takeFlitLink d g h s.p := by
    rw [goodFlit, if_pos (by rw [htype]; rfl), if_neg (by rw [hskip]; exact Bool.false_ne_true)]
  obtain ⟨hout, hreplay, hsame⟩ := takeFlitLink_of_nak (hlen ▸ hd) hqueue hnak hfront howed hleft
  have hagain : (afterAck h.ack (laneGroup s.p d g).sent).map
      (fun x => flitOut d g (linkTaken h (laneGroup s.p d g)) x.1 x.2) = again := by
    refine List.map_congr_left fun x _ => ?_
    have hlink : (linkTaken h (laneGroup s.p d g)).owed = [0, 0, 0] := howed
    rw [flitOut, hlink]
    rfl
  rw [hagain] at hout
  refine ⟨_, onP_of_eq ((takeFlit_good hup hg htrain hfar).trans hgood), hout, ?_, hsame⟩
  rw [hreplay, List.length_map]

theorem wdiFlitReceive_bad {g : Nat} {h : FlitHdr} {data : List Byte} {far : Bool} {errs : List MemErr} (hg : g < 128)
    (htrain : (laneGroup s.p d g).retraining = false) {crc : Nat}
    (hbad : crc ≠ flitCrc h data ∨ (far = false ∧ crosses d g h = true)) :
    ∃ (t : Pkg) (f : WdiOut), exec (.wdiFlitReceive d g h data crc far errs) s = .next { s with p := t } ∧
      t.out = { s.p.out with wdi := s.p.out.wdi ++ [f] } ∧ f.die = d ∧ f.group = g ∧ f.h.type = 0 ∧
      f.h.nak = true ∧ f.h.ack = ((laneGroup s.p d g).rxSeq + 1023) % 1024 ∧ f.data = padTo 128 [] ∧
      f.crc = flitCrc f.h [] ∧
      (t.dies.getD d {}).crc = min 0xFFFF ((s.p.dies.getD d {}).crc + 1) ∧ (laneGroup t d g).skipping = true ∧
      (laneGroup t d g).rxSeq = (laneGroup s.p d g).rxSeq ∧
      t.integ = { s.p.integ with detect := modAt s.p.integ.detect 4 fun v => min 0xFFFFFFFF (v + 1) } ∧
      t = { s.p with dies := t.dies, out := t.out, integ := t.integ } := by
  obtain ⟨hout, hrest⟩ := badFlit_naks (p := s.p) (hlen ▸ hd) g
  exact ⟨_, _, onP_of_eq (takeFlit_bad hup hg htrain hbad), hout, rfl, rfl, rfl, rfl, rfl, rfl, rfl, hrest⟩

/-! ### Retrains and losses -/

omit hd hlen in
theorem wdiGroupRetrain_exec {g : Nat} (hg : g < 128) :
    exec (.wdiGroupRetrain d g) s = .next { s with
      p := modLaneGroup d g (fun y => { y with retraining := true }) s.p } := by
  refine onP_of_eq (f := fun _ p => groupRetrain d g p) ?_
  rw [groupRetrain, if_pos (by rw [hup]; simpa using hg)]

omit hd hlen in
theorem retrainEnds_of_training {g : Nat} (htrain : (laneGroup s.p d g).retraining = true) (ok : Bool) :
    retrainEnds d g ok s.set s.p =
      let p := modLaneGroup d g (fun y => { y with retraining := false, frontReplays := 0 }) s.p
      if ok then drainFlits d g (replayFlits d g p) else groupFails d g s.set p := by
  rw [retrainEnds, if_neg (by rw [hup, htrain]; decide)]

/-- The retrain of a group fails: the die is lost, with the group's number. -/
theorem retrainEnds_fails {g : Nat} (htrain : (laneGroup s.p d g).retraining = true) :
    ∃ f : Die → Die, (∀ x, (f x).state = x.state ∧ (f x).failedGroup = g) ∧
      retrainEnds d g false s.set s.p = loseDie d 2 4 s.set (modDie d f s.p) := by
  refine ⟨fun x => { setGroup { groupAt x g with retraining := false, frontReplays := 0 } x with failedGroup := g },
    fun x => ⟨rfl, rfl⟩, ?_⟩
  rw [retrainEnds_of_training hup htrain]
  show groupFails d g s.set _ = _
  rw [groupFails, if_neg, modLaneGroup, modDie_modDie]
  rw [modLaneGroup, die_modDie_self (hlen ▸ hd)]
  show ¬ ((s.p.dies.getD d {}).state != .up) = true
  rw [hup]
  decide

/-- A die that is lost for a failed group or for its clock. -/
theorem dieLost_exec (hnone : s.p.integ.episode = none) {c : Instr} {reason cause g : Nat}
    (hc : (c = .wdiGroupRetrainEnd d g false ∧ (laneGroup s.p d g).retraining = true ∧ reason = 2 ∧ cause = 4) ∨
      (c = .dieClockLoss d ∧ reason = 3 ∧ cause = 6 ∧ g = (s.p.dies.getD d {}).failedGroup)) :
    ∃ (t : Pkg) (e : Episode), exec c s = .next { s with p := t } ∧ (t.dies.getD d {}).state = .fenced ∧
      (t.dies.getD d {}).reason = reason ∧ (t.dies.getD d {}).failedGroup = g ∧ (t.dies.getD d {}).waiting = [] ∧
      t.integ.episode = some e ∧
      e.rung = 3 ∧ e.units = [0x0400 + d] ∧ e.cause = cause ∧ e.collecting = true ∧ e.only3 = true ∧
      (stepLive s.p = true → t.step.aborting = true ∧ bit t.step.failMask 7 = true) := by
  obtain ⟨rfl, htrain, rfl, rfl⟩ | ⟨rfl, rfl, rfl, rfl⟩ := hc
  · obtain ⟨f, hf, hends⟩ := retrainEnds_fails hd hlen hup htrain
    have hself : (modDie d f s.p).dies.getD d {} = f (s.p.dies.getD d {}) := die_modDie_self (hlen ▸ hd) f
    obtain ⟨hstate, hgroup⟩ := hf (s.p.dies.getD d {})
    obtain ⟨hdie, ⟨e, he, hrung, hunits, hcause, hcollect, honly⟩, hstep⟩ :=
      loseDie_fences s.set (p := modDie d f s.p) (reason := 2) (cause := 4) hd ((modDie_length ..).trans hlen)
        (by rw [hself, hstate]; exact hup) hnone
    exact ⟨_, e, onP_of_eq hends, by rw [hdie], by rw [hdie], by rw [hdie, hself]; exact hgroup, by rw [hdie], he, hrung,
      hunits, hcause, hcollect, honly, hstep⟩
  · obtain ⟨hdie, ⟨e, he, hrung, hunits, hcause, hcollect, honly⟩, hstep⟩ := loseDie_fences s.set (p := s.p)
      (reason := 3) (cause := 6) hd hlen hup hnone
    exact ⟨_, e, onP_eq _ _, by rw [hdie], by rw [hdie], by rw [hdie], by rw [hdie], he, hrung, hunits, hcause, hcollect,
      honly, hstep⟩

end

/-- Settles O54: a flit that gives its credits and a NAK are followed through the group's link fields; a write of a request
is one write of memory; a lost die is fenced before the ladder's call, which no later work undoes; and a die that returns
begins with empty groups, so the capability word and the plan leave at once. -/
theorem dieInterfaces : Obligations.DieInterfaces := by
  intro s d hd hlen x
  refine ⟨fun hup => ⟨fun g h data far errs hg htrain =>
        ⟨?_, fun crc hbad => wdiFlitReceive_bad hd hlen hup hg htrain hbad⟩,
      fun g dest r data => ⟨fun hbad => ?_, fun hbad => ⟨fun hop hread => ?_, fun hop hwrite => ?_, fun hop hhere =>
        ⟨fun hends => ?_, fun k hends hk hunit => ?_⟩, fun hop hrole hdest => ?_⟩⟩,
      fun g hg => wdiGroupRetrain_exec hup hg, fun g htrain => ?_,
      fun hnone c reason cause g hc => dieLost_exec hd hlen hup hnone hc⟩,
    fun e r hfenced he hcollect hunit => ⟨fun hreason hdue hheld => ?_, fun reason hreason => ?_⟩⟩
  · rintro hfar rfl hqueue
    exact ⟨fun htype hseq hnak hfront => wdiFlitReceive_good hd hlen hup hg htrain hfar hqueue htype hseq hnak hfront,
      fun htype hnak hskip hfront howed hleft =>
        wdiFlitReceive_nak hd hlen hup hg htrain hfar hqueue htype hnak hskip hfront howed hleft⟩
  · rw [wdiRequest_exec hup, serveRequest_bad hup hbad]
  · rw [wdiRequest_exec hup, serveRequest_read hup hbad hop hread]
  · rw [wdiRequest_exec hup, serveRequest_write hup hbad hop hwrite]
  · rw [wdiRequest_exec hup, serveRequest_here hup hbad hop hhere hends]
  · rw [wdiRequest_exec hup, serveRequest_ends hup hbad hd hop hhere hends hk hunit]
  · rw [wdiRequest_exec hup, serveRequest_forwards hup hbad hop hrole hdest, forward_eq]
  · exact onP_of_eq (retrainEnds_of_training hup htrain true)
  · obtain ⟨hstate, hcap, hgroup, htrip, hhost, hepisode, hmem, hstep, hword, f, hf, hdie, hctrl, htype, -⟩ :=
      clockReturns_up (set := s.set) (hlen ▸ hd) (rungNow_of_running he hcollect) hunit hfenced hreason hdue hheld
    rw [he] at hepisode
    exact ⟨_, onP_eq _ _, hstate, hcap, hgroup, htrip, hhost, hepisode, hmem, hstep, hword, f, hf, hdie, hctrl, htype⟩
  · obtain ⟨hstate, hwhy, hcap, hgroup, hword, hmem, hstep, htasks, hpwr⟩ :=
      clockReturns_refused (set := s.set) (hlen ▸ hd) (rungNow_of_running he hcollect) hunit hfenced hreason
    exact ⟨_, onP_eq _ _, hstate, hwhy, hcap, hgroup, hword, hmem, hstep, htasks, hpwr⟩

end Sys2Proof.Machine
end
